-- ==== Sys2Proof/Syntax.lean ====
section
/-! DEFINITION. The instruction words of spec files 08 to 13 and the device steps of 95, as one type: a constructor for every
row of the opcode table. A register field is a number whose range WellFormed checks; the guard `g` names P0 to P15
(08 R191). Bit 31 of a word (B) belongs to the bundle, not to the instruction. -/
namespace Sys2Proof

/-- An immediate as R194 forms it: the word's own field and the payloads of its X words, nearest first. -/
structure Imm where
  field : Nat
  xs : List Nat
  deriving DecidableEq, Repr

/-- The X word of a class V word (10 R252). -/
structure VX where
  vc : Nat
  cv : Nat
  vm : Nat
  mv : Nat
  sat : Nat
  deriving DecidableEq, Repr

/-- The operand fields of a class V word in the common layout (10 R251). -/
structure VOps where
  s : Nat
  c : Nat
  d : Nat
  rnd : Nat
  a : Nat
  b : Nat
  x : Option VX
  deriving DecidableEq, Repr

/-- Where a fabric payload comes from: a send of this module (its operation number) or a peer module (13 R348). -/
inductive FabricSource where
  | fromSend (op : Nat)
  | external (p seq member channel : Nat) (typeWord : BitVec 64) (bytes : List (BitVec 8))
  deriving DecidableEq, Repr

/-- A line of a core's register caches: line `k` of the 16 of the tile cache, or of the 32 of the run cache (01 R38). -/
inductive LineId where
  | tile (k : Nat)
  | run (k : Nat)
  deriving DecidableEq, Repr

/-- The power states of a register-cache line (01 R39). -/
inductive LinePower where
  | operating | drowsy | refreshing | gated
  deriving DecidableEq, Repr

/-- A host access through a window BAR (21 R438). -/
inductive HostAccess where
  | read (len : Nat)
  | write (bytes : List (BitVec 8))
  deriving DecidableEq, Repr

/-- What a soft error strikes (23 R475, R477, R480): a stored bit (0 to 511) of a line of memory, or of one of the copies that have line
numbers of their own, in the L2, a register cache or shadow storage (log entry 133); a bit of data on its way to a line,
a bit of an accumulator, or a register of a context: 0 to 63 an X register, 64 to 79 a predicate, 80 + n the CSR n. -/
inductive SoftError where
  | memory (line bit : Nat)
  | dataPath (line bit : Nat)
  | accumulator (core row col bit : Nat)
  | registerFile (core slot reg : Nat)
  deriving DecidableEq, Repr

/-- Every row of the opcode table: 230 instruction words, then 86 device steps and host commands. -/
inductive Instr where
  -- Class S (09 R223 to R225).
  | add (g d a b : Nat)
  | sub (g d a b : Nat)
  | addi (g d a : Nat) (imm : Imm)
  | movi (g d : Nat) (imm : Imm)
  | mul (g d a b : Nat)
  | mulh (g d a b : Nat)
  | mulhu (g d a b : Nat)
  | and (g d a b : Nat)
  | or (g d a b : Nat)
  | xor (g d a b : Nat)
  | andn (g d a b : Nat)
  | andi (g d a : Nat) (imm : Imm)
  | ori (g d a : Nat) (imm : Imm)
  | xori (g d a : Nat) (imm : Imm)
  | shl (g d a b : Nat)
  | shr (g d a b : Nat)
  | sar (g d a b : Nat)
  | shli (g d a n : Nat)
  | shri (g d a n : Nat)
  | sari (g d a n : Nat)
  | clz (g d a : Nat)
  | popc (g d a : Nat)
  | min (g d a b : Nat)
  | max (g d a b : Nat)
  | minu (g d a b : Nat)
  | maxu (g d a b : Nat)
  | sel (g d a b c : Nat)
  | bfx (g d a b : Nat)
  | bfi (g d a b : Nat)
  | cmpeq (g d a b : Nat)
  | cmpne (g d a b : Nat)
  | cmplt (g d a b : Nat)
  | cmpltu (g d a b : Nat)
  | cmple (g d a b : Nat)
  | cmpleu (g d a b : Nat)
  | cmpeqi (g d a : Nat) (imm : Imm)
  | cmplti (g d a : Nat) (imm : Imm)
  -- Class C (09 R226 to R245, 11 R293 to R297, 13 R354 to R358).
  | nop (g n : Nat)
  | br (g : Nat) (imm : Imm)
  | brx (g a : Nat)
  | call (g : Nat) (imm : Imm)
  | callx (g a : Nat)
  | ret (g a : Nat)
  | tend (g : Nat)
  | trap (g code : Nat)
  | loop (g a off : Nat)
  | loopi (g n off : Nat)
  | loopt (g d a b off : Nat)
  | pipe (g a s : Nat)
  | lclose (g : Nat) (imm : Imm)
  | pand (g d a b : Nat)
  | por (g d a b : Nat)
  | pxor (g d a b : Nat)
  | pandn (g d a b : Nat)
  | pnot (g d a : Nat)
  | pseti (g d v : Nat)
  | ptox (g d : Nat)
  | xtop (g a : Nat)
  | waitany (g d a : Nat)
  | waitall (g d a : Nat)
  | ffrdy (g d a : Nat)
  | pushm (g a b : Nat)
  | popm (g a b : Nat)
  | bara (g d b : Nat)
  | barw (g b : Nat)
  | fence (g ord scope : Nat)
  | csrr (g d csr : Nat)
  | csrw (g a csr : Nat)
  | csrs (g a csr : Nat)
  | csrc (g a csr : Nat)
  | tret (g : Nat)
  | dbrk (g code : Nat)
  | regwb (g a : Nat)
  | lqry (g d a : Nat)
  -- Class V (10 R251 to R267, R273).
  | vadd (g : Nat) (o : VOps)
  | vsub (g : Nat) (o : VOps)
  | vmul (g : Nat) (o : VOps)
  | vfma (g : Nat) (o : VOps)
  | vdiv (g : Nat) (o : VOps)
  | vmin (g : Nat) (o : VOps)
  | vmax (g : Nat) (o : VOps)
  | vneg (g : Nat) (o : VOps)
  | vabs (g : Nat) (o : VOps)
  | vand (g : Nat) (o : VOps)
  | vor (g : Nat) (o : VOps)
  | vxor (g : Nat) (o : VOps)
  | vshl (g : Nat) (o : VOps)
  | vshr (g : Nat) (o : VOps)
  | vsar (g : Nat) (o : VOps)
  | vsel (g : Nat) (o : VOps)
  | vcmpeq (g : Nat) (o : VOps)
  | vcmpne (g : Nat) (o : VOps)
  | vcmplt (g : Nat) (o : VOps)
  | vcmple (g : Nat) (o : VOps)
  | vcvt (g c d rnd a raw tag : Nat) (sat : Option Nat)
  | vrco (g d a : Nat)
  | vmov (g d a : Nat)
  | vsplat (g tag d a b : Nat)
  | vrot (g c d a b : Nat)
  | vbcst (g d a b : Nat)
  | vred (g d rnd a op : Nat) (mask : Option (Option Nat))
  | vscan (g c d rnd a : Nat)
  | vexpd (g c d a b : Nat)
  | vsetch (g d a b : Nat)
  | vgetch (g d a : Nat)
  | vpopq (g d q : Nat)
  | vcrot (g d a b : Nat)
  | vcbcst (g d a b : Nat)
  | vcred (g c d rnd a op : Nat)
  | vcscan (g c d rnd a op : Nat)
  | vldl (g tag d a b : Nat)
  | vstl (g a b : Nat)
  | vopt (g r rnd gr h : Nat)
  | vextr (g d a b : Nat)
  -- Class F (10 R277).
  | frcp (g c d rnd a sat : Nat)
  | frsq (g c d rnd a sat : Nat)
  | fsqrt (g c d rnd a sat : Nat)
  | fexp (g c d rnd a sat : Nat)
  | fexp2 (g c d rnd a sat : Nat)
  | flog (g c d rnd a sat : Nat)
  | flog2 (g c d rnd a sat : Nat)
  | ftanh (g c d rnd a sat : Nat)
  | fsig (g c d rnd a sat : Nat)
  | fsin (g c d rnd a sat : Nat)
  | fcos (g c d rnd a sat : Nat)
  | frand (g d a : Nat)
  -- Class MA (11 R283 to R288, R298; 12 R311; 10 R268 to R272).
  | ldb (g d a : Nat) (imm : Imm)
  | ldbu (g d a : Nat) (imm : Imm)
  | ldh (g d a : Nat) (imm : Imm)
  | ldhu (g d a : Nat) (imm : Imm)
  | ldw (g d a : Nat) (imm : Imm)
  | ldwu (g d a : Nat) (imm : Imm)
  | ldd (g d a : Nat) (imm : Imm)
  | lda (g d a : Nat) (imm : Imm)
  | stb (g s a : Nat) (imm : Imm)
  | sth (g s a : Nat) (imm : Imm)
  | stw (g s a : Nat) (imm : Imm)
  | std (g s a : Nat) (imm : Imm)
  | strl (g s a : Nat) (imm : Imm)
  | aadd (g d a b : Nat) (size : Option Nat)
  | aswp (g d a b : Nat) (size : Option Nat)
  | acas (g d a b : Nat) (size : Option Nat)
  | amin (g d a b : Nat) (size : Option Nat)
  | amax (g d a b : Nat) (size : Option Nat)
  | aminu (g d a b : Nat) (size : Option Nat)
  | amaxu (g d a b : Nat) (size : Option Nat)
  | qpops (g q a b : Nat) (skip : Option (Option Nat))
  | tlds (g t a o : Nat)
  | tsts (g t a o : Nat)
  | vldr (g d a b fmt pitch : Nat)
  | vstx (g a s fmt rnd sat pitch : Nat)
  | vpack (g a s : Nat)
  | vunpack (g d a : Nat)
  -- Class MB (11 R283 to R291, R298; 12 R311).
  | ldbCm (g d a : Nat) (imm : Imm)
  | ldbuCm (g d a : Nat) (imm : Imm)
  | ldhCm (g d a : Nat) (imm : Imm)
  | ldhuCm (g d a : Nat) (imm : Imm)
  | ldwCm (g d a : Nat) (imm : Imm)
  | ldwuCm (g d a : Nat) (imm : Imm)
  | lddCm (g d a : Nat) (imm : Imm)
  | ldaCm (g d a : Nat) (imm : Imm)
  | stbCm (g s a : Nat) (imm : Imm)
  | sthCm (g s a : Nat) (imm : Imm)
  | stwCm (g s a : Nat) (imm : Imm)
  | stdCm (g s a : Nat) (imm : Imm)
  | strlCm (g s a : Nat) (imm : Imm)
  | aaddCm (g d a b : Nat) (size : Option Nat)
  | aswpCm (g d a b : Nat) (size : Option Nat)
  | acasCm (g d a b : Nat) (size : Option Nat)
  | aminCm (g d a b : Nat) (size : Option Nat)
  | amaxCm (g d a b : Nat) (size : Option Nat)
  | aminuCm (g d a b : Nat) (size : Option Nat)
  | amaxuCm (g d a b : Nat) (size : Option Nat)
  | qpopsCm (g q a b : Nat) (skip : Option (Option Nat))
  | tldsCm (g t a : Nat)
  | tstsCm (g t a : Nat)
  | cadd (g d a b scope ord order : Nat)
  | cswp (g d a b scope ord order : Nat)
  | ccas (g d a b scope ord order : Nat)
  | cmin (g d a b scope ord order : Nat)
  | cmax (g d a b scope ord order : Nat)
  | cld (g d a scope ord order : Nat)
  -- Class E (12 R302; 13 R333).
  | tsett (g t a : Nat)
  | tgett (g d t : Nat)
  | dbind (g d a : Nat)
  | drebind (g d a : Nat)
  | dclr (g m : Nat)
  | dget (g d a : Nat)
  | tflag (g t clr set : Nat)
  | tzero (g t : Nat)
  | tmov (g d a : Nat)
  | treshp (g d a b tag : Nat)
  | ttrans (g d a tag : Nat)
  | tcast (g d a tag fmt : Nat)
  | tcvt (g d a tag fmt rnd sat : Nat)
  | tqnt (g d a tag fmt geom rnd : Nat)
  | tdqnt (g d a tag fmt rnd sat : Nat)
  | tcmpr (g d a e tag : Nat)
  | mlds (g a tag : Nat)
  | mswap (g tag : Nat)
  | mmul (g q a start c tag fmt rnd sat : Nat)
  | mmuln (g a start c tag : Nat)
  | mmulS (g q a start c tag fmt rnd sat m : Nat)
  | mmulnS (g a start c tag m : Nat)
  | mdrain (g q tag fmt rnd sat : Nat)
  | mxw (g x a : Nat)
  | mxr (g d x : Nat)
  | cew (g x a : Nat)
  | cewi (g x : Nat) (imm : Imm)
  | cer (g d x : Nat)
  | cerst (g : Nat)
  | copy (g tag a b : Nat)
  | ymatch (g v a b tag : Nat)
  | ymerge (g v a tag : Nat)
  | yunmerge (g a tag : Nat)
  | yretire (g a tag : Nat)
  | ystat (g d : Nat)
  | tspawn (g d a b : Nat)
  | gdec (g d a b : Nat)
  | gread (g d a : Nat)
  | dsend (g a tag : Nat)
  | drecv (g a b tag : Nat)
  | dflush (g tag : Nat)
  | dcomb (g a tag : Nat)
  | fsend (g a b tag : Nat)
  | frecv (g t b tag : Nat)
  | lgath (g a b tag : Nat)
  | ldedup (g d a b : Nat)
  | lpool (g a op tag : Nat)
  | lhand (g a tag : Nat)
  -- Device steps and host commands: rows without an encoding (95_what_each_step_holds.md).
  /-- R15: core `core` spends a cycle and takes its first ready context. -/
  | contextSwitch (core : Nat)
  /-- R24: the blocked team of task (`p`, `seq`) starts its move to shadow storage. -/
  | stabling (p seq : Nat)
  /-- R27: that move completes. -/
  | stablingMoveComplete (p seq : Nat)
  /-- R28: the woken team returns to its slots. -/
  | teamReturn (p seq : Nat)
  /-- R29: one round of the task scheduler. -/
  | schedulingRound
  /-- R460: the next sharer takes the cluster. -/
  | timeShareHandOver (cluster : Nat)
  /-- R31: every core of the target team has halted. -/
  | preemptionHalt (p seq : Nat)
  /-- R34: a hard-pre-empted team is evacuated. -/
  | evacuation (p seq : Nat)
  /-- R34: a pre-empted team resumes. -/
  | taskResume (p seq cluster : Nat)
  /-- R20: a task completes. -/
  | taskCompletion (p seq : Nat)
  /-- R21: a faulted task has stopped and ends. -/
  | faultTaskEnd (p seq : Nat)
  /-- R58: all leases of a task are granted together. -/
  | leaseGrant (p seq : Nat)
  /-- R447: a return transfer of frame `f` finishes; `ok` says whether the host read succeeded. -/
  | frameReturn (f : Nat) (ok : Bool)
  /-- R140: the next matrix command of the core that may start does. -/
  | matrixCommandStart (core : Nat)
  /-- R141: the loading MLDS finishes. -/
  | mldsLoadComplete (core : Nat)
  /-- R140: the MSWAP at the front exchanges the planes. -/
  | mswapTakesEffect (core : Nat)
  /-- R143: the current chunk has streamed and is checked. -/
  | mmulChunkEnd (core : Nat)
  /-- R145: the array pushes the next slab. -/
  | slabPush (core : Nat)
  /-- R146: the waiting drain passes its bound. -/
  | drainWaitTimeout (core : Nat)
  /-- R156: the oldest held follow-on command enters the matrix queue. -/
  | followOnEntry (core : Nat)
  /-- R152: engine operation `op` starts and is checked. -/
  | copyStart (op : Nat)
  /-- R63: engine operation `op` completes. -/
  | copyCompletion (op : Nat)
  /-- R483: the next yoke command of the span starts. -/
  | yokeCommandStart (span : Nat)
  /-- R164: the running yoke command completes. -/
  | yokeCommandCompletion (span : Nat)
  /-- R169: hand-off `op` lands, is held or is discarded. -/
  | handOffLanding (op : Nat)
  /-- R344: the next row sent by DSEND `op` lands or is dropped. -/
  | dispatchRowLanding (op : Nat)
  /-- R345: DFLUSH `op` completes. -/
  | dflushCompletion (op : Nat)
  /-- R346: DRECV wait `op` completes. -/
  | dispatchWaitCompletion (op : Nat)
  /-- R348: a payload arrives. -/
  | fabricPayloadArrival (src : FabricSource)
  /-- R292: counter operation `op` performs at its home. -/
  | counterOperationPerform (op : Nat)
  /-- R292: the reply of `op` arrives. -/
  | counterReplyArrival (op : Nat)
  /-- R340: the command processor performs GDEC or GREAD `op`. -/
  | graphCounterDecrement (op : Nat)
  /-- R39: a register-cache line changes its power state. -/
  | cacheLinePowerState (core : Nat) (line : LineId) (st : LinePower)
  /-- R420: function-level reset of a virtual function. -/
  | functionLevelReset (vf : Nat)
  /-- R423: a write of SQTAIL. -/
  | sqtail (p q v : Nat)
  /-- R425: a write of CQHEAD. -/
  | cqhead (p q v : Nat)
  /-- R426: the next record of ring `q` is fetched; its KIND is 1. -/
  | kernelLaunch (p q : Nat)
  /-- R426: KIND 2. -/
  | lookupKernelLaunch (p q : Nat)
  /-- R428: KIND 3. -/
  | transformLaunch (p q : Nat)
  /-- R434: KIND 4. -/
  | graphLaunch (p q : Nat)
  /-- R433: KIND 5. -/
  | seal (p q : Nat)
  /-- R435: KIND 6. -/
  | retire (p q : Nat)
  /-- R423: CTIME expires. -/
  | cqInterruptTimer (p q : Nat)
  /-- R436: a write of CTLTAIL. -/
  | ctltail (v : Nat)
  /-- R438: the control-ring command at CTLHEAD is FMSET. -/
  | fmset
  /-- R438: the control-ring command at CTLHEAD is FMGET. -/
  | fmget
  /-- R438: the control-ring command at CTLHEAD is WRFRM. -/
  | wrfrm
  /-- R438: the control-ring command at CTLHEAD is RDFRM. -/
  | rdfrm
  /-- R438: the control-ring command at CTLHEAD is WTSET. -/
  | wtset
  /-- R438: the control-ring command at CTLHEAD is INVAL. -/
  | inval
  /-- R438: the control-ring command at CTLHEAD is MIGRATE. -/
  | migrate
  /-- R442: the migration copy of frame `f` finishes and its entry flips. -/
  | migrationFlip (f : Nat)
  /-- R446: the control-ring command at CTLHEAD is OFFLOAD. -/
  | offload
  /-- R446: the outward write of frame `f` finishes; `ok` says whether the host write succeeded. -/
  | offloadComplete (f : Nat) (ok : Bool)
  /-- R438: the control-ring command at CTLHEAD is RETURN. -/
  | returnFrame
  /-- R438: the control-ring command at CTLHEAD is POOL. -/
  | pool
  /-- R438: the control-ring command at CTLHEAD is CELLS. -/
  | cells
  /-- R438: the control-ring command at CTLHEAD is EVAC. -/
  | evac
  /-- R438: the control-ring command at CTLHEAD is PREEMPT. -/
  | preempt
  /-- R438: the control-ring command at CTLHEAD is RESUME. -/
  | resume
  /-- R438: the control-ring command at CTLHEAD is ENDTASK. -/
  | endtask
  /-- R438: the control-ring command at CTLHEAD is CTXREAD. -/
  | ctxread
  /-- R438: the control-ring command at CTLHEAD is LKASSIGN. -/
  | lkassign
  /-- R438: the control-ring command at CTLHEAD is DEBUG. -/
  | debug
  /-- R438: the control-ring command at CTLHEAD is CTRCLR. -/
  | ctrclr
  /-- R438: the control-ring command at CTLHEAD is BARMAP. -/
  | barmap
  /-- R438: the control-ring command at CTLHEAD is ATTEST. -/
  | attest
  /-- R438: the control-ring command at CTLHEAD is FWSTAGE. -/
  | fwstage
  /-- R438: a host access through a window BAR. -/
  | windowBarAccess (pf : Bool) (p addr : Nat) (acc : HostAccess)
  /-- R443: a write of NQHEAD. -/
  | nqhead (p v : Nat)
  /-- R445: the driver clears OVF. -/
  | noticeOvfClear (p : Nat)
  /-- R461: a write of CLMASK. -/
  | clmask (p : Nat) (v : BitVec 64)
  /-- R458: a write of the register that holds EN. -/
  | paddockEn (p : Nat) (v : BitVec 64)
  /-- R457: a write of the register at offset 0x08 or 0x10. -/
  | paddockAllotmentWrite (p off : Nat) (v : BitVec 64)
  /-- R470: a write of PLIMIT. -/
  | plimit (v : BitVec 64)
  /-- R471: a sample of module input power, in W. -/
  | powerSample (w : Nat)
  /-- R471: the management controllers act on the power attributed to each paddock. -/
  | powerStep (attributed : List (Nat × Nat))
  /-- R465: arbiter `arb` grants one unit among the waiting paddocks; `frame` is the frame of the line a memory controller transfers. -/
  | arbiterGrant (arb : Nat) (waiting : List Nat) (frame : Option Nat)
  /-- R475: the scrubber reads one line. -/
  | scrubRead (line : Nat)
  /-- R479: a write of ELHEAD. -/
  | elhead (v : Nat)
  /-- R454: module reset and boot. -/
  | moduleReset
  /-- R356: the debugger releases a team. -/
  | debuggerRelease (p seq : Nat)
  /-- R7: a write to a BAR0 register without behaviour of its own. -/
  | registerWrite (off : Nat) (v : BitVec 64)
  /-- R480: a soft error. -/
  | softError (e : SoftError)
  /-- R289: the target of remote counter operation `op` is lost. -/
  | remoteTargetUnreachable (op : Nat)
  /-- R468: an island changes its operating point. -/
  | islandOperatingPointChange (island point : Nat)
  deriving DecidableEq, Repr

end Sys2Proof
end

