-- ==== Sys2Proof/WellFormed.lean ====
section
/-! DEFINITION. Which terms of Instr stand for an encodable word: every field in the range its bits give it, and the operand
values that the entries assign to EN-02 shut out (08 R193, R200). -/
namespace Sys2Proof

/-- The CSR numbers of 09 R246. -/
def csrExists (n : Nat) : Bool :=
  n < 9 || n == 9 || (0x010 <= n && n <= 0x013) || (0x020 <= n && n <= 0x022) || (0x030 <= n && n <= 0x032) ||
    (0x038 <= n && n <= 0x03F) || n == 0x040 || n == 0x041

/-- The CSRs that a lookup core decodes (09 R246, last column). -/
def csrOnLookup (n : Nat) : Bool :=
  csrExists n && n != 0x005 && n != 0x006 && n != 0x021 && n != 0x022 && !(0x030 <= n && n <= 0x03F)

/-- An immediate with an own field of `width` bits and at most `maxX` X words; when it is longer than 64 bits, the bits above
bit 63 all equal bit 63 (08 R194, signed). -/
def Imm.wf (width maxX : Nat) (m : Imm) : Bool :=
  m.field < 2 ^ width && m.xs.length <= maxX && m.xs.all (· < 2 ^ 28) &&
    (match m.xs with
     | [x0, x1] =>
       let raw := m.field + 2 ^ width * (x0 + 2 ^ 28 * x1)
       width + 56 <= 64 || raw / 2 ^ 63 == 0 || raw / 2 ^ 63 == 2 ^ (width + 56 - 63) - 1
     | _ => true)

/-- The value of a signed immediate, extended to 64 bits (08 R194). -/
def Imm.value (width : Nat) (m : Imm) : BitVec 64 :=
  match m.xs with
  | [] => (BitVec.ofNat width m.field).signExtend 64
  | [x0] => (BitVec.ofNat (width + 28) (m.field + 2 ^ width * x0)).signExtend 64
  | x0 :: x1 :: _ => (BitVec.ofNat (width + 56) (m.field + 2 ^ width * (x0 + 2 ^ 28 * x1))).signExtend 64

/-- What a class V entry admits (10 R253): each flag names a field that may be used. `third` and `needMask` ask for CV = 1 and
MV = 1. -/
structure VAllow where
  s : Bool
  c : Bool
  rnd : Bool
  mask : Bool
  sat : Bool
  third : Bool
  needMask : Bool
  b : Bool
  deriving DecidableEq, Repr

/-- Every field of the X word in range, and the fields that the entry does not use 0 (10 R252, R253). -/
def VX.wf (al : VAllow) (x : VX) : Bool :=
  x.vc < 16 && x.cv < 2 && x.vm < 16 && x.mv < 2 && x.sat < 2 &&
    (x.cv == if al.third then 1 else 0) && (x.cv == 1 || x.vc == 0) &&
    (x.mv == 1 || x.vm == 0) && (al.mask || x.mv == 0) && (!al.needMask || x.mv == 1) && (al.sat || x.sat == 0)

/-- The operand fields of a class V word under what its entry admits. -/
def VOps.wf (al : VAllow) (o : VOps) : Bool :=
  o.s < 2 && o.c < 2 && o.d < 16 && o.rnd < 3 && o.a < 16 && o.b < 64 &&
    (al.s || o.s == 0) && (al.c || o.c == 0) && (al.rnd || o.rnd == 0) && (al.b || o.b == 0) && (o.s == 1 || o.b < 16) &&
    (match o.x with
     | none => !al.third && !al.needMask
     | some x => (al.mask || al.sat || al.third) && x.wf al)

/-- What the entries of VADD, VSUB, VMUL, VDIV admit (10 R255, R259). -/
def VAllow.arith : VAllow := ⟨true, true, true, true, true, false, false, true⟩

/-- What the entries of VFMA admit (10 R255, R259). -/
def VAllow.fma : VAllow := ⟨true, true, true, true, true, true, false, true⟩

/-- What the entries of VMIN, VMAX, the bitwise words, shifts and compares admit (10 R255, R259). -/
def VAllow.logic : VAllow := ⟨true, true, false, true, false, false, false, true⟩

/-- What the entries of VNEG, VABS admit (10 R255, R259). -/
def VAllow.unary : VAllow := ⟨false, true, false, true, true, false, false, false⟩

/-- What the entries of VSEL admit (10 R255, R259). -/
def VAllow.select : VAllow := ⟨true, true, false, true, false, false, true, true⟩

/-- An optional mask operand of VRED: no X word, an X word without a mask, or an X word naming the mask. -/
def maskWf : Option (Option Nat) → Bool
  | none => true
  | some none => true
  | some (some v) => v < 16

/-- Well-formedness of an instruction: the fields in range and the values of EN-02 shut out. For a device step, the unit it
names exists. -/
def Instr.wf : Instr → Bool
  | .add g d a b => g < 16 && d < 64 && a < 64 && b < 64
  | .sub g d a b => g < 16 && d < 64 && a < 64 && b < 64
  | .addi g d a imm => g < 16 && d < 64 && a < 64 && imm.wf 6 2
  | .movi g d imm => g < 16 && d < 64 && imm.wf 12 1
  | .mul g d a b => g < 16 && d < 64 && a < 64 && b < 64
  | .mulh g d a b => g < 16 && d < 64 && a < 64 && b < 64
  | .mulhu g d a b => g < 16 && d < 64 && a < 64 && b < 64
  | .and g d a b => g < 16 && d < 64 && a < 64 && b < 64
  | .or g d a b => g < 16 && d < 64 && a < 64 && b < 64
  | .xor g d a b => g < 16 && d < 64 && a < 64 && b < 64
  | .andn g d a b => g < 16 && d < 64 && a < 64 && b < 64
  | .andi g d a imm => g < 16 && d < 64 && a < 64 && imm.wf 6 2
  | .ori g d a imm => g < 16 && d < 64 && a < 64 && imm.wf 6 2
  | .xori g d a imm => g < 16 && d < 64 && a < 64 && imm.wf 6 2
  | .shl g d a b => g < 16 && d < 64 && a < 64 && b < 64
  | .shr g d a b => g < 16 && d < 64 && a < 64 && b < 64
  | .sar g d a b => g < 16 && d < 64 && a < 64 && b < 64
  | .shli g d a n => g < 16 && d < 64 && a < 64 && n < 64
  | .shri g d a n => g < 16 && d < 64 && a < 64 && n < 64
  | .sari g d a n => g < 16 && d < 64 && a < 64 && n < 64
  | .clz g d a => g < 16 && d < 64 && a < 64
  | .popc g d a => g < 16 && d < 64 && a < 64
  | .min g d a b => g < 16 && d < 64 && a < 64 && b < 64
  | .max g d a b => g < 16 && d < 64 && a < 64 && b < 64
  | .minu g d a b => g < 16 && d < 64 && a < 64 && b < 64
  | .maxu g d a b => g < 16 && d < 64 && a < 64 && b < 64
  | .sel g d a b c => g < 16 && d < 64 && a < 64 && b < 64 && c < 16
  | .bfx g d a b => g < 16 && d < 64 && a < 64 && b < 64
  | .bfi g d a b => g < 16 && d < 64 && a < 64 && b < 64
  | .cmpeq g d a b => g < 16 && d < 16 && a < 64 && b < 64
  | .cmpne g d a b => g < 16 && d < 16 && a < 64 && b < 64
  | .cmplt g d a b => g < 16 && d < 16 && a < 64 && b < 64
  | .cmpltu g d a b => g < 16 && d < 16 && a < 64 && b < 64
  | .cmple g d a b => g < 16 && d < 16 && a < 64 && b < 64
  | .cmpleu g d a b => g < 16 && d < 16 && a < 64 && b < 64
  | .cmpeqi g d a imm => g < 16 && d < 16 && a < 64 && imm.wf 6 2
  | .cmplti g d a imm => g < 16 && d < 16 && a < 64 && imm.wf 6 2
  | .nop g n => g < 16 && n < 262144
  | .br g imm => g < 16 && imm.wf 18 1
  | .brx g a => g < 16 && a < 64
  | .call g imm => g < 16 && imm.wf 18 1
  | .callx g a => g < 16 && a < 64
  | .ret g a => g < 16 && a < 64
  | .tend g => g < 16
  | .trap g code => g < 16 && code < 64
  | .loop g a off => g < 16 && a < 64 && off < 4096 && off != 0
  | .loopi g n off => g < 16 && n < 4096 && off < 64 && off != 0
  | .loopt g d a b off => g < 16 && d < 64 && a < 64 && b < 64 && off < 4096 && off != 0 && 1 <= d && d <= 46
  | .pipe g a s => g < 16 && a < 64 && s < 64 && 1 <= s && s <= 8
  | .lclose g imm => g < 16 && imm.wf 18 1
  | .pand g d a b => g < 16 && d < 16 && a < 16 && b < 16
  | .por g d a b => g < 16 && d < 16 && a < 16 && b < 16
  | .pxor g d a b => g < 16 && d < 16 && a < 16 && b < 16
  | .pandn g d a b => g < 16 && d < 16 && a < 16 && b < 16
  | .pnot g d a => g < 16 && d < 16 && a < 16
  | .pseti g d v => g < 16 && d < 16 && v < 2
  | .ptox g d => g < 16 && d < 64
  | .xtop g a => g < 16 && a < 64
  | .waitany g d a => g < 16 && d < 64 && a < 64
  | .waitall g d a => g < 16 && d < 64 && a < 64
  | .ffrdy g d a => g < 16 && d < 64 && a < 64
  | .pushm g a b => g < 16 && a < 64 && b < 64 && a <= b
  | .popm g a b => g < 16 && a < 64 && b < 64 && a <= b
  | .bara g d b => g < 16 && d < 64 && b < 8
  | .barw g b => g < 16 && b < 8
  | .fence g ord scope => g < 16 && ord < 4 && scope < 8 && scope != 7
  | .csrr g d csr => g < 16 && d < 64 && csr < 4096 && csrExists csr
  | .csrw g a csr => g < 16 && a < 64 && csr < 4096 && csrExists csr
  | .csrs g a csr => g < 16 && a < 64 && csr < 4096 && csrExists csr
  | .csrc g a csr => g < 16 && a < 64 && csr < 4096 && csrExists csr
  | .tret g => g < 16
  | .dbrk g code => g < 16 && code < 64
  | .regwb g a => g < 16 && a < 64
  | .lqry g d a => g < 16 && d < 64 && a < 64
  | .vadd g o => g < 16 && o.wf VAllow.arith
  | .vsub g o => g < 16 && o.wf VAllow.arith
  | .vmul g o => g < 16 && o.wf VAllow.arith
  | .vfma g o => g < 16 && o.wf VAllow.fma
  | .vdiv g o => g < 16 && o.wf VAllow.arith
  | .vmin g o => g < 16 && o.wf VAllow.logic
  | .vmax g o => g < 16 && o.wf VAllow.logic
  | .vneg g o => g < 16 && o.wf VAllow.unary
  | .vabs g o => g < 16 && o.wf VAllow.unary
  | .vand g o => g < 16 && o.wf VAllow.logic
  | .vor g o => g < 16 && o.wf VAllow.logic
  | .vxor g o => g < 16 && o.wf VAllow.logic
  | .vshl g o => g < 16 && o.wf VAllow.logic
  | .vshr g o => g < 16 && o.wf VAllow.logic
  | .vsar g o => g < 16 && o.wf VAllow.logic
  | .vsel g o => g < 16 && o.wf VAllow.select
  | .vcmpeq g o => g < 16 && o.wf VAllow.logic
  | .vcmpne g o => g < 16 && o.wf VAllow.logic
  | .vcmplt g o => g < 16 && o.wf VAllow.logic
  | .vcmple g o => g < 16 && o.wf VAllow.logic
  | .vcvt g c d rnd a raw tag sat => g < 16 && c < 2 && d < 16 && rnd < 4 && a < 16 && raw < 2 && tag < 4 && (sat == none || sat == some 0 || sat == some 1) && rnd != 3 && tag != 3 && (sat == none || sat == some 0 || tag == 2)
  | .vrco g d a => g < 16 && d < 16 && a < 16
  | .vmov g d a => g < 16 && d < 16 && a < 16
  | .vsplat g tag d a b => g < 16 && tag < 4 && d < 16 && a < 64 && b < 64 && tag != 3
  | .vrot g c d a b => g < 16 && c < 2 && d < 16 && a < 16 && b < 64
  | .vbcst g d a b => g < 16 && d < 16 && a < 16 && b < 64
  | .vred g d rnd a op mask => g < 16 && d < 16 && rnd < 4 && a < 16 && op < 4 && maskWf mask && rnd != 3 && (rnd == 0 || op == 0)
  | .vscan g c d rnd a => g < 16 && c < 2 && d < 16 && rnd < 4 && a < 16 && rnd != 3
  | .vexpd g c d a b => g < 16 && c < 2 && d < 16 && a < 16 && b < 16
  | .vsetch g d a b => g < 16 && d < 16 && a < 16 && b < 64
  | .vgetch g d a => g < 16 && d < 16 && a < 16
  | .vpopq g d q => g < 16 && d < 16 && q < 8
  | .vcrot g d a b => g < 16 && d < 16 && a < 16 && b < 64
  | .vcbcst g d a b => g < 16 && d < 16 && a < 16 && b < 64
  | .vcred g c d rnd a op => g < 16 && c < 2 && d < 16 && rnd < 4 && a < 16 && op < 4 && rnd != 3 && op != 3 && (rnd == 0 || op == 0)
  | .vcscan g c d rnd a op => g < 16 && c < 2 && d < 16 && rnd < 4 && a < 16 && op < 4 && rnd != 3 && op != 3 && (rnd == 0 || op == 0)
  | .vldl g tag d a b => g < 16 && tag < 4 && d < 16 && a < 16 && b < 64 && tag != 3
  | .vstl g a b => g < 16 && a < 16 && b < 16
  | .vopt g r rnd gr h => g < 16 && r < 64 && rnd < 4 && gr < 16 && h < 64 && rnd != 3
  | .vextr g d a b => g < 16 && d < 64 && a < 16 && b < 64
  | .frcp g c d rnd a sat => g < 16 && c < 2 && d < 16 && rnd < 4 && a < 16 && sat < 2 && rnd != 3
  | .frsq g c d rnd a sat => g < 16 && c < 2 && d < 16 && rnd < 4 && a < 16 && sat < 2 && rnd != 3
  | .fsqrt g c d rnd a sat => g < 16 && c < 2 && d < 16 && rnd < 4 && a < 16 && sat < 2 && rnd != 3
  | .fexp g c d rnd a sat => g < 16 && c < 2 && d < 16 && rnd < 4 && a < 16 && sat < 2 && rnd != 3
  | .fexp2 g c d rnd a sat => g < 16 && c < 2 && d < 16 && rnd < 4 && a < 16 && sat < 2 && rnd != 3
  | .flog g c d rnd a sat => g < 16 && c < 2 && d < 16 && rnd < 4 && a < 16 && sat < 2 && rnd != 3
  | .flog2 g c d rnd a sat => g < 16 && c < 2 && d < 16 && rnd < 4 && a < 16 && sat < 2 && rnd != 3
  | .ftanh g c d rnd a sat => g < 16 && c < 2 && d < 16 && rnd < 4 && a < 16 && sat < 2 && rnd != 3
  | .fsig g c d rnd a sat => g < 16 && c < 2 && d < 16 && rnd < 4 && a < 16 && sat < 2 && rnd != 3
  | .fsin g c d rnd a sat => g < 16 && c < 2 && d < 16 && rnd < 4 && a < 16 && sat < 2 && rnd != 3
  | .fcos g c d rnd a sat => g < 16 && c < 2 && d < 16 && rnd < 4 && a < 16 && sat < 2 && rnd != 3
  | .frand g d a => g < 16 && d < 16 && a < 64
  | .ldb g d a imm => g < 16 && d < 64 && a < 64 && imm.wf 6 2
  | .ldbu g d a imm => g < 16 && d < 64 && a < 64 && imm.wf 6 2
  | .ldh g d a imm => g < 16 && d < 64 && a < 64 && imm.wf 6 2
  | .ldhu g d a imm => g < 16 && d < 64 && a < 64 && imm.wf 6 2
  | .ldw g d a imm => g < 16 && d < 64 && a < 64 && imm.wf 6 2
  | .ldwu g d a imm => g < 16 && d < 64 && a < 64 && imm.wf 6 2
  | .ldd g d a imm => g < 16 && d < 64 && a < 64 && imm.wf 6 2
  | .lda g d a imm => g < 16 && d < 64 && a < 64 && imm.wf 6 2
  | .stb g s a imm => g < 16 && s < 64 && a < 64 && imm.wf 6 2
  | .sth g s a imm => g < 16 && s < 64 && a < 64 && imm.wf 6 2
  | .stw g s a imm => g < 16 && s < 64 && a < 64 && imm.wf 6 2
  | .std g s a imm => g < 16 && s < 64 && a < 64 && imm.wf 6 2
  | .strl g s a imm => g < 16 && s < 64 && a < 64 && imm.wf 6 2
  | .aadd g d a b size => g < 16 && d < 64 && a < 64 && b < 64 && (size == none || size == some 0 || size == some 1)
  | .aswp g d a b size => g < 16 && d < 64 && a < 64 && b < 64 && (size == none || size == some 0 || size == some 1)
  | .acas g d a b size => g < 16 && d < 64 && a < 64 && b < 64 && (size == none || size == some 0 || size == some 1)
  | .amin g d a b size => g < 16 && d < 64 && a < 64 && b < 64 && (size == none || size == some 0 || size == some 1)
  | .amax g d a b size => g < 16 && d < 64 && a < 64 && b < 64 && (size == none || size == some 0 || size == some 1)
  | .aminu g d a b size => g < 16 && d < 64 && a < 64 && b < 64 && (size == none || size == some 0 || size == some 1)
  | .amaxu g d a b size => g < 16 && d < 64 && a < 64 && b < 64 && (size == none || size == some 0 || size == some 1)
  | .qpops g q a b skip => g < 16 && q < 8 && a < 64 && b < 64 && maskWf skip
  | .tlds g t a o => g < 16 && t < 16 && a < 64 && o < 2
  | .tsts g t a o => g < 16 && t < 16 && a < 64 && o < 2
  | .vldr g d a b fmt pitch => g < 16 && d < 16 && a < 64 && b < 64 && fmt < 32 && pitch < 1048576
  | .vstx g a s fmt rnd sat pitch => g < 16 && a < 64 && s < 16 && fmt < 32 && rnd < 4 && sat < 2 && pitch < 1048576 && rnd != 3
  | .vpack g a s => g < 16 && a < 64 && s < 16
  | .vunpack g d a => g < 16 && d < 16 && a < 64
  | .ldbCm g d a imm => g < 16 && d < 64 && a < 64 && imm.wf 6 2
  | .ldbuCm g d a imm => g < 16 && d < 64 && a < 64 && imm.wf 6 2
  | .ldhCm g d a imm => g < 16 && d < 64 && a < 64 && imm.wf 6 2
  | .ldhuCm g d a imm => g < 16 && d < 64 && a < 64 && imm.wf 6 2
  | .ldwCm g d a imm => g < 16 && d < 64 && a < 64 && imm.wf 6 2
  | .ldwuCm g d a imm => g < 16 && d < 64 && a < 64 && imm.wf 6 2
  | .lddCm g d a imm => g < 16 && d < 64 && a < 64 && imm.wf 6 2
  | .ldaCm g d a imm => g < 16 && d < 64 && a < 64 && imm.wf 6 2
  | .stbCm g s a imm => g < 16 && s < 64 && a < 64 && imm.wf 6 2
  | .sthCm g s a imm => g < 16 && s < 64 && a < 64 && imm.wf 6 2
  | .stwCm g s a imm => g < 16 && s < 64 && a < 64 && imm.wf 6 2
  | .stdCm g s a imm => g < 16 && s < 64 && a < 64 && imm.wf 6 2
  | .strlCm g s a imm => g < 16 && s < 64 && a < 64 && imm.wf 6 2
  | .aaddCm g d a b size => g < 16 && d < 64 && a < 64 && b < 64 && (size == none || size == some 0 || size == some 1)
  | .aswpCm g d a b size => g < 16 && d < 64 && a < 64 && b < 64 && (size == none || size == some 0 || size == some 1)
  | .acasCm g d a b size => g < 16 && d < 64 && a < 64 && b < 64 && (size == none || size == some 0 || size == some 1)
  | .aminCm g d a b size => g < 16 && d < 64 && a < 64 && b < 64 && (size == none || size == some 0 || size == some 1)
  | .amaxCm g d a b size => g < 16 && d < 64 && a < 64 && b < 64 && (size == none || size == some 0 || size == some 1)
  | .aminuCm g d a b size => g < 16 && d < 64 && a < 64 && b < 64 && (size == none || size == some 0 || size == some 1)
  | .amaxuCm g d a b size => g < 16 && d < 64 && a < 64 && b < 64 && (size == none || size == some 0 || size == some 1)
  | .qpopsCm g q a b skip => g < 16 && q < 8 && a < 64 && b < 64 && maskWf skip
  | .tldsCm g t a => g < 16 && t < 16 && a < 64
  | .tstsCm g t a => g < 16 && t < 16 && a < 64
  | .cadd g d a b scope ord order => g < 16 && d < 64 && a < 64 && b < 64 && scope < 8 && ord < 2 && order < 4 && 3 <= scope && scope <= 6 && (ord == 1 || order == 0)
  | .cswp g d a b scope ord order => g < 16 && d < 64 && a < 64 && b < 64 && scope < 8 && ord < 2 && order < 4 && 3 <= scope && scope <= 6 && (ord == 1 || order == 0)
  | .ccas g d a b scope ord order => g < 16 && d < 64 && a < 64 && b < 64 && scope < 8 && ord < 2 && order < 4 && 3 <= scope && scope <= 6 && (ord == 1 || order == 0)
  | .cmin g d a b scope ord order => g < 16 && d < 64 && a < 64 && b < 64 && scope < 8 && ord < 2 && order < 4 && 3 <= scope && scope <= 6 && (ord == 1 || order == 0)
  | .cmax g d a b scope ord order => g < 16 && d < 64 && a < 64 && b < 64 && scope < 8 && ord < 2 && order < 4 && 3 <= scope && scope <= 6 && (ord == 1 || order == 0)
  | .cld g d a scope ord order => g < 16 && d < 64 && a < 64 && scope < 8 && ord < 2 && order < 4 && 3 <= scope && scope <= 6 && (ord == 1 || order == 0)
  | .tsett g t a => g < 16 && t < 16 && a < 64
  | .tgett g d t => g < 16 && d < 64 && t < 16
  | .dbind g d a => g < 16 && d < 16 && a < 64
  | .drebind g d a => g < 16 && d < 16 && a < 64
  | .dclr g m => g < 16 && m < 65536
  | .dget g d a => g < 16 && d < 64 && a < 16
  | .tflag g t clr set => g < 16 && t < 16 && clr < 4 && set < 4 && Nat.land clr set == 0
  | .tzero g t => g < 16 && t < 16
  | .tmov g d a => g < 16 && d < 16 && a < 16
  | .treshp g d a b tag => g < 16 && d < 16 && a < 16 && b < 64 && tag < 64
  | .ttrans g d a tag => g < 16 && d < 16 && a < 16 && tag < 64
  | .tcast g d a tag fmt => g < 16 && d < 16 && a < 16 && tag < 64 && fmt < 32
  | .tcvt g d a tag fmt rnd sat => g < 16 && d < 16 && a < 16 && tag < 64 && fmt < 32 && rnd < 4 && sat < 2 && rnd != 3
  | .tqnt g d a tag fmt geom rnd => g < 16 && d < 16 && a < 16 && tag < 64 && fmt < 32 && geom < 4 && rnd < 4 && rnd != 3
  | .tdqnt g d a tag fmt rnd sat => g < 16 && d < 16 && a < 16 && tag < 64 && fmt < 32 && rnd < 4 && sat < 2 && rnd != 3
  | .tcmpr g d a e tag => g < 16 && d < 16 && a < 16 && e < 16 && tag < 64 && d != e
  | .mlds g a tag => g < 16 && a < 16 && tag < 64
  | .mswap g tag => g < 16 && tag < 64
  | .mmul g q a start c tag fmt rnd sat => g < 16 && q < 8 && a < 16 && start < 4 && c < 16 && tag < 64 && fmt < 32 && rnd < 4 && sat < 2 && start != 3 && (start == 1 || c == 0) && rnd != 3
  | .mmuln g a start c tag => g < 16 && a < 16 && start < 4 && c < 16 && tag < 64 && start != 3 && (start == 1 || c == 0)
  | .mmulS g q a start c tag fmt rnd sat m => g < 16 && q < 8 && a < 16 && start < 4 && c < 16 && tag < 64 && fmt < 32 && rnd < 4 && sat < 2 && m < 16 && start != 3 && (start == 1 || c == 0) && rnd != 3
  | .mmulnS g a start c tag m => g < 16 && a < 16 && start < 4 && c < 16 && tag < 64 && m < 16 && start != 3 && (start == 1 || c == 0)
  | .mdrain g q tag fmt rnd sat => g < 16 && q < 8 && tag < 64 && fmt < 32 && rnd < 4 && sat < 2 && rnd != 3
  | .mxw g x a => g < 16 && x < 8 && a < 64
  | .mxr g d x => g < 16 && d < 64 && x < 8
  | .cew g x a => g < 16 && x < 32 && a < 64
  | .cewi g x imm => g < 16 && x < 32 && imm.wf 12 2
  | .cer g d x => g < 16 && d < 64 && x < 32
  | .cerst g => g < 16
  | .copy g tag a b => g < 16 && tag < 64 && a < 64 && b < 64
  | .ymatch g v a b tag => g < 16 && v < 16 && a < 64 && b < 64 && tag < 64
  | .ymerge g v a tag => g < 16 && v < 16 && a < 64 && tag < 64
  | .yunmerge g a tag => g < 16 && a < 64 && tag < 64
  | .yretire g a tag => g < 16 && a < 64 && tag < 64
  | .ystat g d => g < 16 && d < 64
  | .tspawn g d a b => g < 16 && d < 64 && a < 64 && b < 64
  | .gdec g d a b => g < 16 && d < 64 && a < 64 && b < 64
  | .gread g d a => g < 16 && d < 64 && a < 64
  | .dsend g a tag => g < 16 && a < 64 && tag < 64
  | .drecv g a b tag => g < 16 && a < 64 && b < 64 && tag < 64
  | .dflush g tag => g < 16 && tag < 64
  | .dcomb g a tag => g < 16 && a < 64 && tag < 64
  | .fsend g a b tag => g < 16 && a < 16 && b < 64 && tag < 64
  | .frecv g t b tag => g < 16 && t < 16 && b < 64 && tag < 64
  | .lgath g a b tag => g < 16 && a < 64 && b < 64 && tag < 64
  | .ldedup g d a b => g < 16 && d < 64 && a < 64 && b < 64
  | .lpool g a op tag => g < 16 && a < 64 && op < 4 && tag < 64 && op != 3
  | .lhand g a tag => g < 16 && a < 64 && tag < 64
  | .contextSwitch core => core < 432
  | .stabling p _ => p < 64
  | .stablingMoveComplete p _ => p < 64
  | .teamReturn p _ => p < 64
  | .schedulingRound => true
  | .timeShareHandOver cluster => cluster < 48
  | .preemptionHalt p _ => p < 64
  | .evacuation p _ => p < 64
  | .taskResume p _ cluster => p < 64 && cluster < 48
  | .taskCompletion p _ => p < 64
  | .faultTaskEnd p _ => p < 64
  | .leaseGrant p _ => p < 64
  | .frameReturn f _ => f < 16777216
  | .matrixCommandStart core => core < 432
  | .mldsLoadComplete core => core < 432
  | .mswapTakesEffect core => core < 432
  | .mmulChunkEnd core => core < 432
  | .slabPush core => core < 432
  | .drainWaitTimeout core => core < 432
  | .followOnEntry core => core < 432
  | .copyStart _ => true
  | .copyCompletion _ => true
  | .yokeCommandStart span => span < 6
  | .yokeCommandCompletion span => span < 6
  | .handOffLanding _ => true
  | .dispatchRowLanding _ => true
  | .dflushCompletion _ => true
  | .dispatchWaitCompletion _ => true
  | .fabricPayloadArrival _ => true
  | .counterOperationPerform _ => true
  | .counterReplyArrival _ => true
  | .graphCounterDecrement _ => true
  | .cacheLinePowerState core _ _ => core < 432
  | .functionLevelReset vf => 1 <= vf && vf <= 64
  | .sqtail p q _ => p < 64 && q < 4
  | .cqhead p q _ => p < 64 && q < 4
  | .kernelLaunch p q => p < 64 && q < 4
  | .lookupKernelLaunch p q => p < 64 && q < 4
  | .transformLaunch p q => p < 64 && q < 4
  | .graphLaunch p q => p < 64 && q < 4
  | .seal p q => p < 64 && q < 4
  | .retire p q => p < 64 && q < 4
  | .cqInterruptTimer p q => p < 64 && q < 4
  | .ctltail _ => true
  | .fmset => true
  | .fmget => true
  | .wrfrm => true
  | .rdfrm => true
  | .wtset => true
  | .inval => true
  | .migrate => true
  | .migrationFlip f => f < 16777216
  | .offload => true
  | .offloadComplete f _ => f < 16777216
  | .returnFrame => true
  | .pool => true
  | .cells => true
  | .evac => true
  | .preempt => true
  | .resume => true
  | .endtask => true
  | .ctxread => true
  | .lkassign => true
  | .debug => true
  | .ctrclr => true
  | .barmap => true
  | .attest => true
  | .fwstage => true
  | .windowBarAccess _ p _ _ => p < 64
  | .nqhead p _ => p < 64
  | .noticeOvfClear p => p < 64
  | .clmask p _ => p < 64
  | .paddockEn p _ => p < 64
  | .paddockAllotmentWrite p _ _ => p < 64
  | .plimit _ => true
  | .powerSample _ => true
  | .powerStep _ => true
  | .arbiterGrant _ _ _ => true
  | .scrubRead _ => true
  | .elhead _ => true
  | .moduleReset => true
  | .debuggerRelease p _ => p < 64
  | .registerWrite _ _ => true
  | .softError _ => true
  | .remoteTargetUnreachable _ => true
  | .islandOperatingPointChange island point => island < 1024 && point < 8

end Sys2Proof
end

