-- ==== Sys2Proof/Decode.lean ====
section
/-! DEFINITION. Decoding: from 32-bit words to an instruction, total, each refusal by name (08 R191 to R200); then the
encoder, written from the same tables, and the assignment of a bundle's words to slots. -/
namespace Sys2Proof

/-- Why a word is no instruction: EN-01, EN-02 or EN-07 of 08 R200. -/
inductive DecodeError where
  /-- An unassigned opcode, or class X standing alone: EN-01. -/
  | unassigned
  /-- A reserved operand value, an unused field that is not 0, a missing X word, or an immediate that breaks R194: EN-02. -/
  | operand
  /-- More X words than the form accepts: EN-07. -/
  | extraX
  deriving DecidableEq, Repr

/-- `width` bits of `w` from bit `lo` upward. -/
def fld (w lo width : Nat) : Nat := w / 2 ^ lo % 2 ^ width

/-- A form that takes no X word. -/
def plain (xs : List Nat) (i : Instr) : Except DecodeError Instr :=
  match xs with
  | [] => if i.wf then .ok i else .error .operand
  | _ :: _ => .error .extraX

/-- A form whose immediate takes up to `maxX` X words (08 R194). -/
def withImm (maxX : Nat) (xs : List Nat) (mk : List Nat → Instr) : Except DecodeError Instr :=
  if xs.length <= maxX then (if (mk xs).wf then .ok (mk xs) else .error .operand) else .error .extraX

/-- A form that requires exactly one X word. -/
def oneX (xs : List Nat) (zeros : Nat → Bool) (mk : Nat → Instr) : Except DecodeError Instr :=
  match xs with
  | [] => .error .operand
  | [x] => if zeros x && (mk x).wf then .ok (mk x) else .error .operand
  | _ :: _ :: _ => .error .extraX

/-- A form that may have one X word. -/
def optX (xs : List Nat) (zeros : Nat → Bool) (mk : Option Nat → Instr) : Except DecodeError Instr :=
  match xs with
  | [] => if (mk none).wf then .ok (mk none) else .error .operand
  | [x] => if zeros x && (mk (some x)).wf then .ok (mk (some x)) else .error .operand
  | _ :: _ :: _ => .error .extraX

/-- `e` when the unused bits of the word are 0, else EN-02; a surplus X word is judged first (08 R200, order of the checks). -/
def zeroed (ok : Bool) (e : Except DecodeError Instr) : Except DecodeError Instr :=
  if ok then e else
    match e with
    | .error .extraX => .error .extraX
    | _ => .error .operand

/-- The X word of a class V word (10 R252). -/
def vxOf (x : Nat) : VX := ⟨fld x 0 4, fld x 4 1, fld x 5 4, fld x 9 1, fld x 10 1⟩

/-- The payload of such an X word. -/
def vxWord (v : VX) : Nat := v.vc + 16 * v.cv + 32 * v.vm + 512 * v.mv + 1024 * v.sat

/-- A class V word in the common layout (10 R251). -/
def vWord (w : Nat) (xs : List Nat) (mk : VOps → Instr) : Except DecodeError Instr :=
  optX xs (fun x => fld x 11 17 == 0) fun x =>
    mk ⟨fld w 21 1, fld w 20 1, fld w 16 4, fld w 14 2, fld w 10 4, fld w 4 6, x.map vxOf⟩

/-- The same for an entry that admits no X word beside a required one: VFMA and VSEL need theirs. -/
def vWordX (w : Nat) (xs : List Nat) (mk : VOps → Instr) : Except DecodeError Instr :=
  oneX xs (fun x => fld x 11 17 == 0) fun x =>
    mk ⟨fld w 21 1, fld w 20 1, fld w 16 4, fld w 14 2, fld w 10 4, fld w 4 6, some (vxOf x)⟩

/-- A mask or SKIP operand in an X word: register in the bits from `lo`, presence in bit `on`. -/
def optReg (lo on x : Nat) : Option Nat := if fld x on 1 == 1 then some (fld x lo 4) else none

/-- Class S of the opcode map (08 R209 to R214). -/
def decodeS (w : Nat) (xs : List Nat) : Except DecodeError Instr :=
  let g := fld w 0 4
  match fld w 22 6 with
  | 0 => plain xs (.add g (fld w 16 6) (fld w 10 6) (fld w 4 6))
  | 1 => plain xs (.sub g (fld w 16 6) (fld w 10 6) (fld w 4 6))
  | 2 => withImm 2 xs fun xs => .addi g (fld w 16 6) (fld w 10 6) ⟨fld w 4 6, xs⟩
  | 3 => withImm 1 xs fun xs => .movi g (fld w 16 6) ⟨fld w 4 12, xs⟩
  | 4 => plain xs (.mul g (fld w 16 6) (fld w 10 6) (fld w 4 6))
  | 5 => plain xs (.mulh g (fld w 16 6) (fld w 10 6) (fld w 4 6))
  | 6 => plain xs (.mulhu g (fld w 16 6) (fld w 10 6) (fld w 4 6))
  | 8 => plain xs (.and g (fld w 16 6) (fld w 10 6) (fld w 4 6))
  | 9 => plain xs (.or g (fld w 16 6) (fld w 10 6) (fld w 4 6))
  | 10 => plain xs (.xor g (fld w 16 6) (fld w 10 6) (fld w 4 6))
  | 11 => plain xs (.andn g (fld w 16 6) (fld w 10 6) (fld w 4 6))
  | 12 => withImm 2 xs fun xs => .andi g (fld w 16 6) (fld w 10 6) ⟨fld w 4 6, xs⟩
  | 13 => withImm 2 xs fun xs => .ori g (fld w 16 6) (fld w 10 6) ⟨fld w 4 6, xs⟩
  | 14 => withImm 2 xs fun xs => .xori g (fld w 16 6) (fld w 10 6) ⟨fld w 4 6, xs⟩
  | 16 => plain xs (.shl g (fld w 16 6) (fld w 10 6) (fld w 4 6))
  | 17 => plain xs (.shr g (fld w 16 6) (fld w 10 6) (fld w 4 6))
  | 18 => plain xs (.sar g (fld w 16 6) (fld w 10 6) (fld w 4 6))
  | 19 => plain xs (.shli g (fld w 16 6) (fld w 10 6) (fld w 4 6))
  | 20 => plain xs (.shri g (fld w 16 6) (fld w 10 6) (fld w 4 6))
  | 21 => plain xs (.sari g (fld w 16 6) (fld w 10 6) (fld w 4 6))
  | 22 => zeroed (fld w 4 6 == 0) (plain xs (.clz g (fld w 16 6) (fld w 10 6)))
  | 23 => zeroed (fld w 4 6 == 0) (plain xs (.popc g (fld w 16 6) (fld w 10 6)))
  | 24 => plain xs (.min g (fld w 16 6) (fld w 10 6) (fld w 4 6))
  | 25 => plain xs (.max g (fld w 16 6) (fld w 10 6) (fld w 4 6))
  | 26 => plain xs (.minu g (fld w 16 6) (fld w 10 6) (fld w 4 6))
  | 27 => plain xs (.maxu g (fld w 16 6) (fld w 10 6) (fld w 4 6))
  | 28 => oneX xs (fun x => fld x 4 24 == 0) fun x => .sel g (fld w 16 6) (fld w 10 6) (fld w 4 6) (fld x 0 4)
  | 29 => plain xs (.bfx g (fld w 16 6) (fld w 10 6) (fld w 4 6))
  | 30 => plain xs (.bfi g (fld w 16 6) (fld w 10 6) (fld w 4 6))
  | 32 => zeroed (fld w 20 2 == 0) (plain xs (.cmpeq g (fld w 16 4) (fld w 10 6) (fld w 4 6)))
  | 33 => zeroed (fld w 20 2 == 0) (plain xs (.cmpne g (fld w 16 4) (fld w 10 6) (fld w 4 6)))
  | 34 => zeroed (fld w 20 2 == 0) (plain xs (.cmplt g (fld w 16 4) (fld w 10 6) (fld w 4 6)))
  | 35 => zeroed (fld w 20 2 == 0) (plain xs (.cmpltu g (fld w 16 4) (fld w 10 6) (fld w 4 6)))
  | 36 => zeroed (fld w 20 2 == 0) (plain xs (.cmple g (fld w 16 4) (fld w 10 6) (fld w 4 6)))
  | 37 => zeroed (fld w 20 2 == 0) (plain xs (.cmpleu g (fld w 16 4) (fld w 10 6) (fld w 4 6)))
  | 38 => zeroed (fld w 20 2 == 0) (withImm 2 xs fun xs => .cmpeqi g (fld w 16 4) (fld w 10 6) ⟨fld w 4 6, xs⟩)
  | 39 => zeroed (fld w 20 2 == 0) (withImm 2 xs fun xs => .cmplti g (fld w 16 4) (fld w 10 6) ⟨fld w 4 6, xs⟩)
  | _ => .error .unassigned

/-- Class C of the opcode map (08 R209 to R214). -/
def decodeC (w : Nat) (xs : List Nat) : Except DecodeError Instr :=
  let g := fld w 0 4
  match fld w 22 6 with
  | 0 => plain xs (.nop g (fld w 4 18))
  | 1 => withImm 1 xs fun xs => .br g ⟨fld w 4 18, xs⟩
  | 2 => zeroed (fld w 4 6 == 0 && fld w 16 6 == 0) (plain xs (.brx g (fld w 10 6)))
  | 3 => withImm 1 xs fun xs => .call g ⟨fld w 4 18, xs⟩
  | 4 => zeroed (fld w 4 6 == 0 && fld w 16 6 == 0) (plain xs (.callx g (fld w 10 6)))
  | 5 => zeroed (fld w 4 6 == 0 && fld w 16 6 == 0) (plain xs (.ret g (fld w 10 6)))
  | 6 => zeroed (fld w 4 18 == 0) (plain xs (.tend g))
  | 7 => zeroed (fld w 10 12 == 0) (plain xs (.trap g (fld w 4 6)))
  | 8 => plain xs (.loop g (fld w 16 6) (fld w 4 12))
  | 9 => plain xs (.loopi g (fld w 10 12) (fld w 4 6))
  | 10 => oneX xs (fun x => fld x 12 16 == 0) fun x => .loopt g (fld w 16 6) (fld w 10 6) (fld w 4 6) (fld x 0 12)
  | 11 => zeroed (fld w 16 6 == 0) (plain xs (.pipe g (fld w 10 6) (fld w 4 6)))
  | 12 => withImm 1 xs fun xs => .lclose g ⟨fld w 4 18, xs⟩
  | 16 => zeroed (fld w 8 2 == 0 && fld w 14 2 == 0 && fld w 20 2 == 0) (plain xs (.pand g (fld w 16 4) (fld w 10 4) (fld w 4 4)))
  | 17 => zeroed (fld w 8 2 == 0 && fld w 14 2 == 0 && fld w 20 2 == 0) (plain xs (.por g (fld w 16 4) (fld w 10 4) (fld w 4 4)))
  | 18 => zeroed (fld w 8 2 == 0 && fld w 14 2 == 0 && fld w 20 2 == 0) (plain xs (.pxor g (fld w 16 4) (fld w 10 4) (fld w 4 4)))
  | 19 => zeroed (fld w 8 2 == 0 && fld w 14 2 == 0 && fld w 20 2 == 0) (plain xs (.pandn g (fld w 16 4) (fld w 10 4) (fld w 4 4)))
  | 20 => zeroed (fld w 4 6 == 0 && fld w 14 2 == 0 && fld w 20 2 == 0) (plain xs (.pnot g (fld w 16 4) (fld w 10 4)))
  | 21 => zeroed (fld w 5 11 == 0 && fld w 20 2 == 0) (plain xs (.pseti g (fld w 16 4) (fld w 4 1)))
  | 22 => zeroed (fld w 4 12 == 0) (plain xs (.ptox g (fld w 16 6)))
  | 23 => zeroed (fld w 4 6 == 0 && fld w 16 6 == 0) (plain xs (.xtop g (fld w 10 6)))
  | 24 => zeroed (fld w 4 6 == 0) (plain xs (.waitany g (fld w 16 6) (fld w 10 6)))
  | 25 => zeroed (fld w 4 6 == 0) (plain xs (.waitall g (fld w 16 6) (fld w 10 6)))
  | 26 => zeroed (fld w 4 6 == 0) (plain xs (.ffrdy g (fld w 16 6) (fld w 10 6)))
  | 27 => zeroed (fld w 16 6 == 0) (plain xs (.pushm g (fld w 10 6) (fld w 4 6)))
  | 28 => zeroed (fld w 16 6 == 0) (plain xs (.popm g (fld w 10 6) (fld w 4 6)))
  | 29 => zeroed (fld w 7 9 == 0) (plain xs (.bara g (fld w 16 6) (fld w 4 3)))
  | 30 => zeroed (fld w 7 15 == 0) (plain xs (.barw g (fld w 4 3)))
  | 31 => zeroed (fld w 9 13 == 0) (plain xs (.fence g (fld w 7 2) (fld w 4 3)))
  | 32 => plain xs (.csrr g (fld w 16 6) (fld w 4 12))
  | 33 => plain xs (.csrw g (fld w 16 6) (fld w 4 12))
  | 34 => plain xs (.csrs g (fld w 16 6) (fld w 4 12))
  | 35 => plain xs (.csrc g (fld w 16 6) (fld w 4 12))
  | 36 => zeroed (fld w 4 18 == 0) (plain xs (.tret g))
  | 37 => zeroed (fld w 10 12 == 0) (plain xs (.dbrk g (fld w 4 6)))
  | 38 => zeroed (fld w 4 6 == 0 && fld w 16 6 == 0) (plain xs (.regwb g (fld w 10 6)))
  | 39 => zeroed (fld w 4 6 == 0) (plain xs (.lqry g (fld w 16 6) (fld w 10 6)))
  | _ => .error .unassigned

/-- Class V of the opcode map (08 R209 to R214). -/
def decodeV (w : Nat) (xs : List Nat) : Except DecodeError Instr :=
  let g := fld w 0 4
  match fld w 22 6 with
  | 0 => vWord w xs (.vadd g)
  | 1 => vWord w xs (.vsub g)
  | 2 => vWord w xs (.vmul g)
  | 3 => vWordX w xs (.vfma g)
  | 4 => vWord w xs (.vdiv g)
  | 5 => vWord w xs (.vmin g)
  | 6 => vWord w xs (.vmax g)
  | 7 => vWord w xs (.vneg g)
  | 8 => vWord w xs (.vabs g)
  | 9 => vWord w xs (.vand g)
  | 10 => vWord w xs (.vor g)
  | 11 => vWord w xs (.vxor g)
  | 12 => vWord w xs (.vshl g)
  | 13 => vWord w xs (.vshr g)
  | 14 => vWord w xs (.vsar g)
  | 15 => vWordX w xs (.vsel g)
  | 16 => vWord w xs (.vcmpeq g)
  | 17 => vWord w xs (.vcmpne g)
  | 18 => vWord w xs (.vcmplt g)
  | 19 => vWord w xs (.vcmple g)
  | 20 => zeroed (fld w 7 3 == 0 && fld w 21 1 == 0) (optX xs (fun x => fld x 0 10 == 0 && fld x 11 17 == 0) fun x => .vcvt g (fld w 20 1) (fld w 16 4) (fld w 14 2) (fld w 10 4) (fld w 6 1) (fld w 4 2) (x.map (fld · 10 1)))
  | 21 => zeroed (fld w 4 6 == 0 && fld w 14 2 == 0 && fld w 20 2 == 0) (plain xs (.vrco g (fld w 16 4) (fld w 10 4)))
  | 22 => zeroed (fld w 4 6 == 0 && fld w 14 2 == 0 && fld w 20 2 == 0) (plain xs (.vmov g (fld w 16 4) (fld w 10 4)))
  | 23 => plain xs (.vsplat g (fld w 20 2) (fld w 16 4) (fld w 10 6) (fld w 4 6))
  | 24 => zeroed (fld w 14 2 == 0 && fld w 21 1 == 1) (plain xs (.vrot g (fld w 20 1) (fld w 16 4) (fld w 10 4) (fld w 4 6)))
  | 25 => zeroed (fld w 14 2 == 0 && fld w 20 1 == 0 && fld w 21 1 == 1) (plain xs (.vbcst g (fld w 16 4) (fld w 10 4) (fld w 4 6)))
  | 26 => zeroed (fld w 6 4 == 0 && fld w 20 2 == 0) (optX xs (fun x => fld x 0 5 == 0 && fld x 10 18 == 0 && (fld x 9 1 == 1 || fld x 5 4 == 0)) fun x => .vred g (fld w 16 4) (fld w 14 2) (fld w 10 4) (fld w 4 2) (x.map (optReg 5 9)))
  | 27 => zeroed (fld w 4 6 == 0 && fld w 21 1 == 0) (plain xs (.vscan g (fld w 20 1) (fld w 16 4) (fld w 14 2) (fld w 10 4)))
  | 28 => zeroed (fld w 8 2 == 0 && fld w 14 2 == 0 && fld w 21 1 == 0) (plain xs (.vexpd g (fld w 20 1) (fld w 16 4) (fld w 10 4) (fld w 4 4)))
  | 29 => zeroed (fld w 14 2 == 0 && fld w 20 1 == 0 && fld w 21 1 == 1) (plain xs (.vsetch g (fld w 16 4) (fld w 10 4) (fld w 4 6)))
  | 30 => zeroed (fld w 4 6 == 0 && fld w 14 2 == 0 && fld w 20 2 == 0) (plain xs (.vgetch g (fld w 16 4) (fld w 10 4)))
  | 31 => zeroed (fld w 4 6 == 0 && fld w 13 3 == 0 && fld w 20 2 == 0) (plain xs (.vpopq g (fld w 16 4) (fld w 10 3)))
  | 32 => zeroed (fld w 14 2 == 0 && fld w 20 1 == 0 && fld w 21 1 == 1) (plain xs (.vcrot g (fld w 16 4) (fld w 10 4) (fld w 4 6)))
  | 33 => zeroed (fld w 14 2 == 0 && fld w 20 1 == 0 && fld w 21 1 == 1) (plain xs (.vcbcst g (fld w 16 4) (fld w 10 4) (fld w 4 6)))
  | 34 => zeroed (fld w 6 4 == 0 && fld w 21 1 == 0) (plain xs (.vcred g (fld w 20 1) (fld w 16 4) (fld w 14 2) (fld w 10 4) (fld w 4 2)))
  | 35 => zeroed (fld w 6 4 == 0 && fld w 21 1 == 0) (plain xs (.vcscan g (fld w 20 1) (fld w 16 4) (fld w 14 2) (fld w 10 4) (fld w 4 2)))
  | 36 => zeroed (fld w 14 2 == 0) (plain xs (.vldl g (fld w 20 2) (fld w 16 4) (fld w 10 4) (fld w 4 6)))
  | 37 => zeroed (fld w 8 2 == 0 && fld w 14 8 == 0) (plain xs (.vstl g (fld w 10 4) (fld w 4 4)))
  | 38 => plain xs (.vopt g (fld w 16 6) (fld w 14 2) (fld w 10 4) (fld w 4 6))
  | 39 => zeroed (fld w 14 2 == 0) (plain xs (.vextr g (fld w 16 6) (fld w 10 4) (fld w 4 6)))
  | _ => .error .unassigned

/-- Class F of the opcode map (08 R209 to R214). -/
def decodeF (w : Nat) (xs : List Nat) : Except DecodeError Instr :=
  let g := fld w 0 4
  match fld w 22 6 with
  | 0 => zeroed (fld w 5 5 == 0 && fld w 21 1 == 0) (plain xs (.frcp g (fld w 20 1) (fld w 16 4) (fld w 14 2) (fld w 10 4) (fld w 4 1)))
  | 1 => zeroed (fld w 5 5 == 0 && fld w 21 1 == 0) (plain xs (.frsq g (fld w 20 1) (fld w 16 4) (fld w 14 2) (fld w 10 4) (fld w 4 1)))
  | 2 => zeroed (fld w 5 5 == 0 && fld w 21 1 == 0) (plain xs (.fsqrt g (fld w 20 1) (fld w 16 4) (fld w 14 2) (fld w 10 4) (fld w 4 1)))
  | 3 => zeroed (fld w 5 5 == 0 && fld w 21 1 == 0) (plain xs (.fexp g (fld w 20 1) (fld w 16 4) (fld w 14 2) (fld w 10 4) (fld w 4 1)))
  | 4 => zeroed (fld w 5 5 == 0 && fld w 21 1 == 0) (plain xs (.fexp2 g (fld w 20 1) (fld w 16 4) (fld w 14 2) (fld w 10 4) (fld w 4 1)))
  | 5 => zeroed (fld w 5 5 == 0 && fld w 21 1 == 0) (plain xs (.flog g (fld w 20 1) (fld w 16 4) (fld w 14 2) (fld w 10 4) (fld w 4 1)))
  | 6 => zeroed (fld w 5 5 == 0 && fld w 21 1 == 0) (plain xs (.flog2 g (fld w 20 1) (fld w 16 4) (fld w 14 2) (fld w 10 4) (fld w 4 1)))
  | 7 => zeroed (fld w 5 5 == 0 && fld w 21 1 == 0) (plain xs (.ftanh g (fld w 20 1) (fld w 16 4) (fld w 14 2) (fld w 10 4) (fld w 4 1)))
  | 8 => zeroed (fld w 5 5 == 0 && fld w 21 1 == 0) (plain xs (.fsig g (fld w 20 1) (fld w 16 4) (fld w 14 2) (fld w 10 4) (fld w 4 1)))
  | 9 => zeroed (fld w 5 5 == 0 && fld w 21 1 == 0) (plain xs (.fsin g (fld w 20 1) (fld w 16 4) (fld w 14 2) (fld w 10 4) (fld w 4 1)))
  | 10 => zeroed (fld w 5 5 == 0 && fld w 21 1 == 0) (plain xs (.fcos g (fld w 20 1) (fld w 16 4) (fld w 14 2) (fld w 10 4) (fld w 4 1)))
  | 11 => zeroed (fld w 4 6 == 0 && fld w 20 2 == 0) (plain xs (.frand g (fld w 16 4) (fld w 10 6)))
  | _ => .error .unassigned

/-- Class MA of the opcode map (08 R209 to R214). -/
def decodeMA (w : Nat) (xs : List Nat) : Except DecodeError Instr :=
  let g := fld w 0 4
  match fld w 22 6 with
  | 0 => withImm 2 xs fun xs => .ldb g (fld w 16 6) (fld w 10 6) ⟨fld w 4 6, xs⟩
  | 1 => withImm 2 xs fun xs => .ldbu g (fld w 16 6) (fld w 10 6) ⟨fld w 4 6, xs⟩
  | 2 => withImm 2 xs fun xs => .ldh g (fld w 16 6) (fld w 10 6) ⟨fld w 4 6, xs⟩
  | 3 => withImm 2 xs fun xs => .ldhu g (fld w 16 6) (fld w 10 6) ⟨fld w 4 6, xs⟩
  | 4 => withImm 2 xs fun xs => .ldw g (fld w 16 6) (fld w 10 6) ⟨fld w 4 6, xs⟩
  | 5 => withImm 2 xs fun xs => .ldwu g (fld w 16 6) (fld w 10 6) ⟨fld w 4 6, xs⟩
  | 6 => withImm 2 xs fun xs => .ldd g (fld w 16 6) (fld w 10 6) ⟨fld w 4 6, xs⟩
  | 7 => withImm 2 xs fun xs => .lda g (fld w 16 6) (fld w 10 6) ⟨fld w 4 6, xs⟩
  | 8 => withImm 2 xs fun xs => .stb g (fld w 16 6) (fld w 10 6) ⟨fld w 4 6, xs⟩
  | 9 => withImm 2 xs fun xs => .sth g (fld w 16 6) (fld w 10 6) ⟨fld w 4 6, xs⟩
  | 10 => withImm 2 xs fun xs => .stw g (fld w 16 6) (fld w 10 6) ⟨fld w 4 6, xs⟩
  | 11 => withImm 2 xs fun xs => .std g (fld w 16 6) (fld w 10 6) ⟨fld w 4 6, xs⟩
  | 12 => withImm 2 xs fun xs => .strl g (fld w 16 6) (fld w 10 6) ⟨fld w 4 6, xs⟩
  | 16 => optX xs (fun x => fld x 1 27 == 0) fun x => .aadd g (fld w 16 6) (fld w 10 6) (fld w 4 6) (x.map (fld · 0 1))
  | 17 => optX xs (fun x => fld x 1 27 == 0) fun x => .aswp g (fld w 16 6) (fld w 10 6) (fld w 4 6) (x.map (fld · 0 1))
  | 18 => optX xs (fun x => fld x 1 27 == 0) fun x => .acas g (fld w 16 6) (fld w 10 6) (fld w 4 6) (x.map (fld · 0 1))
  | 19 => optX xs (fun x => fld x 1 27 == 0) fun x => .amin g (fld w 16 6) (fld w 10 6) (fld w 4 6) (x.map (fld · 0 1))
  | 20 => optX xs (fun x => fld x 1 27 == 0) fun x => .amax g (fld w 16 6) (fld w 10 6) (fld w 4 6) (x.map (fld · 0 1))
  | 21 => optX xs (fun x => fld x 1 27 == 0) fun x => .aminu g (fld w 16 6) (fld w 10 6) (fld w 4 6) (x.map (fld · 0 1))
  | 22 => optX xs (fun x => fld x 1 27 == 0) fun x => .amaxu g (fld w 16 6) (fld w 10 6) (fld w 4 6) (x.map (fld · 0 1))
  | 24 => zeroed (fld w 19 3 == 0) (optX xs (fun x => fld x 5 23 == 0 && (fld x 4 1 == 1 || fld x 0 4 == 0)) fun x => .qpops g (fld w 16 3) (fld w 10 6) (fld w 4 6) (x.map (optReg 0 4)))
  | 25 => zeroed (fld w 5 5 == 0 && fld w 20 2 == 0) (plain xs (.tlds g (fld w 16 4) (fld w 10 6) (fld w 4 1)))
  | 26 => zeroed (fld w 5 5 == 0 && fld w 20 2 == 0) (plain xs (.tsts g (fld w 16 4) (fld w 10 6) (fld w 4 1)))
  | 27 => zeroed (fld w 20 2 == 0) (oneX xs (fun x => fld x 5 3 == 0) fun x => .vldr g (fld w 16 4) (fld w 10 6) (fld w 4 6) (fld x 0 5) (fld x 8 20))
  | 28 => zeroed (fld w 8 2 == 0 && fld w 16 6 == 0) (oneX xs (fun _ => true) fun x => .vstx g (fld w 10 6) (fld w 4 4) (fld x 0 5) (fld x 5 2) (fld x 7 1) (fld x 8 20))
  | 29 => zeroed (fld w 8 2 == 0 && fld w 16 6 == 0) (plain xs (.vpack g (fld w 10 6) (fld w 4 4)))
  | 30 => zeroed (fld w 4 6 == 0 && fld w 20 2 == 0) (plain xs (.vunpack g (fld w 16 4) (fld w 10 6)))
  | _ => .error .unassigned

/-- Class MB of the opcode map (08 R209 to R214). -/
def decodeMB (w : Nat) (xs : List Nat) : Except DecodeError Instr :=
  let g := fld w 0 4
  match fld w 22 6 with
  | 0 => withImm 2 xs fun xs => .ldbCm g (fld w 16 6) (fld w 10 6) ⟨fld w 4 6, xs⟩
  | 1 => withImm 2 xs fun xs => .ldbuCm g (fld w 16 6) (fld w 10 6) ⟨fld w 4 6, xs⟩
  | 2 => withImm 2 xs fun xs => .ldhCm g (fld w 16 6) (fld w 10 6) ⟨fld w 4 6, xs⟩
  | 3 => withImm 2 xs fun xs => .ldhuCm g (fld w 16 6) (fld w 10 6) ⟨fld w 4 6, xs⟩
  | 4 => withImm 2 xs fun xs => .ldwCm g (fld w 16 6) (fld w 10 6) ⟨fld w 4 6, xs⟩
  | 5 => withImm 2 xs fun xs => .ldwuCm g (fld w 16 6) (fld w 10 6) ⟨fld w 4 6, xs⟩
  | 6 => withImm 2 xs fun xs => .lddCm g (fld w 16 6) (fld w 10 6) ⟨fld w 4 6, xs⟩
  | 7 => withImm 2 xs fun xs => .ldaCm g (fld w 16 6) (fld w 10 6) ⟨fld w 4 6, xs⟩
  | 8 => withImm 2 xs fun xs => .stbCm g (fld w 16 6) (fld w 10 6) ⟨fld w 4 6, xs⟩
  | 9 => withImm 2 xs fun xs => .sthCm g (fld w 16 6) (fld w 10 6) ⟨fld w 4 6, xs⟩
  | 10 => withImm 2 xs fun xs => .stwCm g (fld w 16 6) (fld w 10 6) ⟨fld w 4 6, xs⟩
  | 11 => withImm 2 xs fun xs => .stdCm g (fld w 16 6) (fld w 10 6) ⟨fld w 4 6, xs⟩
  | 12 => withImm 2 xs fun xs => .strlCm g (fld w 16 6) (fld w 10 6) ⟨fld w 4 6, xs⟩
  | 16 => optX xs (fun x => fld x 1 27 == 0) fun x => .aaddCm g (fld w 16 6) (fld w 10 6) (fld w 4 6) (x.map (fld · 0 1))
  | 17 => optX xs (fun x => fld x 1 27 == 0) fun x => .aswpCm g (fld w 16 6) (fld w 10 6) (fld w 4 6) (x.map (fld · 0 1))
  | 18 => optX xs (fun x => fld x 1 27 == 0) fun x => .acasCm g (fld w 16 6) (fld w 10 6) (fld w 4 6) (x.map (fld · 0 1))
  | 19 => optX xs (fun x => fld x 1 27 == 0) fun x => .aminCm g (fld w 16 6) (fld w 10 6) (fld w 4 6) (x.map (fld · 0 1))
  | 20 => optX xs (fun x => fld x 1 27 == 0) fun x => .amaxCm g (fld w 16 6) (fld w 10 6) (fld w 4 6) (x.map (fld · 0 1))
  | 21 => optX xs (fun x => fld x 1 27 == 0) fun x => .aminuCm g (fld w 16 6) (fld w 10 6) (fld w 4 6) (x.map (fld · 0 1))
  | 22 => optX xs (fun x => fld x 1 27 == 0) fun x => .amaxuCm g (fld w 16 6) (fld w 10 6) (fld w 4 6) (x.map (fld · 0 1))
  | 24 => zeroed (fld w 19 3 == 0) (optX xs (fun x => fld x 5 23 == 0 && (fld x 4 1 == 1 || fld x 0 4 == 0)) fun x => .qpopsCm g (fld w 16 3) (fld w 10 6) (fld w 4 6) (x.map (optReg 0 4)))
  | 25 => zeroed (fld w 4 6 == 0 && fld w 20 2 == 0) (plain xs (.tldsCm g (fld w 16 4) (fld w 10 6)))
  | 26 => zeroed (fld w 4 6 == 0 && fld w 20 2 == 0) (plain xs (.tstsCm g (fld w 16 4) (fld w 10 6)))
  | 32 => oneX xs (fun x => fld x 6 22 == 0) fun x => .cadd g (fld w 16 6) (fld w 10 6) (fld w 4 6) (fld x 0 3) (fld x 3 1) (fld x 4 2)
  | 33 => oneX xs (fun x => fld x 6 22 == 0) fun x => .cswp g (fld w 16 6) (fld w 10 6) (fld w 4 6) (fld x 0 3) (fld x 3 1) (fld x 4 2)
  | 34 => oneX xs (fun x => fld x 6 22 == 0) fun x => .ccas g (fld w 16 6) (fld w 10 6) (fld w 4 6) (fld x 0 3) (fld x 3 1) (fld x 4 2)
  | 35 => oneX xs (fun x => fld x 6 22 == 0) fun x => .cmin g (fld w 16 6) (fld w 10 6) (fld w 4 6) (fld x 0 3) (fld x 3 1) (fld x 4 2)
  | 36 => oneX xs (fun x => fld x 6 22 == 0) fun x => .cmax g (fld w 16 6) (fld w 10 6) (fld w 4 6) (fld x 0 3) (fld x 3 1) (fld x 4 2)
  | 37 => zeroed (fld w 4 6 == 0) (oneX xs (fun x => fld x 6 22 == 0) fun x => .cld g (fld w 16 6) (fld w 10 6) (fld x 0 3) (fld x 3 1) (fld x 4 2))
  | _ => .error .unassigned

/-- Class E of the opcode map (08 R209 to R214). -/
def decodeE (w : Nat) (xs : List Nat) : Except DecodeError Instr :=
  let g := fld w 0 4
  match fld w 22 6 with
  | 0 => zeroed (fld w 4 6 == 0 && fld w 20 2 == 0) (plain xs (.tsett g (fld w 16 4) (fld w 10 6)))
  | 1 => zeroed (fld w 4 6 == 0 && fld w 14 2 == 0) (plain xs (.tgett g (fld w 16 6) (fld w 10 4)))
  | 2 => zeroed (fld w 4 6 == 0 && fld w 20 2 == 0) (plain xs (.dbind g (fld w 16 4) (fld w 10 6)))
  | 3 => zeroed (fld w 4 6 == 0 && fld w 20 2 == 0) (plain xs (.drebind g (fld w 16 4) (fld w 10 6)))
  | 4 => zeroed (fld w 20 2 == 0) (plain xs (.dclr g (fld w 4 16)))
  | 5 => zeroed (fld w 4 6 == 0 && fld w 14 2 == 0) (plain xs (.dget g (fld w 16 6) (fld w 10 4)))
  | 6 => zeroed (fld w 8 8 == 0 && fld w 20 2 == 0) (plain xs (.tflag g (fld w 16 4) (fld w 6 2) (fld w 4 2)))
  | 7 => zeroed (fld w 4 12 == 0 && fld w 20 2 == 0) (plain xs (.tzero g (fld w 16 4)))
  | 8 => zeroed (fld w 4 6 == 0 && fld w 14 2 == 0 && fld w 20 2 == 0) (plain xs (.tmov g (fld w 16 4) (fld w 10 4)))
  | 9 => zeroed (fld w 14 2 == 0 && fld w 20 2 == 0) (oneX xs (fun x => fld x 6 22 == 0) fun x => .treshp g (fld w 16 4) (fld w 10 4) (fld w 4 6) (fld x 0 6))
  | 10 => zeroed (fld w 4 6 == 0 && fld w 14 2 == 0 && fld w 20 2 == 0) (oneX xs (fun x => fld x 6 22 == 0) fun x => .ttrans g (fld w 16 4) (fld w 10 4) (fld x 0 6))
  | 11 => zeroed (fld w 4 6 == 0 && fld w 14 2 == 0 && fld w 20 2 == 0) (oneX xs (fun x => fld x 6 3 == 0 && fld x 14 14 == 0) fun x => .tcast g (fld w 16 4) (fld w 10 4) (fld x 0 6) (fld x 9 5))
  | 12 => zeroed (fld w 4 6 == 0 && fld w 14 2 == 0 && fld w 20 2 == 0) (oneX xs (fun x => fld x 14 14 == 0) fun x => .tcvt g (fld w 16 4) (fld w 10 4) (fld x 0 6) (fld x 9 5) (fld x 6 2) (fld x 8 1))
  | 13 => zeroed (fld w 4 6 == 0 && fld w 14 2 == 0 && fld w 20 2 == 0) (oneX xs (fun x => fld x 8 1 == 0 && fld x 14 4 == 0 && fld x 20 8 == 0) fun x => .tqnt g (fld w 16 4) (fld w 10 4) (fld x 0 6) (fld x 9 5) (fld x 18 2) (fld x 6 2))
  | 14 => zeroed (fld w 4 6 == 0 && fld w 14 2 == 0 && fld w 20 2 == 0) (oneX xs (fun x => fld x 14 14 == 0) fun x => .tdqnt g (fld w 16 4) (fld w 10 4) (fld x 0 6) (fld x 9 5) (fld x 6 2) (fld x 8 1))
  | 15 => zeroed (fld w 8 2 == 0 && fld w 14 2 == 0 && fld w 20 2 == 0) (oneX xs (fun x => fld x 6 22 == 0) fun x => .tcmpr g (fld w 16 4) (fld w 10 4) (fld w 4 4) (fld x 0 6))
  | 16 => zeroed (fld w 4 6 == 0 && fld w 14 8 == 0) (oneX xs (fun x => fld x 6 22 == 0) fun x => .mlds g (fld w 10 4) (fld x 0 6))
  | 17 => zeroed (fld w 10 12 == 0) (plain xs (.mswap g (fld w 4 6)))
  | 18 => zeroed (fld w 8 2 == 0 && fld w 19 3 == 0) (oneX xs (fun x => fld x 14 14 == 0) fun x => .mmul g (fld w 16 3) (fld w 10 4) (fld w 14 2) (fld w 4 4) (fld x 0 6) (fld x 9 5) (fld x 6 2) (fld x 8 1))
  | 19 => zeroed (fld w 8 2 == 0 && fld w 16 6 == 0) (oneX xs (fun x => fld x 6 22 == 0) fun x => .mmuln g (fld w 10 4) (fld w 14 2) (fld w 4 4) (fld x 0 6))
  | 20 => zeroed (fld w 8 2 == 0 && fld w 19 3 == 0) (oneX xs (fun x => fld x 18 10 == 0) fun x => .mmulS g (fld w 16 3) (fld w 10 4) (fld w 14 2) (fld w 4 4) (fld x 0 6) (fld x 9 5) (fld x 6 2) (fld x 8 1) (fld x 14 4))
  | 21 => zeroed (fld w 8 2 == 0 && fld w 16 6 == 0) (oneX xs (fun x => fld x 6 8 == 0 && fld x 18 10 == 0) fun x => .mmulnS g (fld w 10 4) (fld w 14 2) (fld w 4 4) (fld x 0 6) (fld x 14 4))
  | 22 => zeroed (fld w 4 12 == 0 && fld w 19 3 == 0) (oneX xs (fun x => fld x 14 14 == 0) fun x => .mdrain g (fld w 16 3) (fld x 0 6) (fld x 9 5) (fld x 6 2) (fld x 8 1))
  | 23 => zeroed (fld w 4 6 == 0 && fld w 19 3 == 0) (plain xs (.mxw g (fld w 16 3) (fld w 10 6)))
  | 24 => zeroed (fld w 4 6 == 0 && fld w 13 3 == 0) (plain xs (.mxr g (fld w 16 6) (fld w 10 3)))
  | 32 => zeroed (fld w 4 6 == 0 && fld w 21 1 == 0) (plain xs (.cew g (fld w 16 5) (fld w 10 6)))
  | 33 => zeroed (fld w 21 1 == 0) (withImm 2 xs fun xs => .cewi g (fld w 16 5) ⟨fld w 4 12, xs⟩)
  | 34 => zeroed (fld w 4 6 == 0 && fld w 15 1 == 0) (plain xs (.cer g (fld w 16 6) (fld w 10 5)))
  | 35 => zeroed (fld w 4 18 == 0) (plain xs (.cerst g))
  | 36 => plain xs (.copy g (fld w 16 6) (fld w 10 6) (fld w 4 6))
  | 40 => zeroed (fld w 20 2 == 0) (oneX xs (fun x => fld x 6 22 == 0) fun x => .ymatch g (fld w 16 4) (fld w 10 6) (fld w 4 6) (fld x 0 6))
  | 41 => zeroed (fld w 4 6 == 0 && fld w 20 2 == 0) (oneX xs (fun x => fld x 6 22 == 0) fun x => .ymerge g (fld w 16 4) (fld w 10 6) (fld x 0 6))
  | 42 => zeroed (fld w 4 6 == 0 && fld w 16 6 == 0) (oneX xs (fun x => fld x 6 22 == 0) fun x => .yunmerge g (fld w 10 6) (fld x 0 6))
  | 43 => zeroed (fld w 4 6 == 0 && fld w 16 6 == 0) (oneX xs (fun x => fld x 6 22 == 0) fun x => .yretire g (fld w 10 6) (fld x 0 6))
  | 44 => zeroed (fld w 4 12 == 0) (plain xs (.ystat g (fld w 16 6)))
  | 48 => plain xs (.tspawn g (fld w 16 6) (fld w 10 6) (fld w 4 6))
  | 49 => plain xs (.gdec g (fld w 16 6) (fld w 10 6) (fld w 4 6))
  | 50 => zeroed (fld w 4 6 == 0) (plain xs (.gread g (fld w 16 6) (fld w 10 6)))
  | 51 => zeroed (fld w 4 6 == 0 && fld w 16 6 == 0) (oneX xs (fun x => fld x 6 22 == 0) fun x => .dsend g (fld w 10 6) (fld x 0 6))
  | 52 => zeroed (fld w 16 6 == 0) (oneX xs (fun x => fld x 6 22 == 0) fun x => .drecv g (fld w 10 6) (fld w 4 6) (fld x 0 6))
  | 53 => zeroed (fld w 10 12 == 0) (plain xs (.dflush g (fld w 4 6)))
  | 54 => zeroed (fld w 4 6 == 0 && fld w 16 6 == 0) (oneX xs (fun x => fld x 6 22 == 0) fun x => .dcomb g (fld w 10 6) (fld x 0 6))
  | 55 => zeroed (fld w 14 8 == 0) (oneX xs (fun x => fld x 6 22 == 0) fun x => .fsend g (fld w 10 4) (fld w 4 6) (fld x 0 6))
  | 56 => zeroed (fld w 10 6 == 0 && fld w 20 2 == 0) (oneX xs (fun x => fld x 6 22 == 0) fun x => .frecv g (fld w 16 4) (fld w 4 6) (fld x 0 6))
  | 60 => zeroed (fld w 16 6 == 0) (oneX xs (fun x => fld x 6 22 == 0) fun x => .lgath g (fld w 10 6) (fld w 4 6) (fld x 0 6))
  | 61 => plain xs (.ldedup g (fld w 16 6) (fld w 10 6) (fld w 4 6))
  | 62 => zeroed (fld w 6 4 == 0 && fld w 16 6 == 0) (oneX xs (fun x => fld x 6 22 == 0) fun x => .lpool g (fld w 10 6) (fld w 4 2) (fld x 0 6))
  | 63 => zeroed (fld w 4 6 == 0 && fld w 16 6 == 0) (oneX xs (fun x => fld x 6 22 == 0) fun x => .lhand g (fld w 10 6) (fld x 0 6))
  | _ => .error .unassigned

/-- Decoding of one word `w` with the payloads `xs` of the X words that follow it (08 R191, R194). -/
def decodeWord (w : Nat) (xs : List Nat) : Except DecodeError Instr :=
  match fld w 28 3 with
  | 0 => decodeS w xs
  | 1 => decodeC w xs
  | 2 => decodeV w xs
  | 3 => decodeF w xs
  | 4 => decodeMA w xs
  | 5 => decodeMB w xs
  | 6 => decodeE w xs
  | _ => .error .unassigned

/-- An X word: B = 0 and CLASS 111 (08 R194). -/
def isX (w : Nat) : Bool := fld w 28 4 == 7

/-- The little-endian words of a byte string; a rest of fewer than four bytes is no word (00 R5). -/
def wordsOfBytes : List (BitVec 8) → List Nat
  | b0 :: b1 :: b2 :: b3 :: bs =>
    (b0.toNat + 256 * b1.toNat + 65536 * b2.toNat + 16777216 * b3.toNat) :: wordsOfBytes bs
  | _ => []

/-- The payloads of the X words at the head of `ws`. -/
def xPayloads : List Nat → List Nat
  | w :: ws => if isX w then fld w 0 28 :: xPayloads ws else []
  | [] => []

/-- The instruction at the head of a word list, with the X words that follow it. -/
def decodeWords : List Nat → Except DecodeError Instr
  | [] => .error .unassigned
  | w :: ws => decodeWord w (xPayloads ws)

/-- The decoder on bytes: total, an instruction or a named refusal. -/
def decodeBytes (bs : List (BitVec 8)) : Except DecodeError Instr := decodeWords (wordsOfBytes bs)

/-- The four bytes of a word, lowest first (00 R5). -/
def bytesOfWord (w : Nat) : List (BitVec 8) :=
  [BitVec.ofNat 8 w, BitVec.ofNat 8 (w / 256), BitVec.ofNat 8 (w / 65536), BitVec.ofNat 8 (w / 16777216)]

/-- The host's entry: the instruction whose bits are `w`, the first word in bits 31..0; the longest form has three words. -/
def decodeTableWord (nbits w : Nat) : Option Instr :=
  let v := w % 2 ^ nbits
  (decodeBytes (bytesOfWord (v % 2 ^ 32) ++ bytesOfWord (v / 2 ^ 32 % 2 ^ 32) ++ bytesOfWord (v / 2 ^ 64 % 2 ^ 32))).toOption

/-- Field values at their places: each pair is a value and the number of its lowest bit. -/
def place : List (Nat × Nat) → Nat
  | [] => 0
  | (v, lo) :: fs => v * 2 ^ lo + place fs

/-- The word of class `cls`, opcode `op`, operand fields `fs` and guard `g`, with B = 0 (08 R191). -/
def mkWord (cls op : Nat) (fs : List (Nat × Nat)) (g : Nat) : Nat := place ((cls, 28) :: (op, 22) :: fs) + g

/-- An X word with payload `p` (08 R194). -/
def mkX (p : Nat) : Nat := 7 * 2 ^ 28 + p

/-- The operand fields of a class V word in the common layout. -/
def vFields (o : VOps) : List (Nat × Nat) := [(o.s, 21), (o.c, 20), (o.d, 16), (o.rnd, 14), (o.a, 10), (o.b, 4)]

/-- The payload of an optional register operand. -/
def optRegBits (lo on : Nat) : Option Nat → Nat
  | none => 0
  | some r => r * 2 ^ lo + 2 ^ on

/-- The words of a well-formed instruction, the first with B = 0; a device step has none. -/
def encode : Instr → List Nat
  | .add g d a b => mkWord 0 0 [(d, 16), (a, 10), (b, 4)] g :: []
  | .sub g d a b => mkWord 0 1 [(d, 16), (a, 10), (b, 4)] g :: []
  | .addi g d a imm => mkWord 0 2 [(d, 16), (a, 10), (imm.field, 4)] g :: imm.xs.map mkX
  | .movi g d imm => mkWord 0 3 [(d, 16), (imm.field, 4)] g :: imm.xs.map mkX
  | .mul g d a b => mkWord 0 4 [(d, 16), (a, 10), (b, 4)] g :: []
  | .mulh g d a b => mkWord 0 5 [(d, 16), (a, 10), (b, 4)] g :: []
  | .mulhu g d a b => mkWord 0 6 [(d, 16), (a, 10), (b, 4)] g :: []
  | .and g d a b => mkWord 0 8 [(d, 16), (a, 10), (b, 4)] g :: []
  | .or g d a b => mkWord 0 9 [(d, 16), (a, 10), (b, 4)] g :: []
  | .xor g d a b => mkWord 0 10 [(d, 16), (a, 10), (b, 4)] g :: []
  | .andn g d a b => mkWord 0 11 [(d, 16), (a, 10), (b, 4)] g :: []
  | .andi g d a imm => mkWord 0 12 [(d, 16), (a, 10), (imm.field, 4)] g :: imm.xs.map mkX
  | .ori g d a imm => mkWord 0 13 [(d, 16), (a, 10), (imm.field, 4)] g :: imm.xs.map mkX
  | .xori g d a imm => mkWord 0 14 [(d, 16), (a, 10), (imm.field, 4)] g :: imm.xs.map mkX
  | .shl g d a b => mkWord 0 16 [(d, 16), (a, 10), (b, 4)] g :: []
  | .shr g d a b => mkWord 0 17 [(d, 16), (a, 10), (b, 4)] g :: []
  | .sar g d a b => mkWord 0 18 [(d, 16), (a, 10), (b, 4)] g :: []
  | .shli g d a n => mkWord 0 19 [(d, 16), (a, 10), (n, 4)] g :: []
  | .shri g d a n => mkWord 0 20 [(d, 16), (a, 10), (n, 4)] g :: []
  | .sari g d a n => mkWord 0 21 [(d, 16), (a, 10), (n, 4)] g :: []
  | .clz g d a => mkWord 0 22 [(d, 16), (a, 10)] g :: []
  | .popc g d a => mkWord 0 23 [(d, 16), (a, 10)] g :: []
  | .min g d a b => mkWord 0 24 [(d, 16), (a, 10), (b, 4)] g :: []
  | .max g d a b => mkWord 0 25 [(d, 16), (a, 10), (b, 4)] g :: []
  | .minu g d a b => mkWord 0 26 [(d, 16), (a, 10), (b, 4)] g :: []
  | .maxu g d a b => mkWord 0 27 [(d, 16), (a, 10), (b, 4)] g :: []
  | .sel g d a b c => mkWord 0 28 [(d, 16), (a, 10), (b, 4)] g :: [mkX (place [(c, 0)])]
  | .bfx g d a b => mkWord 0 29 [(d, 16), (a, 10), (b, 4)] g :: []
  | .bfi g d a b => mkWord 0 30 [(d, 16), (a, 10), (b, 4)] g :: []
  | .cmpeq g d a b => mkWord 0 32 [(d, 16), (a, 10), (b, 4)] g :: []
  | .cmpne g d a b => mkWord 0 33 [(d, 16), (a, 10), (b, 4)] g :: []
  | .cmplt g d a b => mkWord 0 34 [(d, 16), (a, 10), (b, 4)] g :: []
  | .cmpltu g d a b => mkWord 0 35 [(d, 16), (a, 10), (b, 4)] g :: []
  | .cmple g d a b => mkWord 0 36 [(d, 16), (a, 10), (b, 4)] g :: []
  | .cmpleu g d a b => mkWord 0 37 [(d, 16), (a, 10), (b, 4)] g :: []
  | .cmpeqi g d a imm => mkWord 0 38 [(d, 16), (a, 10), (imm.field, 4)] g :: imm.xs.map mkX
  | .cmplti g d a imm => mkWord 0 39 [(d, 16), (a, 10), (imm.field, 4)] g :: imm.xs.map mkX
  | .nop g n => mkWord 1 0 [(n, 4)] g :: []
  | .br g imm => mkWord 1 1 [(imm.field, 4)] g :: imm.xs.map mkX
  | .brx g a => mkWord 1 2 [(a, 10)] g :: []
  | .call g imm => mkWord 1 3 [(imm.field, 4)] g :: imm.xs.map mkX
  | .callx g a => mkWord 1 4 [(a, 10)] g :: []
  | .ret g a => mkWord 1 5 [(a, 10)] g :: []
  | .tend g => mkWord 1 6 [] g :: []
  | .trap g code => mkWord 1 7 [(code, 4)] g :: []
  | .loop g a off => mkWord 1 8 [(a, 16), (off, 4)] g :: []
  | .loopi g n off => mkWord 1 9 [(n, 10), (off, 4)] g :: []
  | .loopt g d a b off => mkWord 1 10 [(d, 16), (a, 10), (b, 4)] g :: [mkX (place [(off, 0)])]
  | .pipe g a s => mkWord 1 11 [(a, 10), (s, 4)] g :: []
  | .lclose g imm => mkWord 1 12 [(imm.field, 4)] g :: imm.xs.map mkX
  | .pand g d a b => mkWord 1 16 [(d, 16), (a, 10), (b, 4)] g :: []
  | .por g d a b => mkWord 1 17 [(d, 16), (a, 10), (b, 4)] g :: []
  | .pxor g d a b => mkWord 1 18 [(d, 16), (a, 10), (b, 4)] g :: []
  | .pandn g d a b => mkWord 1 19 [(d, 16), (a, 10), (b, 4)] g :: []
  | .pnot g d a => mkWord 1 20 [(d, 16), (a, 10)] g :: []
  | .pseti g d v => mkWord 1 21 [(d, 16), (v, 4)] g :: []
  | .ptox g d => mkWord 1 22 [(d, 16)] g :: []
  | .xtop g a => mkWord 1 23 [(a, 10)] g :: []
  | .waitany g d a => mkWord 1 24 [(d, 16), (a, 10)] g :: []
  | .waitall g d a => mkWord 1 25 [(d, 16), (a, 10)] g :: []
  | .ffrdy g d a => mkWord 1 26 [(d, 16), (a, 10)] g :: []
  | .pushm g a b => mkWord 1 27 [(a, 10), (b, 4)] g :: []
  | .popm g a b => mkWord 1 28 [(a, 10), (b, 4)] g :: []
  | .bara g d b => mkWord 1 29 [(d, 16), (b, 4)] g :: []
  | .barw g b => mkWord 1 30 [(b, 4)] g :: []
  | .fence g ord scope => mkWord 1 31 [(ord, 7), (scope, 4)] g :: []
  | .csrr g d csr => mkWord 1 32 [(d, 16), (csr, 4)] g :: []
  | .csrw g a csr => mkWord 1 33 [(a, 16), (csr, 4)] g :: []
  | .csrs g a csr => mkWord 1 34 [(a, 16), (csr, 4)] g :: []
  | .csrc g a csr => mkWord 1 35 [(a, 16), (csr, 4)] g :: []
  | .tret g => mkWord 1 36 [] g :: []
  | .dbrk g code => mkWord 1 37 [(code, 4)] g :: []
  | .regwb g a => mkWord 1 38 [(a, 10)] g :: []
  | .lqry g d a => mkWord 1 39 [(d, 16), (a, 10)] g :: []
  | .vadd g o => mkWord 2 0 (vFields o) g :: (o.x.toList.map fun x => mkX (vxWord x))
  | .vsub g o => mkWord 2 1 (vFields o) g :: (o.x.toList.map fun x => mkX (vxWord x))
  | .vmul g o => mkWord 2 2 (vFields o) g :: (o.x.toList.map fun x => mkX (vxWord x))
  | .vfma g o => mkWord 2 3 (vFields o) g :: (o.x.toList.map fun x => mkX (vxWord x))
  | .vdiv g o => mkWord 2 4 (vFields o) g :: (o.x.toList.map fun x => mkX (vxWord x))
  | .vmin g o => mkWord 2 5 (vFields o) g :: (o.x.toList.map fun x => mkX (vxWord x))
  | .vmax g o => mkWord 2 6 (vFields o) g :: (o.x.toList.map fun x => mkX (vxWord x))
  | .vneg g o => mkWord 2 7 (vFields o) g :: (o.x.toList.map fun x => mkX (vxWord x))
  | .vabs g o => mkWord 2 8 (vFields o) g :: (o.x.toList.map fun x => mkX (vxWord x))
  | .vand g o => mkWord 2 9 (vFields o) g :: (o.x.toList.map fun x => mkX (vxWord x))
  | .vor g o => mkWord 2 10 (vFields o) g :: (o.x.toList.map fun x => mkX (vxWord x))
  | .vxor g o => mkWord 2 11 (vFields o) g :: (o.x.toList.map fun x => mkX (vxWord x))
  | .vshl g o => mkWord 2 12 (vFields o) g :: (o.x.toList.map fun x => mkX (vxWord x))
  | .vshr g o => mkWord 2 13 (vFields o) g :: (o.x.toList.map fun x => mkX (vxWord x))
  | .vsar g o => mkWord 2 14 (vFields o) g :: (o.x.toList.map fun x => mkX (vxWord x))
  | .vsel g o => mkWord 2 15 (vFields o) g :: (o.x.toList.map fun x => mkX (vxWord x))
  | .vcmpeq g o => mkWord 2 16 (vFields o) g :: (o.x.toList.map fun x => mkX (vxWord x))
  | .vcmpne g o => mkWord 2 17 (vFields o) g :: (o.x.toList.map fun x => mkX (vxWord x))
  | .vcmplt g o => mkWord 2 18 (vFields o) g :: (o.x.toList.map fun x => mkX (vxWord x))
  | .vcmple g o => mkWord 2 19 (vFields o) g :: (o.x.toList.map fun x => mkX (vxWord x))
  | .vcvt g c d rnd a raw tag sat => mkWord 2 20 [(c, 20), (d, 16), (rnd, 14), (a, 10), (raw, 6), (tag, 4)] g :: (sat.toList.map fun s => mkX (s * 2 ^ 10))
  | .vrco g d a => mkWord 2 21 [(d, 16), (a, 10)] g :: []
  | .vmov g d a => mkWord 2 22 [(d, 16), (a, 10)] g :: []
  | .vsplat g tag d a b => mkWord 2 23 [(tag, 20), (d, 16), (a, 10), (b, 4)] g :: []
  | .vrot g c d a b => mkWord 2 24 [(1, 21), (c, 20), (d, 16), (a, 10), (b, 4)] g :: []
  | .vbcst g d a b => mkWord 2 25 [(1, 21), (d, 16), (a, 10), (b, 4)] g :: []
  | .vred g d rnd a op mask => mkWord 2 26 [(d, 16), (rnd, 14), (a, 10), (op, 4)] g :: (mask.toList.map fun v => mkX (optRegBits 5 9 v))
  | .vscan g c d rnd a => mkWord 2 27 [(c, 20), (d, 16), (rnd, 14), (a, 10)] g :: []
  | .vexpd g c d a b => mkWord 2 28 [(c, 20), (d, 16), (a, 10), (b, 4)] g :: []
  | .vsetch g d a b => mkWord 2 29 [(1, 21), (d, 16), (a, 10), (b, 4)] g :: []
  | .vgetch g d a => mkWord 2 30 [(d, 16), (a, 10)] g :: []
  | .vpopq g d q => mkWord 2 31 [(d, 16), (q, 10)] g :: []
  | .vcrot g d a b => mkWord 2 32 [(1, 21), (d, 16), (a, 10), (b, 4)] g :: []
  | .vcbcst g d a b => mkWord 2 33 [(1, 21), (d, 16), (a, 10), (b, 4)] g :: []
  | .vcred g c d rnd a op => mkWord 2 34 [(c, 20), (d, 16), (rnd, 14), (a, 10), (op, 4)] g :: []
  | .vcscan g c d rnd a op => mkWord 2 35 [(c, 20), (d, 16), (rnd, 14), (a, 10), (op, 4)] g :: []
  | .vldl g tag d a b => mkWord 2 36 [(tag, 20), (d, 16), (a, 10), (b, 4)] g :: []
  | .vstl g a b => mkWord 2 37 [(a, 10), (b, 4)] g :: []
  | .vopt g r rnd gr h => mkWord 2 38 [(r, 16), (rnd, 14), (gr, 10), (h, 4)] g :: []
  | .vextr g d a b => mkWord 2 39 [(d, 16), (a, 10), (b, 4)] g :: []
  | .frcp g c d rnd a sat => mkWord 3 0 [(c, 20), (d, 16), (rnd, 14), (a, 10), (sat, 4)] g :: []
  | .frsq g c d rnd a sat => mkWord 3 1 [(c, 20), (d, 16), (rnd, 14), (a, 10), (sat, 4)] g :: []
  | .fsqrt g c d rnd a sat => mkWord 3 2 [(c, 20), (d, 16), (rnd, 14), (a, 10), (sat, 4)] g :: []
  | .fexp g c d rnd a sat => mkWord 3 3 [(c, 20), (d, 16), (rnd, 14), (a, 10), (sat, 4)] g :: []
  | .fexp2 g c d rnd a sat => mkWord 3 4 [(c, 20), (d, 16), (rnd, 14), (a, 10), (sat, 4)] g :: []
  | .flog g c d rnd a sat => mkWord 3 5 [(c, 20), (d, 16), (rnd, 14), (a, 10), (sat, 4)] g :: []
  | .flog2 g c d rnd a sat => mkWord 3 6 [(c, 20), (d, 16), (rnd, 14), (a, 10), (sat, 4)] g :: []
  | .ftanh g c d rnd a sat => mkWord 3 7 [(c, 20), (d, 16), (rnd, 14), (a, 10), (sat, 4)] g :: []
  | .fsig g c d rnd a sat => mkWord 3 8 [(c, 20), (d, 16), (rnd, 14), (a, 10), (sat, 4)] g :: []
  | .fsin g c d rnd a sat => mkWord 3 9 [(c, 20), (d, 16), (rnd, 14), (a, 10), (sat, 4)] g :: []
  | .fcos g c d rnd a sat => mkWord 3 10 [(c, 20), (d, 16), (rnd, 14), (a, 10), (sat, 4)] g :: []
  | .frand g d a => mkWord 3 11 [(d, 16), (a, 10)] g :: []
  | .ldb g d a imm => mkWord 4 0 [(d, 16), (a, 10), (imm.field, 4)] g :: imm.xs.map mkX
  | .ldbu g d a imm => mkWord 4 1 [(d, 16), (a, 10), (imm.field, 4)] g :: imm.xs.map mkX
  | .ldh g d a imm => mkWord 4 2 [(d, 16), (a, 10), (imm.field, 4)] g :: imm.xs.map mkX
  | .ldhu g d a imm => mkWord 4 3 [(d, 16), (a, 10), (imm.field, 4)] g :: imm.xs.map mkX
  | .ldw g d a imm => mkWord 4 4 [(d, 16), (a, 10), (imm.field, 4)] g :: imm.xs.map mkX
  | .ldwu g d a imm => mkWord 4 5 [(d, 16), (a, 10), (imm.field, 4)] g :: imm.xs.map mkX
  | .ldd g d a imm => mkWord 4 6 [(d, 16), (a, 10), (imm.field, 4)] g :: imm.xs.map mkX
  | .lda g d a imm => mkWord 4 7 [(d, 16), (a, 10), (imm.field, 4)] g :: imm.xs.map mkX
  | .stb g s a imm => mkWord 4 8 [(s, 16), (a, 10), (imm.field, 4)] g :: imm.xs.map mkX
  | .sth g s a imm => mkWord 4 9 [(s, 16), (a, 10), (imm.field, 4)] g :: imm.xs.map mkX
  | .stw g s a imm => mkWord 4 10 [(s, 16), (a, 10), (imm.field, 4)] g :: imm.xs.map mkX
  | .std g s a imm => mkWord 4 11 [(s, 16), (a, 10), (imm.field, 4)] g :: imm.xs.map mkX
  | .strl g s a imm => mkWord 4 12 [(s, 16), (a, 10), (imm.field, 4)] g :: imm.xs.map mkX
  | .aadd g d a b size => mkWord 4 16 [(d, 16), (a, 10), (b, 4)] g :: (size.toList.map mkX)
  | .aswp g d a b size => mkWord 4 17 [(d, 16), (a, 10), (b, 4)] g :: (size.toList.map mkX)
  | .acas g d a b size => mkWord 4 18 [(d, 16), (a, 10), (b, 4)] g :: (size.toList.map mkX)
  | .amin g d a b size => mkWord 4 19 [(d, 16), (a, 10), (b, 4)] g :: (size.toList.map mkX)
  | .amax g d a b size => mkWord 4 20 [(d, 16), (a, 10), (b, 4)] g :: (size.toList.map mkX)
  | .aminu g d a b size => mkWord 4 21 [(d, 16), (a, 10), (b, 4)] g :: (size.toList.map mkX)
  | .amaxu g d a b size => mkWord 4 22 [(d, 16), (a, 10), (b, 4)] g :: (size.toList.map mkX)
  | .qpops g q a b skip => mkWord 4 24 [(q, 16), (a, 10), (b, 4)] g :: (skip.toList.map fun v => mkX (optRegBits 0 4 v))
  | .tlds g t a o => mkWord 4 25 [(t, 16), (a, 10), (o, 4)] g :: []
  | .tsts g t a o => mkWord 4 26 [(t, 16), (a, 10), (o, 4)] g :: []
  | .vldr g d a b fmt pitch => mkWord 4 27 [(d, 16), (a, 10), (b, 4)] g :: [mkX (place [(fmt, 0), (pitch, 8)])]
  | .vstx g a s fmt rnd sat pitch => mkWord 4 28 [(a, 10), (s, 4)] g :: [mkX (place [(fmt, 0), (rnd, 5), (sat, 7), (pitch, 8)])]
  | .vpack g a s => mkWord 4 29 [(a, 10), (s, 4)] g :: []
  | .vunpack g d a => mkWord 4 30 [(d, 16), (a, 10)] g :: []
  | .ldbCm g d a imm => mkWord 5 0 [(d, 16), (a, 10), (imm.field, 4)] g :: imm.xs.map mkX
  | .ldbuCm g d a imm => mkWord 5 1 [(d, 16), (a, 10), (imm.field, 4)] g :: imm.xs.map mkX
  | .ldhCm g d a imm => mkWord 5 2 [(d, 16), (a, 10), (imm.field, 4)] g :: imm.xs.map mkX
  | .ldhuCm g d a imm => mkWord 5 3 [(d, 16), (a, 10), (imm.field, 4)] g :: imm.xs.map mkX
  | .ldwCm g d a imm => mkWord 5 4 [(d, 16), (a, 10), (imm.field, 4)] g :: imm.xs.map mkX
  | .ldwuCm g d a imm => mkWord 5 5 [(d, 16), (a, 10), (imm.field, 4)] g :: imm.xs.map mkX
  | .lddCm g d a imm => mkWord 5 6 [(d, 16), (a, 10), (imm.field, 4)] g :: imm.xs.map mkX
  | .ldaCm g d a imm => mkWord 5 7 [(d, 16), (a, 10), (imm.field, 4)] g :: imm.xs.map mkX
  | .stbCm g s a imm => mkWord 5 8 [(s, 16), (a, 10), (imm.field, 4)] g :: imm.xs.map mkX
  | .sthCm g s a imm => mkWord 5 9 [(s, 16), (a, 10), (imm.field, 4)] g :: imm.xs.map mkX
  | .stwCm g s a imm => mkWord 5 10 [(s, 16), (a, 10), (imm.field, 4)] g :: imm.xs.map mkX
  | .stdCm g s a imm => mkWord 5 11 [(s, 16), (a, 10), (imm.field, 4)] g :: imm.xs.map mkX
  | .strlCm g s a imm => mkWord 5 12 [(s, 16), (a, 10), (imm.field, 4)] g :: imm.xs.map mkX
  | .aaddCm g d a b size => mkWord 5 16 [(d, 16), (a, 10), (b, 4)] g :: (size.toList.map mkX)
  | .aswpCm g d a b size => mkWord 5 17 [(d, 16), (a, 10), (b, 4)] g :: (size.toList.map mkX)
  | .acasCm g d a b size => mkWord 5 18 [(d, 16), (a, 10), (b, 4)] g :: (size.toList.map mkX)
  | .aminCm g d a b size => mkWord 5 19 [(d, 16), (a, 10), (b, 4)] g :: (size.toList.map mkX)
  | .amaxCm g d a b size => mkWord 5 20 [(d, 16), (a, 10), (b, 4)] g :: (size.toList.map mkX)
  | .aminuCm g d a b size => mkWord 5 21 [(d, 16), (a, 10), (b, 4)] g :: (size.toList.map mkX)
  | .amaxuCm g d a b size => mkWord 5 22 [(d, 16), (a, 10), (b, 4)] g :: (size.toList.map mkX)
  | .qpopsCm g q a b skip => mkWord 5 24 [(q, 16), (a, 10), (b, 4)] g :: (skip.toList.map fun v => mkX (optRegBits 0 4 v))
  | .tldsCm g t a => mkWord 5 25 [(t, 16), (a, 10)] g :: []
  | .tstsCm g t a => mkWord 5 26 [(t, 16), (a, 10)] g :: []
  | .cadd g d a b scope ord order => mkWord 5 32 [(d, 16), (a, 10), (b, 4)] g :: [mkX (place [(scope, 0), (ord, 3), (order, 4)])]
  | .cswp g d a b scope ord order => mkWord 5 33 [(d, 16), (a, 10), (b, 4)] g :: [mkX (place [(scope, 0), (ord, 3), (order, 4)])]
  | .ccas g d a b scope ord order => mkWord 5 34 [(d, 16), (a, 10), (b, 4)] g :: [mkX (place [(scope, 0), (ord, 3), (order, 4)])]
  | .cmin g d a b scope ord order => mkWord 5 35 [(d, 16), (a, 10), (b, 4)] g :: [mkX (place [(scope, 0), (ord, 3), (order, 4)])]
  | .cmax g d a b scope ord order => mkWord 5 36 [(d, 16), (a, 10), (b, 4)] g :: [mkX (place [(scope, 0), (ord, 3), (order, 4)])]
  | .cld g d a scope ord order => mkWord 5 37 [(d, 16), (a, 10)] g :: [mkX (place [(scope, 0), (ord, 3), (order, 4)])]
  | .tsett g t a => mkWord 6 0 [(t, 16), (a, 10)] g :: []
  | .tgett g d t => mkWord 6 1 [(d, 16), (t, 10)] g :: []
  | .dbind g d a => mkWord 6 2 [(d, 16), (a, 10)] g :: []
  | .drebind g d a => mkWord 6 3 [(d, 16), (a, 10)] g :: []
  | .dclr g m => mkWord 6 4 [(m, 4)] g :: []
  | .dget g d a => mkWord 6 5 [(d, 16), (a, 10)] g :: []
  | .tflag g t clr set => mkWord 6 6 [(t, 16), (clr, 6), (set, 4)] g :: []
  | .tzero g t => mkWord 6 7 [(t, 16)] g :: []
  | .tmov g d a => mkWord 6 8 [(d, 16), (a, 10)] g :: []
  | .treshp g d a b tag => mkWord 6 9 [(d, 16), (a, 10), (b, 4)] g :: [mkX (place [(tag, 0)])]
  | .ttrans g d a tag => mkWord 6 10 [(d, 16), (a, 10)] g :: [mkX (place [(tag, 0)])]
  | .tcast g d a tag fmt => mkWord 6 11 [(d, 16), (a, 10)] g :: [mkX (place [(tag, 0), (fmt, 9)])]
  | .tcvt g d a tag fmt rnd sat => mkWord 6 12 [(d, 16), (a, 10)] g :: [mkX (place [(tag, 0), (fmt, 9), (rnd, 6), (sat, 8)])]
  | .tqnt g d a tag fmt geom rnd => mkWord 6 13 [(d, 16), (a, 10)] g :: [mkX (place [(tag, 0), (fmt, 9), (geom, 18), (rnd, 6)])]
  | .tdqnt g d a tag fmt rnd sat => mkWord 6 14 [(d, 16), (a, 10)] g :: [mkX (place [(tag, 0), (fmt, 9), (rnd, 6), (sat, 8)])]
  | .tcmpr g d a e tag => mkWord 6 15 [(d, 16), (a, 10), (e, 4)] g :: [mkX (place [(tag, 0)])]
  | .mlds g a tag => mkWord 6 16 [(a, 10)] g :: [mkX (place [(tag, 0)])]
  | .mswap g tag => mkWord 6 17 [(tag, 4)] g :: []
  | .mmul g q a start c tag fmt rnd sat => mkWord 6 18 [(q, 16), (a, 10), (start, 14), (c, 4)] g :: [mkX (place [(tag, 0), (fmt, 9), (rnd, 6), (sat, 8)])]
  | .mmuln g a start c tag => mkWord 6 19 [(a, 10), (start, 14), (c, 4)] g :: [mkX (place [(tag, 0)])]
  | .mmulS g q a start c tag fmt rnd sat m => mkWord 6 20 [(q, 16), (a, 10), (start, 14), (c, 4)] g :: [mkX (place [(tag, 0), (fmt, 9), (rnd, 6), (sat, 8), (m, 14)])]
  | .mmulnS g a start c tag m => mkWord 6 21 [(a, 10), (start, 14), (c, 4)] g :: [mkX (place [(tag, 0), (m, 14)])]
  | .mdrain g q tag fmt rnd sat => mkWord 6 22 [(q, 16)] g :: [mkX (place [(tag, 0), (fmt, 9), (rnd, 6), (sat, 8)])]
  | .mxw g x a => mkWord 6 23 [(x, 16), (a, 10)] g :: []
  | .mxr g d x => mkWord 6 24 [(d, 16), (x, 10)] g :: []
  | .cew g x a => mkWord 6 32 [(x, 16), (a, 10)] g :: []
  | .cewi g x imm => mkWord 6 33 [(x, 16), (imm.field, 4)] g :: imm.xs.map mkX
  | .cer g d x => mkWord 6 34 [(d, 16), (x, 10)] g :: []
  | .cerst g => mkWord 6 35 [] g :: []
  | .copy g tag a b => mkWord 6 36 [(tag, 16), (a, 10), (b, 4)] g :: []
  | .ymatch g v a b tag => mkWord 6 40 [(v, 16), (a, 10), (b, 4)] g :: [mkX (place [(tag, 0)])]
  | .ymerge g v a tag => mkWord 6 41 [(v, 16), (a, 10)] g :: [mkX (place [(tag, 0)])]
  | .yunmerge g a tag => mkWord 6 42 [(a, 10)] g :: [mkX (place [(tag, 0)])]
  | .yretire g a tag => mkWord 6 43 [(a, 10)] g :: [mkX (place [(tag, 0)])]
  | .ystat g d => mkWord 6 44 [(d, 16)] g :: []
  | .tspawn g d a b => mkWord 6 48 [(d, 16), (a, 10), (b, 4)] g :: []
  | .gdec g d a b => mkWord 6 49 [(d, 16), (a, 10), (b, 4)] g :: []
  | .gread g d a => mkWord 6 50 [(d, 16), (a, 10)] g :: []
  | .dsend g a tag => mkWord 6 51 [(a, 10)] g :: [mkX (place [(tag, 0)])]
  | .drecv g a b tag => mkWord 6 52 [(a, 10), (b, 4)] g :: [mkX (place [(tag, 0)])]
  | .dflush g tag => mkWord 6 53 [(tag, 4)] g :: []
  | .dcomb g a tag => mkWord 6 54 [(a, 10)] g :: [mkX (place [(tag, 0)])]
  | .fsend g a b tag => mkWord 6 55 [(a, 10), (b, 4)] g :: [mkX (place [(tag, 0)])]
  | .frecv g t b tag => mkWord 6 56 [(t, 16), (b, 4)] g :: [mkX (place [(tag, 0)])]
  | .lgath g a b tag => mkWord 6 60 [(a, 10), (b, 4)] g :: [mkX (place [(tag, 0)])]
  | .ldedup g d a b => mkWord 6 61 [(d, 16), (a, 10), (b, 4)] g :: []
  | .lpool g a op tag => mkWord 6 62 [(a, 10), (op, 4)] g :: [mkX (place [(tag, 0)])]
  | .lhand g a tag => mkWord 6 63 [(a, 10)] g :: [mkX (place [(tag, 0)])]
  | .contextSwitch _ => []
  | .stabling _ _ => []
  | .stablingMoveComplete _ _ => []
  | .teamReturn _ _ => []
  | .schedulingRound => []
  | .timeShareHandOver _ => []
  | .preemptionHalt _ _ => []
  | .evacuation _ _ => []
  | .taskResume _ _ _ => []
  | .taskCompletion _ _ => []
  | .faultTaskEnd _ _ => []
  | .leaseGrant _ _ => []
  | .frameReturn _ _ => []
  | .matrixCommandStart _ => []
  | .mldsLoadComplete _ => []
  | .mswapTakesEffect _ => []
  | .mmulChunkEnd _ => []
  | .slabPush _ => []
  | .drainWaitTimeout _ => []
  | .followOnEntry _ => []
  | .copyStart _ => []
  | .copyCompletion _ => []
  | .yokeCommandStart _ => []
  | .yokeCommandCompletion _ => []
  | .handOffLanding _ => []
  | .dispatchRowLanding _ => []
  | .dflushCompletion _ => []
  | .dispatchWaitCompletion _ => []
  | .fabricPayloadArrival _ => []
  | .counterOperationPerform _ => []
  | .counterReplyArrival _ => []
  | .graphCounterDecrement _ => []
  | .cacheLinePowerState _ _ _ => []
  | .functionLevelReset _ => []
  | .sqtail _ _ _ => []
  | .cqhead _ _ _ => []
  | .kernelLaunch _ _ => []
  | .lookupKernelLaunch _ _ => []
  | .transformLaunch _ _ => []
  | .graphLaunch _ _ => []
  | .seal _ _ => []
  | .retire _ _ => []
  | .cqInterruptTimer _ _ => []
  | .ctltail _ => []
  | .fmset => []
  | .fmget => []
  | .wrfrm => []
  | .rdfrm => []
  | .wtset => []
  | .inval => []
  | .migrate => []
  | .migrationFlip _ => []
  | .offload => []
  | .offloadComplete _ _ => []
  | .returnFrame => []
  | .pool => []
  | .cells => []
  | .evac => []
  | .preempt => []
  | .resume => []
  | .endtask => []
  | .ctxread => []
  | .lkassign => []
  | .debug => []
  | .ctrclr => []
  | .barmap => []
  | .attest => []
  | .fwstage => []
  | .windowBarAccess _ _ _ _ => []
  | .nqhead _ _ => []
  | .noticeOvfClear _ => []
  | .clmask _ _ => []
  | .paddockEn _ _ => []
  | .paddockAllotmentWrite _ _ _ => []
  | .plimit _ => []
  | .powerSample _ => []
  | .powerStep _ => []
  | .arbiterGrant _ _ _ => []
  | .scrubRead _ => []
  | .elhead _ => []
  | .moduleReset => []
  | .debuggerRelease _ _ => []
  | .registerWrite _ _ => []
  | .softError _ => []
  | .remoteTargetUnreachable _ => []
  | .islandOperatingPointChange _ _ => []

/-- The slots in canonical order: SA, SB, VA, VB, VC, FN, MA, MB are 0 to 7; which of them accept a class (08 R195). -/
def slotAccepts (cls slot : Nat) : Bool :=
  match cls with
  | 0 => slot <= 1
  | 1 => slot == 0
  | 2 => 2 <= slot && slot <= 4
  | 3 => slot == 5
  | 4 => slot == 6
  | 5 => slot == 7
  | 6 => slot == 1
  | _ => false

/-- One word of a bundle that is not an X word, with the payloads of its X words; `idx` is its index among all words of the
bundle. -/
structure RawWord where
  idx : Nat
  word : Nat
  xs : List Nat
  deriving DecidableEq, Repr

/-- Groups a bundle's words with the X words that follow them; `none` when an X word follows no word (EN-07). -/
def groupWords : Nat → List Nat → List RawWord
  | _, [] => []
  | n, w :: ws => ⟨n, w, xPayloads ws⟩ :: (groupWords (n + 1) ws).filter (fun r => !isX r.word)

/-- A decoded word of a bundle with the slot it takes. -/
structure SlotWord where
  idx : Nat
  slot : Nat
  instr : Instr
  deriving DecidableEq, Repr

/-- An encoding fault of 08 R200: its number and the index of the word it names. -/
structure EncFault where
  num : Nat
  word : Nat
  deriving DecidableEq, Repr

/-- The class of a word. -/
def classOf (w : Nat) : Nat := fld w 28 3

/-- How many words of `ws` have a class in `cs`. -/
def countClass (cs : List Nat) (ws : List RawWord) : Nat := (ws.filter fun r => cs.contains (classOf r.word)).length

/-- Oversubscribed slots (08 R196). -/
def oversubscribed (ws : List RawWord) : Bool :=
  countClass [1] ws > 1 || countClass [6] ws > 1 || countClass [2] ws > 3 || countClass [3] ws > 1 ||
    countClass [4] ws > 1 || countClass [5] ws > 1 || countClass [0, 1, 6] ws > 2

/-- The lowest slot at or after `p` that accepts class `cls`, searching `fuel` slots. -/
def nextSlot (cls : Nat) : Nat → Nat → Option Nat
  | 0, _ => none
  | fuel + 1, p => if p < 8 && slotAccepts cls p then some p else nextSlot cls fuel (p + 1)

/-- Assigns words to slots in order (08 R196); the error is the index of the first word that finds no slot. -/
def assignSlots : Nat → List RawWord → Except Nat (List (Nat × RawWord))
  | _, [] => .ok []
  | p, r :: rs =>
    match nextSlot (classOf r.word) 8 p with
    | none => .error r.idx
    | some s =>
      match assignSlots (s + 1) rs with
      | .ok l => .ok ((s, r) :: l)
      | .error e => .error e

/-- Is the opcode decoded on a main core (`lookup` false) or on a lookup core (08 R208)? -/
def decodedOn (lookup : Bool) : Instr → Bool
  | .lgath .. | .ldedup .. | .lpool .. | .lhand .. => lookup
  | .bara .. | .barw .. | .qpops .. | .tlds .. | .tsts .. | .vldr .. | .vstx .. | .vpack .. | .vunpack .. => !lookup
  | .cew .. | .cewi .. | .cer .. | .cerst .. | .copy .. => true
  | i =>
    match encode i with
    | w :: _ => !lookup || classOf w == 0 || classOf w == 1 || classOf w == 4
    | [] => false

/-- Does a core decode the opcode of a word that is not an X word (08 R208)? An opcode it does not decode has no form (08 R194). -/
def wordOn (lookup : Bool) (w : Nat) : Bool :=
  let op := fld w 22 6
  match classOf w with
  | 0 => true
  | 1 => !lookup || (op != 0x1D && op != 0x1E)
  | 4 => !lookup || !(decide (0x18 ≤ op) && decide (op ≤ 0x1E))
  | 6 => if lookup then (decide (0x20 ≤ op) && decide (op ≤ 0x24)) || decide (0x3C ≤ op) else decide (op < 0x3C)
  | _ => !lookup

/-- A CSR that the core does not have (09 R246: EN-02 on a lookup core). -/
def csrMissing (lookup : Bool) : Instr → Bool
  | .csrr _ _ csr | .csrw _ _ csr | .csrs _ _ csr | .csrc _ _ csr => lookup && !csrOnLookup csr
  | _ => false

/-- Where a word with its X words fails EN-07 (08 R194, R200): at the word itself where it is an X word, else at the first X word past those
its form accepts, which an opcode without a form does not have (log entry 113). -/
def surplusX (lookup : Bool) (r : RawWord) : Option Nat :=
  if isX r.word || fld r.word 28 3 == 7 then some r.idx
  else if !wordOn lookup r.word then none
  else ((List.range r.xs.length).find? fun k => decide (decodeWord r.word (r.xs.take (k + 1)) = .error .extraX)).map (r.idx + · + 1)

/-- Decodes the words of one bundle in the order of checks of 08 R200: EN-07, EN-04 or EN-03, EN-01, EN-02. -/
def decodeBundle (lookup : Bool) (ws : List Nat) : Except EncFault (List SlotWord) :=
  let raws := (groupWords 0 ws)
  let dec := raws.map fun r => (r, if wordOn lookup r.word then decodeWord r.word r.xs else .error .unassigned)
  let is (e : DecodeError) : RawWord × Except DecodeError Instr → Bool := fun
    | (_, .error e') => decide (e' = e)
    | _ => false
  match raws.findSome? (surplusX lookup) with
  | some k => .error ⟨7, k⟩
  | none =>
    match assignSlots 0 raws with
    | .error k => .error ⟨if oversubscribed raws then 4 else 3, k⟩
    | .ok slots =>
      match dec.find? (fun p => is .unassigned p ||
          (match p.2 with | .ok i => !decodedOn lookup i | .error _ => false)) with
      | some (r, _) => .error ⟨1, r.idx⟩
      | none =>
        match dec.find? (fun p => is .operand p ||
            (match p.2 with | .ok i => csrMissing lookup i | .error _ => false)) with
        | some (r, _) => .error ⟨2, r.idx⟩
        | none => .ok ((slots.zip dec).filterMap fun p =>
            match p.2.2 with
            | .ok i => some ⟨p.1.2.idx, p.1.1, i⟩
            | .error _ => none)

end Sys2Proof
end

