-- ==== Sys2Proof/Word.lean ====
section
/-! DEFINITION. The words of the machine: 64-bit scalars, bytes, and the 32-bit values of a run. -/
namespace Sys2Proof

/-- A scalar register, a CSR, a type word (09 R223). -/
abbrev Word := BitVec 64

/-- A byte of memory. -/
abbrev Byte := BitVec 8

/-- The value of one run, and a word of a noise channel (05 R115, 06 R161). -/
abbrev Half := BitVec 32

end Sys2Proof
end

