-- ==== Sys2Proof/Config.lean ====
section
/-! DEFINITION. What one module fixes and the spec leaves open, as constants without a body. -/
namespace Sys2Proof

/-- The words that the noise source delivers, one after another (06 R161; log entry 7). -/
opaque Config.noise : Nat → Half

/-- The modules of the Sausk domain (11 R289; log entry 10). -/
opaque Config.inDomain : Nat → Bool

/-- Whether cell `c` of paddock `p` lies in a configured counter frame of module `m` (11 R289; log entry 10). -/
opaque Config.remoteCell : Nat → Nat → Nat → Bool

/-- The reply that the `n`-th remote counter operation brings from another module (11 R289; log entry 10). -/
opaque Config.remoteReply : Nat → Word

/-- PLACE of an error-log entry that concerns no line, or a line whose place in its memory is not held (23 R478, R480; log entry 115). -/
opaque Config.freePlace : Nat → Nat

/-- The Sausk port, counted from the first, through which the payload of a receive came (23 R473; log entry 12). -/
opaque Config.linkPort : Nat → Nat

/-- How many more element rows of a copy have landed when its core halts (06 R158; log entry 126). -/
opaque Config.freeRows : Nat → Nat

/-- The set of its slice in which a line of HBM is held (22 R464; log entry 122). -/
opaque Config.l2Set : Nat → Nat

/-- Whether the unit with READY bit `i` passes its self-test (21 R452). -/
opaque Config.selfTest : Nat → Bool

/-- SVNMIN as the fuses hold it (21 R453). -/
opaque Config.fuseSvn : Nat

/-- The vendor key digest in the fuses, byte by byte (21 R454). -/
opaque Config.vendorDigest : Nat → Byte

/-- Whether the image of a KIND stored at manufacture verifies, its SVN, its ADVANCE bit, its body digest (21 R454). -/
opaque Config.factoryOk : Nat → Bool
opaque Config.factorySvn : Nat → Nat
opaque Config.factoryAdvance : Nat → Bool
opaque Config.factoryDigest : Nat → Nat → Byte

/-- The serial number, byte by byte (21 R456). -/
opaque Config.serial : Nat → Byte

/-- The attestation public key that the device secret gives with a security image's digest, and its certificate signature by the
identity key (21 R455). -/
opaque Config.attestKey : List Byte → Nat → Byte
opaque Config.attestCert : List Byte → Nat → Byte

/-- The attestation key's signature over a message (21 R455, R456). -/
opaque Config.attestSign : List Byte → List Byte → Nat → Byte

end Sys2Proof
end

