-- ==== Sys2Proof/Machine/State.lean ====
section
/-! DEFINITION. The state of the PLV-9416 as plain data: contexts, tasks, cores, the memories, engine operations in progress and
the device's registers, with the state after module reset. INVENTORY.md lists every field with its rule. -/
namespace Sys2Proof.Machine

/-- A finite map kept as a list with rising keys; a key that is not listed has the default of its reader. -/
abbrev AMap (α : Type) := List (Nat × α)

/-- Memory: (address, byte) cells, addresses strictly rising, no cell 0; an unlisted address reads 0 (log entry 2). -/
abbrev Memory := List Host.Cell

/-- The fault classes of 00 R8, in their order, and TRAP (09 R248). -/
inductive FaultClass where
  | EN | SH | FM | RN | QU | RC | LS | CP | MD | AC | FB | PV | TRAP
  deriving DecidableEq, Repr

/-- A fault with what it delivers: number, JOIN bit, the word that met it, detail, type words, command (09 R246 to R250); `aux` is
the MX.MDINFO of an MD-01, the line of an AC fault; `part` the 64-bit words of that line which a core read took, none listed where a
register-cache fill read it whole; `lines` those of a compressed block that could not be read, which it poisons (03 R93). -/
structure FaultRec where
  cls : FaultClass
  num : Nat
  join : Bool := false
  word : Nat := 0
  fdet : Word := 0
  ftypeA : Word := 0
  ftypeB : Word := 0
  fcmd : Word := 0
  aux : Nat := 0
  part : List Nat := []
  lines : List Nat := []
  deriving DecidableEq, Repr

/-- One run: a 32-bit value and its count, 1 to 4,096 (05 R115). -/
structure Run where
  val : Half
  cnt : Nat
  deriving DecidableEq, Repr

/-- The format tags a run register carries (05 R116). -/
inductive VTag where
  | int32 | uint32 | fp32
  deriving DecidableEq, Repr

/-- A run register: sixteen rows of runs and a tag (05 R115, R116). -/
structure VReg where
  rows : List (List Run)
  tag : VTag
  deriving DecidableEq, Repr

/-- The run register at placement: every row empty, tag INT32 (05 R117). -/
def VReg.empty : VReg := ⟨List.replicate 16 [], .int32⟩

/-- A register write under way, with its destination (08 R205). A counter reply that has not arrived is named by its operation
(11 R292). -/
inductive Result where
  | x (n : Nat) (v : Word)
  | xReply (n op : Nat)
  | p (n : Nat) (v : Bool)
  | v (n : Nat) (r : VReg)
  | tw (n : Nat) (w : Word)
  | d (n : Nat) (v : Option Nat)
  | csr (n : Nat) (v : Word)
  | ce (n : Nat) (v : Word)
  | mx (n : Nat) (v : Word)
  deriving DecidableEq, Repr

/-- A result and the point at which it is written (08 R205). -/
structure InFlight where
  point : Nat
  res : Result
  deriving DecidableEq, Repr

/-- An entry of the hardware loop stack: `count` is REMAIN of a counted loop, none marks a traverse loop (09 R233). -/
structure LoopEntry where
  start : Word
  last : Word
  count : Option Word
  deriving DecidableEq, Repr

/-- The traverse buffer: the stream, the destination register and the element and row now reached (09 R237, R238). -/
structure Traverse where
  ptrs : List Nat
  d : Nat
  elem : Nat
  row : Nat
  deriving DecidableEq, Repr

/-- The interrupted program's numbering and in-flight results, held across a trap handler (08 R206), with the number that the
handler's first operation would have. -/
structure Captured where
  inflight : List InFlight
  bidx : Nat
  lastIdx : Nat
  lastWeight : Nat
  firstOp : Nat
  deriving DecidableEq, Repr

/-- Why a context's next bundle blocks (01 R14), with what the test of the condition needs. -/
inductive Block where
  | matrixQueue (core : Nat)
  | copyPlaces (core : Nat)
  | yokeQueue (span : Nat)
  | yokeOwn (cid : Nat)
  | spawnQueue (p need : Nat)
  | dispatchWaits (die : Nat)
  | handOffs (core : Nat)
  | tagsAny (mask : Word)
  | tagsAll (mask : Word)
  | pop (q : Nat) (need : Nat)
  | barrier (b : Nat) (phase : Word)
  deriving DecidableEq, Repr

/-- A block in force and the reference cycle at which it began (01 R24). -/
structure BlockRec where
  why : Block
  since : Nat
  deriving DecidableEq, Repr

/-- A context (01 R11), by the fields of INVENTORY.md. `core` numbers main cores 0 to 383 and lookup cores 384 to 431. `damaged`
lists the registers whose parity is wrong (23 R480), numbered as a soft error numbers them. `before` lists the operations on cells
and graph counters that happen before the context's next access and `behind` those its later writes wait for (07 R183, R186). -/
structure Ctx where
  tid : Nat
  member : Nat
  core : Nat
  slot : Nat
  pc : Word
  x : Vector Word 64
  p : Vector Bool 16
  d : Vector (Option Nat) 16
  tw : Vector Word 16
  v : Vector VReg 16
  ce : Vector Word 32
  mxRows : Word
  mxMd : Word
  trapvec : Word
  epc : Word
  cause : Word
  fdet : Word
  ftypeA : Word
  ftypeB : Word
  fcmd : Word
  fscr0 : Word
  fscr1 : Word
  rrb : BitVec 4
  lcnt : Word
  sdepth : BitVec 4
  sp : Word
  inTrap : Bool
  loops : List LoopEntry
  trav : Option Traverse
  rngctl : Word
  rngposc : Word
  rngpose : Word
  bidx : Nat
  lastIdx : Nat
  lastWeight : Nat
  ecnt : Word
  inflight : List InFlight
  captured : Option Captured
  unready : AMap Nat
  sliceBase : Nat
  sliceSize : Nat
  ended : Bool
  block : Option BlockRec
  tileStall : List Nat
  batch : Option Nat
  damaged : List Nat
  before : List Nat
  behind : List Nat
  deriving DecidableEq, Repr

/-- A lease of a task (02 R56): window, inclusive box, rights, whether it was delegated by the spawner, and whether it was granted so
with the spawn (02 R61). -/
structure Lease where
  win : Nat
  box : List (Nat × Nat)
  rd : Bool
  wr : Bool
  deleg : Bool
  held : Bool
  deriving DecidableEq, Repr

/-- The code image of a task (20 R426, R427): the paddock's window, the image's offset and length, the data image's length. -/
structure Code where
  win : Nat
  off : Nat
  len : Nat
  dataLen : Nat
  deriving DecidableEq, Repr

/-- A team barrier: its phase and the members that have arrived in it (11 R295); what happens before the arrivals of this phase, and
before those of the phases completed (07 R183). -/
structure Barrier where
  phase : Half
  arrived : List Nat
  before : List Nat := []
  passed : List Nat := []
  deriving DecidableEq, Repr

/-- An engine fault kept at its tag until a join reports it (00 R9, 09 R243). -/
structure TagFault where
  op : Nat
  core : Nat
  tag : Nat
  flt : FaultRec
  deriving DecidableEq, Repr

/-- Where a pending mark lies (07 R177): a core's scratch, a cluster's memory, a frame of HBM (`none`) or of a span scratchpad, a
tile home. -/
inductive MarkSpace where
  | scratch (core : Nat)
  | cluster (cl : Nat)
  | frame (span : Option Nat) (f : Nat)
  | tile (cid n : Nat)
  deriving DecidableEq, Repr

/-- A pending mark: the lines (64 bytes) or blocks (256 bytes) from `lo` to `hi`, its kind, and the window for a window place. -/
structure Mark where
  space : MarkSpace
  lo : Nat
  hi : Nat
  write : Bool
  atomic : Bool := false
  win : Nat := 0
  deriving DecidableEq, Repr

/-- The mark of a hand-off or receive that has landed and that its team has not joined (07 R177). -/
structure Landed where
  core : Nat
  tag : Nat
  mark : Mark
  deriving DecidableEq, Repr

/-- An engine operation that has completed and that its team may still join: what happens before it (07 R175, R183). -/
structure Finished where
  op : Nat
  core : Nat
  tag : Nat
  q : Option Nat
  before : List Nat
  deriving DecidableEq, Repr

/-- One result-queue slab (06 R145): its format code, valid rows and columns, the codes of the valid elements, and whether it is
poisoned (23 R476). -/
structure Slab where
  fmt : Nat
  nr : Nat
  nc : Nat
  vals : List (List Nat)
  bad : Bool := false
  deriving DecidableEq, Repr

/-- A result queue with its status (06 R146, R147); LEVEL and DRAINING are read off the queue and the pending commands. -/
structure RQueue where
  slabs : List Slab
  nan : Bool
  sat : Bool
  retried : Bool
  drains : Nat
  deriving DecidableEq, Repr

/-- A weight plane: the latched type word, the latched storage image, scales included, its two check columns by contraction index
(06 R139, R148; 23 R477), and whether it is poisoned. -/
structure Plane where
  tw : Word
  img : Memory
  chk : List (BitVec 48 × BitVec 48) := []
  bad : Bool := false
  deriving DecidableEq, Repr

/-- A core's matrix array (06 R139 to R148) with the planned state of 12 R318 and the result queues. `mq` lists the commands in
the queue by operation number. Accumulators are 48-bit codes, ACC48 or, where `accInt`, INT48; `accSat` marks the saturated ones,
`chk` holds the check results C0 and C1 of each row (23 R477), `flips` the accumulator bits soft errors have flipped (row, column,
bit), `accBad` that a poisoned line entered the sums. `baseChk` goes with the base store. -/
structure ArrayState where
  cur : Plane
  shadow : Plane
  acc : List (List (BitVec 48))
  accInt : Bool
  accSat : List (List Bool)
  chk : List (BitVec 48 × BitVec 48)
  flips : List (Nat × Nat × Nat)
  accBad : Bool
  base : List (List (BitVec 48))
  baseInt : Bool
  baseSat : List (List Bool)
  baseChk : List (BitVec 48 × BitVec 48)
  planTw : Word
  planShadow : Word
  planValid : Bool
  planM : Nat
  planN : Nat
  planInt : Bool
  mq : List Nat
  queues : List RQueue
  deriving DecidableEq, Repr

/-- How an MMUL-family command starts its accumulators (06 R143). -/
inductive MStart where
  | zero | addend | cont
  deriving DecidableEq, Repr

/-- A drain of accumulators into a queue: queue, format, rounding, SAT, the channel-E draws (12 R322, 06 R161). -/
structure DrainSpec where
  q : Nat
  fmt : Nat
  rnd : Nat
  sat : Nat
  draws : List Nat
  deriving DecidableEq, Repr

/-- An MMUL-family command with its latched operands (12 R321, R322): tile numbers and resolved type words of Ta, Tc, Tm. -/
structure MulSpec where
  ta : Nat
  twA : Word
  start : MStart
  tc : Nat
  twC : Word
  tm : Option Nat
  twM : Word
  row0 : Nat
  m : Nat
  drain : Option DrainSpec
  deriving DecidableEq, Repr

/-- A matrix command (06 R140). -/
inductive MCmd where
  | mlds (t : Nat) (tw : Word)
  | mswap
  | mmul (c : MulSpec)
  | mdrain (d : DrainSpec)
  deriving DecidableEq, Repr

/-- How far a matrix command has come: the chunk that streams, whether the array has been released, slabs to push, the reference
cycle at which a push began to wait, and whether a check mismatch has been retried in this chunk (06 R143 to R148). -/
structure MProg where
  chunk : Nat
  streamed : Bool
  slabs : List Slab
  waitSince : Option Nat
  retried : Bool
  deriving DecidableEq, Repr

/-- A COPY as queued: the 32 engine registers, the two bases, the latched type words of its tile sides, its channel-E draws, the
follow-on operation it carries, and the element rows that have landed at halts (06 R150 to R158). -/
structure CopyCmd where
  ce : List Word
  srcBase : Word
  dstBase : Word
  twSrc : Word
  twDst : Word
  draws : List Nat
  follow : Option Nat
  rows : Nat := 0
  deriving DecidableEq, Repr

/-- The tile-engine forms (12 R312 to R317). -/
inductive TileForm where
  | reshape | transpose | cast
  | convert (rnd sat : Nat)
  | quantise (rnd : Nat)
  | dequantise (rnd sat : Nat)
  | prune (e : Nat)
  deriving DecidableEq, Repr

/-- A tile-engine form with its latched types (07 R114): destination, source, and for a prune the metadata type. -/
structure TileCmd where
  form : TileForm
  d : Nat
  a : Nat
  twD : Word
  twA : Word
  twE : Word
  draws : List Nat
  deriving DecidableEq, Repr

/-- The yoke commands (06 R163). -/
inductive YokeKind where
  | match_ (r : Nat) | merge | unmerge | retire
  deriving DecidableEq, Repr

/-- A yoke command: kind, the latched block bytes (13 R335) and the latched sizes. -/
structure YokeCmd where
  kind : YokeKind
  blk : List Byte
  sizes : List Nat
  deriving DecidableEq, Repr

/-- The read-modify-writes of counter cells (11 R291) and graph counters (13 R340). -/
inductive CellAct where
  | add (v : Word) | swap (v : Word) | cas (old new : Word) | min (v : Word) | max (v : Word) | load
  deriving DecidableEq, Repr

/-- A counter operation (11 R290 to R292): module (none for this one), cell, action, scope, order, and the reply once performed. -/
structure CounterCmd where
  module : Option Nat
  cell : Nat
  act : CellAct
  scope : Nat
  order : Option Nat
  performed : Bool
  reply : Option Word
  deriving DecidableEq, Repr

/-- A GDEC (`amount`) or GREAD (none) on counter `c` of the task's graph instance (13 R340). -/
structure GraphCmd where
  inst : Nat
  c : Nat
  amount : Option Nat
  performed : Bool
  reply : Option Word
  deriving DecidableEq, Repr

/-- What an operation in progress is. Control blocks are kept as the bytes latched at the commit (13 R334). -/
inductive OpKind where
  | copy (c : CopyCmd)
  | tile (t : TileCmd)
  | matrix (m : MCmd) (g : MProg)
  | yoke (y : YokeCmd)
  | counter (c : CounterCmd)
  | graph (g : GraphCmd)
  /-- `race` is the RC-04 that a half-landed copy gave the reading of the rows at the commit (07 R176; log entry 136). -/
  | dsend (blk : List Byte) (rows : List (List Nat)) (fmt : Nat) (bad : Bool) (batch : Nat) (race : Option FaultRec)
  | dflush (batch : Nat)
  | drecv (cell : Nat) (module : Option Nat) (bound : Word)
  | dcomb (blk : List Byte)
  | fsend (tw : Word) (bytes : List Byte) (dest : Word)
  | frecv (t : Nat) (tw : Word) (channel : Nat)
  | lgath (blk : List Byte) (n : Nat)
  | lpool (blk : List Byte) (op : Nat)
  | lhand (blk : List Byte) (bytes : List Byte) (held : Bool)
  deriving DecidableEq, Repr

/-- An operation in progress: its number, the team and context that issued it, its core, the tag it bears, the address of its
bundle, its kind, whether it has started, whether it is a follow-on still carried by its copy, its pending marks, and the operations
on cells that happen before it and that its writes wait for (07 R183, R186). -/
structure Op where
  id : Nat
  tid : Nat
  cid : Nat
  core : Nat
  tag : Option Nat
  addr : Nat
  kind : OpKind
  started : Bool
  carried : Bool
  marks : List Mark
  before : List Nat := []
  behind : List Nat := []
  deriving DecidableEq, Repr

/-- An entry of a destination table (13 R341). -/
structure Dest where
  module : Nat
  valid : Bool
  landWin : Nat
  outWin : Nat
  landOrg : Nat
  cap : Nat
  cntCell : Nat
  doneCell : Nat
  deriving DecidableEq, Repr

/-- A route of a DSEND on its way (13 R344): its key in the merge memory (window, row, expert), its destination as the table stood
when the DSEND completed, none where no valid entry has its number, the row's codes and format, whether a line it came from was
poisoned, and its log place. -/
structure Send where
  op : Nat
  batch : Nat
  key : Nat × Nat × Nat
  dest : Option Dest
  row : List Nat
  fmt : Nat
  bad : Bool
  logWin : Nat
  logRow : Nat
  logCol : Nat
  deriving DecidableEq, Repr

/-- A dispatch batch (13 R344, R345): its context, its sends already decided with their log words, the tables it used, its DSENDs
not yet complete, the faults met. -/
structure Batch where
  cid : Nat
  mem : List ((Nat × Nat × Nat) × Word)
  tables : List Nat
  faults : List FaultRec
  deriving DecidableEq, Repr

/-- A payload in a receiving cluster's buffer (13 R348). -/
structure Payload where
  member : Nat
  channel : Nat
  tw : Word
  bytes : List Byte
  before : List Nat := []
  deriving DecidableEq, Repr

/-- What a task belongs to (20 R431, R434): a launch, or a node of a graph instance; spawned tasks take their spawner's. -/
inductive Origin where
  | launch (l : Nat)
  | node (inst n : Nat)
  deriving DecidableEq, Repr

/-- The life of a task (01 R20 to R35). `stabling` is on its way to shadow storage, `wake` told by the number of its wake; `halting`
waits for its cores to halt before the pre-emption named, `soft` and `hard` are pre-empted, `ending` waits for its engine
operations to stop. -/
inductive TaskState where
  | waitLeases
  | queued
  | running
  | stabling (wake : Option Nat)
  | stabled (wake : Option Nat)
  | halting (hard : Bool)
  | soft
  | hard (evacuated : Bool)
  | ending
  deriving DecidableEq, Repr

/-- A task and its team (01 R16 to R37, 19 R410 to R413); a copy launch is kept as one without members, its copy in `xform` (20
R428). `redo` holds the abandoned YMATCH operations (01 R32), `evac` the frames of an evacuation (01 R34); `fresh` says that the
team has taken its slots and has tried no bundle since, `rounds` counts the scheduling rounds since its wake (01 R29); `seat` lists
the cores of its last placement (01 R12); `before` is what its core accesses so far come after, `done` its completed operations
still to be joined (07 R183). -/
structure Task where
  tid : Nat
  p : Nat
  seq : Nat
  size : Nat
  prio : Nat
  lookup : Option Nat
  origin : Origin
  parent : Option Nat
  xform : Option CopyCmd
  entry : Nat
  args : List Word
  inst : Nat
  ninst : Nat
  dims : List (Nat × Nat)
  tiles : Nat
  slice : Nat
  scratchBudget : Nat
  clusterBudget : Nat
  save : Nat
  nodata : Bool
  code : Code
  leases : List Lease
  state : TaskState
  placedAt : Nat
  fresh : Bool
  rounds : Nat
  cluster : Nat
  cores : List Nat
  seat : List Nat
  scratchBase : List Nat
  scratchSize : Nat
  clusterBase : Nat
  clusterSize : Nat
  bars : List Barrier
  stableWait : Word
  tags : AMap Nat
  tagFaults : List TagFault
  landed : List Landed
  saved : AMap ArrayState
  inbox : List Payload
  redo : List Nat
  before : List Nat
  done : List Finished
  evac : List Nat
  hold : Bool
  debugHalt : Option (Nat × Nat)
  fault : Option FaultRec
  deriving DecidableEq, Repr

/-- A line of a register cache (01 R38, R39): the register of a context it holds, whether it is dirty, when it was last used, its
power state. -/
structure CacheLine where
  holds : Option (Nat × Nat)
  dirty : Bool
  used : Nat
  power : LinePower
  deriving DecidableEq, Repr

/-- A core (01 R13): the contexts in its four slots, the current slot, bundles issued since it became current, whether it is due to
switch (01 R15), its array, the follow-on commands its copy engine holds, its tile cache of 16 lines and its run cache of 32 (01
R38; an unlisted line is empty and operating). -/
structure CoreSt where
  slots : List (Option Nat)
  cur : Nat
  cnt : Nat
  due : Bool
  arr : ArrayState
  held : List Nat
  tiles : AMap CacheLine
  runs : AMap CacheLine
  deriving DecidableEq, Repr

/-- A frame-map entry (21 R439) with the frame's access counter and NOTED bit (21 R443, R445). -/
structure FrameEntry where
  state : Nat
  owner : Nat
  pin : Bool
  moving : Bool
  pframe : Nat
  hostAddr : Nat
  cnt : Nat
  noted : Bool
  deriving DecidableEq, Repr

/-- The content of a completion entry, but for PHASE and SQHEAD, which are filled in as it is written (20 R430). -/
structure Entry where
  cmdid : Nat
  status : Nat
  ring : Nat
  reason : Nat
  seq : Nat
  graph : Nat
  version : Nat
  flt : Option FaultRec
  deriving DecidableEq, Repr

/-- A queue pair (20 R423 to R425, R430): registers, the device's tail and phase, the held entries, and the entries not yet
signalled with the reference cycle of the first. -/
structure QPair where
  sqbase : Word
  sqlog : Nat
  sqen : Bool
  sqcq : Nat
  cqbase : Word
  cqlog : Nat
  cqen : Bool
  ien : Bool
  vec : Nat
  ccount : Nat
  ctime : Nat
  sqtail : Nat
  cqhead : Nat
  sqhead : Nat
  cqtail : Nat
  sqerr : Bool
  cqerr : Bool
  phase : Bool
  held : List Entry
  unsignalled : Nat
  firstAt : Nat
  deriving DecidableEq, Repr

/-- A queue pair after module reset. -/
def QPair.reset : QPair := ⟨0, 0, false, 0, 0, 0, false, false, 0, 0, 0, 0, 0, 0, 0, false, false, true, [], 0, 0⟩

/-- A notification queue (21 R443 to R445). -/
structure NoteQueue where
  base : Word
  log : Nat
  en : Bool
  thresh : Nat
  head : Nat
  tail : Nat
  ovf : Bool
  phase : Bool
  deriving DecidableEq, Repr

/-- A notification queue after module reset. -/
def NoteQueue.reset : NoteQueue := ⟨0, 0, false, 0, 0, 0, false, true⟩

/-- A node of a sealed graph (20 R433): its record, its descriptor or control block as copied at the seal, its successors. -/
structure GraphNode where
  record : List Byte
  desc : List Byte
  succs : List Nat
  deriving DecidableEq, Repr

/-- A sealed version of a graph (20 R433, R435). -/
structure GraphVer where
  nodes : List GraphNode
  retired : Bool
  deriving DecidableEq, Repr

/-- An instance of a graph (20 R434, R435): its launch, version, counters, which nodes are dispatched and done, whether one has
faulted. -/
structure GraphInst where
  p : Nat
  launch : Nat
  handle : Nat
  version : Nat
  counters : List Nat
  dispatched : List Nat
  finished : List Nat
  faulted : Bool
  deriving DecidableEq, Repr

/-- A launch that has been fetched and has not had its final entry (20 R426, R431). -/
structure Launch where
  p : Nat
  ring : Nat
  cmdid : Nat
  kind : Nat
  seq : Nat
  handle : Nat
  version : Nat
  first : Option (FaultRec × Nat)
  deriving DecidableEq, Repr

/-- A paddock: its registers (22 R457), its window-table and counter frames, spare pool and evacuation frames (21 R438), the next
TASKSEQ (01 R482), its queue pairs and the one whose turn it is to be fetched (20 R423, R424), its graphs by handle and version,
its notification queue, whether the empty pool has been noticed (21 R447), its way masks (22 R463; 0xFFFF where unlisted), its
telemetry counters (22 R472), the energy not yet counted there, in microjoules, and the clusters offered to it in the last scheduling
round (22 R461). -/
structure Paddock where
  clmask : BitVec 48
  hbmShare : Nat
  hbmCap : Bool
  netShare : Nat
  netCap : Bool
  pwrShare : Nat
  ptop : Nat
  tsquant : Nat
  winMax : Nat
  qpMax : Nat
  en : Bool
  clErr : Bool
  valErr : Bool
  wt : Option Nat
  cells : AMap Nat
  nextSeq : Nat
  session : Bool
  qps : List QPair
  turn : Nat
  graphs : AMap (AMap GraphVer)
  spare : List Nat
  poolNoted : Bool
  evac : List Nat
  nq : NoteQueue
  ways : AMap Nat
  tele : List Nat
  energy : Nat
  offer : BitVec 48
  deriving DecidableEq, Repr

/-- The error log (23 R478, R479): ring registers, whether the pass's PHASE is 1, scrub periods, the eight event counts. -/
structure ErrLog where
  base : Word
  log : Nat
  en : Bool
  ien : Bool
  head : Nat
  tail : Nat
  phase : Bool
  ovf : Bool
  sramPer : Nat
  hbmPer : Nat
  counts : List Nat
  deriving DecidableEq, Repr

/-- The error log after module reset. -/
def ErrLog.reset : ErrLog := ⟨0, 0, false, false, 0, 0, true, false, 100, 1440, List.replicate 8 0⟩

/-- A transfer of a frame in progress (21 R442, R446, R447). -/
inductive XferKind where
  | migrate (q : Nat)
  | offload (h : Nat)
  | back (q : Nat)
  deriving DecidableEq, Repr

/-- A transfer with the control-ring slots whose commands it will finish. -/
structure Xfer where
  kind : XferKind
  slots : List Nat
  deriving DecidableEq, Repr

/-- The control ring (21 R436). -/
structure CtlRing where
  base : Word
  log : Nat
  en : Bool
  head : Nat
  tail : Nat
  deriving DecidableEq, Repr

/-- A pre-emption in progress: its task, kind, HOLD, and the control-ring slot of the command, if the driver asked (21 R448). -/
structure Preempt where
  tid : Nat
  hard : Bool
  slot : Option Nat
  deriving DecidableEq, Repr

/-- A window BAR slot: paddock, window, first tile (21 R438). -/
structure BarSlot where
  p : Nat
  win : Nat
  first : Nat
  deriving DecidableEq, Repr

/-- An arbiter: the credits of its round, the paddock served last, its last 1,023 grants, newest first (22 R465, R466). -/
structure Arb where
  credit : AMap Nat
  last : Nat
  recent : List Nat
  deriving DecidableEq, Repr

/-- A firmware image as verified (21 R454): its SVN, ADVANCE, body digest. -/
structure FwImage where
  svn : Nat
  advance : Bool
  digest : List Byte
  deriving DecidableEq, Repr

/-- Boot state (21 R453 to R456): STAGE, FAILKIND, the level SVNMIN has been raised to, the images staged and those that run. -/
structure Boot where
  stage : Nat
  failKind : Nat
  svn : Nat
  staged : AMap FwImage
  running : AMap FwImage
  deriving DecidableEq, Repr

/-- Power (22 R468 to R471): PLIMIT, the samples of the last millisecond, EMERG, how many samples in a row left PNOW below
PLIMIT − 100 W, the islands not at point 0, and how many steps of slowing stand against an island. -/
structure Power where
  plimit : Nat
  samples : List Nat
  emerg : Bool
  low : Nat
  points : AMap Nat
  steps : AMap Nat
  deriving DecidableEq, Repr

/-- A move of the agenda: what the machine does next, before any default (log entry 1). -/
inductive Move where
  | issue (core : Nat)
  | event (i : Instr)
  | tick (n : Nat)
  deriving DecidableEq, Repr

/-- How a word of the bundle in progress stopped: a fault, a block (01 R14), a stall (01 R13). -/
inductive Stop where
  | fault (f : FaultRec)
  | block (b : Block)
  | stall
  /-- The tile interlock: the incomplete operations that write the tile (04 R113). -/
  | stallOn (ops : List Nat)
  deriving DecidableEq, Repr

/-- The bundle in progress (log entry 6): whether its words are being run, its address and length in words, the index of the word
now run, how it stopped, the bindings pending (04 R106), the next PC a transfer named, with the targets to check (08 R199), its
weight, what its C word asks for at the commit (`close`: LCNT, the stage window and RRB after an LCLOSE, 09 R240), the number its
first operation would have, and the slabs its words have popped so far, by queue. -/
structure Bun where
  isOpen : Bool
  addr : Word
  len : Nat
  word : Nat
  stop : Option Stop
  pend : AMap Nat
  next : Option Word
  targets : List Word
  weight : Nat
  push : Option LoopEntry
  trav : Option Traverse
  pop : Bool
  tend : Bool
  trap : Option Nat
  tret : Bool
  close : Option (Word × Nat × BitVec 4) := none
  firstOp : Nat := 0
  pops : AMap Nat := []
  deriving DecidableEq, Repr

/-- No bundle in progress. -/
def Bun.closed : Bun where
  isOpen := false
  addr := 0
  len := 0
  word := 0
  stop := none
  pend := []
  next := none
  targets := []
  weight := 1
  push := none
  trav := none
  pop := false
  tend := false
  trap := none
  tret := false

/-- A line of the L2: its set and way, its line of HBM by number, the paddock it was filled for, whether HBM lacks its last write (22
R462 to R464). -/
structure L2Line where
  set : Nat
  way : Nat
  line : Nat
  owner : Nat
  dirty : Bool
  deriving DecidableEq, Repr

/-- The machine. `module` is this module's number in the Sausk domain; `focus` is where the pass over the cores stands: those from it on
have their turn still to come (log entry 1); `hostBad` lists the stretches of host addresses (first, one
past the last) at which an access fails; `cpl` is the completion of the last host read through a window BAR: its bytes and its EP
bit (23 R476). `sealer` names the unit that sealed a line, where it is not the line's owner; `badSeal` holds the check word of a line
whose data no longer match it (23 R473), `latent` the stored bits of a line that soft errors have flipped (23 R475). `l2` lists by
slice the lines held, the most recently used first (22 R464); `round` is the cycle of the last scheduling round, `unit` the
unit of the last device step that moved data, with its task. -/
structure State where
  module : Nat
  me : Nat
  focus : Nat
  agenda : List Move
  bun : Bun
  freeCtr : Nat
  nextOp : Nat
  nextTid : Nat
  cycle : Nat
  mem : Memory
  poison : List Nat
  badSeal : AMap Nat
  sealer : AMap Nat
  latent : AMap (List Nat)
  l2 : AMap (List L2Line)
  round : Nat
  unit : Nat × Nat
  ctxs : AMap Ctx
  tasks : AMap Task
  cores : AMap CoreSt
  ops : List Op
  yokes : AMap (List Nat)
  sends : List Send
  batches : AMap Batch
  frames : AMap FrameEntry
  paddocks : AMap Paddock
  elog : ErrLog
  irq : AMap Nat
  hostBad : List (Nat × Nat)
  launches : AMap Launch
  nextLaunch : Nat
  insts : AMap GraphInst
  nextInst : Nat
  ctl : CtlRing
  xfers : AMap Xfer
  preempts : List Preempt
  bars : AMap BarSlot
  holders : AMap (Nat × Nat)
  lookups : AMap Nat
  ready : Nat
  boot : Boot
  power : Power
  arbs : AMap Arb
  cpl : Option (List Byte × Bool)
  deriving DecidableEq, Repr

/-- Why the machine stops. Both are safe: the model stops where no step of the machine is described. -/
inductive Fault where
  /-- A word is run although the core in focus has no context: raised by the issue of a bundle. Safe. -/
  | noContext
  /-- The device step or host command named cannot occur in this state: raised by the meaning of that step. Safe. -/
  | notEnabled (event : String)
  deriving DecidableEq, Repr

/-- Why an instruction has no meaning. -/
inductive Refusal where
  /-- The instruction named has no meaning in this model yet: raised by its arm of exec. Safe. -/
  | notModelled (mnemonic : String)
  deriving DecidableEq, Repr

/-- An empty weight plane. -/
def Plane.empty : Plane := { tw := 0, img := [] }

/-- An empty result queue (06 R147). -/
def RQueue.empty : RQueue := ⟨[], false, false, false, 0⟩

/-- A matrix array with nothing loaded and nothing queued. -/
def ArrayState.empty : ArrayState :=
  ⟨.empty, .empty, [], false, [], [], [], false, [], false, [], [], 0, 0, false, 0, 0, false, [], List.replicate 8 .empty⟩

/-- A core with empty slots. -/
def CoreSt.empty : CoreSt := ⟨[none, none, none, none], 0, 0, false, .empty, [], [], []⟩

/-- A frame-map entry that is free. -/
def FrameEntry.free : FrameEntry := ⟨0, 0, false, false, 0, 0, 0, false⟩

/-- A paddock after module reset (22 R457). -/
def Paddock.reset : Paddock := ⟨0, 1, false, 1, false, 1, 0, 1000, 0, 0, false, false, false, none, [], 1, false,
  [.reset, .reset, .reset, .reset], 0, [], [], false, [], .reset, [], List.replicate 10 0, 0, 0⟩

/-- The machine right after module reset: no task, no operation, every memory as power-on leaves it. -/
def State.reset : State where
  module := 0
  me := 0
  focus := 0
  agenda := []
  bun := .closed
  freeCtr := 0
  nextOp := 1
  nextTid := 1
  cycle := 0
  mem := []
  poison := []
  badSeal := []
  sealer := []
  latent := []
  l2 := []
  round := 0
  unit := (0, 0)
  ctxs := []
  tasks := []
  cores := []
  ops := []
  yokes := []
  sends := []
  batches := []
  frames := []
  paddocks := []
  elog := .reset
  irq := []
  hostBad := []
  launches := []
  nextLaunch := 1
  insts := []
  nextInst := 1
  ctl := ⟨0, 0, false, 0, 0⟩
  xfers := []
  preempts := []
  bars := []
  holders := []
  lookups := []
  ready := 0
  boot := ⟨0, 0, 0, [], []⟩
  power := ⟨2600, [], false, 0, [], []⟩
  arbs := []
  cpl := none

end Sys2Proof.Machine
end

