-- ==== Sys2Proof/Machine/Ops.lean ====
section
/-! DEFINITION. Named operations over maps, memory, registers, in-flight results, pending marks; how a fault is built, how an
exception is taken and how TRET returns. -/
namespace Sys2Proof.Machine

/-! ## Finite maps -/

/-- The entry of `k`. -/
def amGet {α : Type} : AMap α → Nat → Option α
  | [], _ => none
  | (k', v) :: m, k => if k = k' then some v else amGet m k

/-- The map with `k` at `v`, keys kept rising. -/
def amSet {α : Type} : AMap α → Nat → α → AMap α
  | [], k, v => [(k, v)]
  | (k', v') :: m, k, v =>
    if k < k' then (k, v) :: (k', v') :: m
    else if k = k' then (k, v) :: m
    else (k', v') :: amSet m k v

/-- The map without `k`. -/
def amDel {α : Type} (m : AMap α) (k : Nat) : AMap α := m.filter fun e => e.1 != k

/-! ## Memory -/

/-- The byte at `a` (log entry 2: 0 where nothing is listed). -/
def memGet : Memory → Nat → Byte
  | [], _ => 0
  | (a', b) :: m, a => if a = a' then b else if a < a' then 0 else memGet m a

/-- The memory with byte `b` at `a`, in canonical form. -/
def memSet : Memory → Nat → Byte → Memory
  | [], a, b => if b = 0 then [] else [(a, b)]
  | (a', b') :: m, a, b =>
    if a < a' then (if b = 0 then (a', b') :: m else (a, b) :: (a', b') :: m)
    else if a = a' then (if b = 0 then m else (a, b) :: m)
    else (a', b') :: memSet m a b

/-- Canonical form: addresses strictly rising, no cell 0. -/
def Memory.wf : Memory → Bool
  | [] => true
  | [(_, b)] => b != 0
  | (a, b) :: (a', b') :: m => b != 0 && a < a' && Memory.wf ((a', b') :: m)

/-- `n` bytes from `a`. -/
def memRead (m : Memory) (a : Nat) : Nat → List Byte
  | 0 => []
  | n + 1 => memGet m a :: memRead m (a + 1) n

/-- The bytes `bs` written from `a` upward. -/
def memWrite (m : Memory) (a : Nat) : List Byte → Memory
  | [] => m
  | b :: bs => memWrite (memSet m a b) (a + 1) bs

/-- A little-endian number (00 R5). -/
def leNat : List Byte → Nat
  | [] => 0
  | b :: bs => b.toNat + 256 * leNat bs

/-- The `n` little-endian bytes of `v` (00 R5). -/
def natLe : Nat → Nat → List Byte
  | 0, _ => []
  | n + 1, v => BitVec.ofNat 8 v :: natLe n (v / 256)

/-- `n` bytes from `a` as a little-endian number. -/
def memNat (m : Memory) (a n : Nat) : Nat := leNat (memRead m a n)

/-- The `n` low bytes of `v` at `a`. -/
def memPut (m : Memory) (a n v : Nat) : Memory := memWrite m a (natLe n v)

/-- The cells of bytes laid from `a` on. -/
def layCells (a : Nat) : List Byte → Memory
  | [] => []
  | b :: bs => if b = 0 then layCells (a + 1) bs else (a, b) :: layCells (a + 1) bs

/-- The bytes `bs` laid from `a` on in one go. -/
def memLay (m : Memory) (a : Nat) (bs : List Byte) : Memory :=
  m.filter (fun e => e.1 < a) ++ layCells a bs ++ m.filter fun e => a + bs.length ≤ e.1

/-- Without the bytes from `a` to `a + n − 1`. -/
def memClear (m : Memory) (a n : Nat) : Memory := m.filter fun e => e.1 < a || a + n ≤ e.1

/-- `n` bytes copied from `a` to `b`. -/
def memCopy (m : Memory) (a b n : Nat) : Memory :=
  m.filter (fun e => e.1 < b) ++ (m.filter fun e => a ≤ e.1 && e.1 < a + n).map (fun e => (e.1 - a + b, e.2)) ++
    m.filter fun e => b + n ≤ e.1

/-! ## The places of the memories in the one address list (02 R42) -/

/-- Byte `o` of physical frame `q` of HBM. -/
def hbmAddr (q o : Nat) : Nat := q * 65536 + o

/-- The scratchpad of span `sp`. -/
def spanAddr (sp o : Nat) : Nat := 2 ^ 40 + sp * 25165824 + o

/-- The memory of cluster `cl`. -/
def clusterAddr (cl o : Nat) : Nat := 2 ^ 41 + cl * 6291456 + o

/-- The scratchpad of main core `c` (0 to 383). -/
def scratchAddr (c o : Nat) : Nat := 2 ^ 42 + c * 1572864 + o

/-- Lane slice `l` of main core `c`. -/
def laneAddr (c l o : Nat) : Nat := 2 ^ 43 + (c * 16 + l) * 8192 + o

/-- The local scratch of lookup core `k` (0 to 47). -/
def lookupAddr (k o : Nat) : Nat := 2 ^ 44 + k * 262144 + o

/-- The home of tile register `n` of context `cid` (04 R94). -/
def tileAddr (cid n o : Nat) : Nat := 2 ^ 65 + (cid * 16 + n) * 32768 + o

/-- The home of run register `n` of context `cid`: 6,272 bytes of a stretch of 8,192 (05 R117, R118). -/
def runAddr (cid n o : Nat) : Nat := 2 ^ 80 + (cid * 16 + n) * 8192 + o

/-- The stack region of context `cid` (09 R244). -/
def stackAddr (cid o : Nat) : Nat := 2 ^ 96 + cid * 8192 + o

/-- Host memory (20 R423). -/
def hostAddr (a : Nat) : Nat := 2 ^ 64 + a

/-- Byte `o` of the save region of a team on its core `j` (01 R25): from 0 the parts of the lane slices, from 2^18 the resume records,
from 2^20 the array's state (log entry 88). -/
def saveAddr (tid j o : Nat) : Nat := 2 ^ 128 + tid * 2 ^ 32 + j * 2 ^ 22 + o

/-- The scratch memory of a core, main or lookup. -/
def coreAddr (core o : Nat) : Nat := if core < 384 then scratchAddr core o else lookupAddr (core - 384) o

/-! ## The numbering of units (01 R10) -/

def clusterOf (core : Nat) : Nat := core / 8
def spanOf (core : Nat) : Nat := core / 64
def dieOf (core : Nat) : Nat := core / 192

/-! ## Access to the parts of the state -/

/-- A context at placement, but for what the placement gives (19 R408). -/
def Ctx.blank : Ctx where
  tid := 0
  member := 0
  core := 0
  slot := 0
  pc := 0
  x := Vector.replicate 64 0
  p := Vector.replicate 16 false
  d := Vector.replicate 16 none
  tw := Vector.replicate 16 0
  v := Vector.replicate 16 .empty
  ce := Vector.replicate 32 0
  mxRows := 0
  mxMd := 0
  trapvec := 0
  epc := 0
  cause := 0
  fdet := 0
  ftypeA := 0
  ftypeB := 0
  fcmd := 0
  fscr0 := 0
  fscr1 := 0
  rrb := 0
  lcnt := 0
  sdepth := 0
  sp := 8192
  inTrap := false
  loops := []
  trav := none
  rngctl := 0
  rngposc := 0
  rngpose := 0
  bidx := 0
  lastIdx := 0
  lastWeight := 0
  ecnt := 0
  inflight := []
  captured := none
  unready := []
  sliceBase := 0
  sliceSize := 0
  ended := false
  block := none
  tileStall := []
  batch := none
  damaged := []
  before := []
  behind := []

/-- A task with nothing declared. -/
def Task.blank : Task where
  tid := 0
  p := 0
  seq := 0
  size := 1
  prio := 0
  lookup := none
  origin := .launch 0
  parent := none
  xform := none
  entry := 0
  args := []
  inst := 0
  ninst := 1
  dims := []
  tiles := 0
  slice := 0
  scratchBudget := 0
  clusterBudget := 0
  save := 0
  nodata := false
  code := ⟨0, 0, 0, 0⟩
  leases := []
  state := .queued
  placedAt := 0
  fresh := false
  rounds := 0
  cluster := 0
  cores := []
  seat := []
  scratchBase := []
  scratchSize := 0
  clusterBase := 0
  clusterSize := 0
  bars := []
  stableWait := 0x4E20
  tags := []
  tagFaults := []
  landed := []
  saved := []
  inbox := []
  redo := []
  before := []
  done := []
  evac := []
  hold := false
  debugHalt := none
  fault := none

def State.ctxAt (s : State) (cid : Nat) : Ctx := (amGet s.ctxs cid).getD .blank
def State.taskAt (s : State) (tid : Nat) : Task := (amGet s.tasks tid).getD .blank
def State.coreAt (s : State) (c : Nat) : CoreSt := (amGet s.cores c).getD .empty
def State.paddockAt (s : State) (p : Nat) : Paddock := (amGet s.paddocks p).getD .reset
def State.frameAt (s : State) (f : Nat) : FrameEntry := (amGet s.frames f).getD .free

def State.setCtx (s : State) (cid : Nat) (c : Ctx) : State := { s with ctxs := amSet s.ctxs cid c }
def State.setTask (s : State) (tid : Nat) (t : Task) : State := { s with tasks := amSet s.tasks tid t }
def State.setCore (s : State) (c : Nat) (k : CoreSt) : State := { s with cores := amSet s.cores c k }
def State.setPaddock (s : State) (p : Nat) (k : Paddock) : State := { s with paddocks := amSet s.paddocks p k }
def State.setFrame (s : State) (f : Nat) (e : FrameEntry) : State := { s with frames := amSet s.frames f e }

/-- The context whose bundle is in issue. -/
def State.ctx (s : State) : Ctx := s.ctxAt s.me

/-- Its task. -/
def State.task (s : State) : Task := s.taskAt s.ctx.tid

def State.putCtx (s : State) (c : Ctx) : State := s.setCtx s.me c
def State.putTask (s : State) (t : Task) : State := s.setTask s.ctx.tid t
def State.modArr (s : State) (core : Nat) (f : ArrayState → ArrayState) : State :=
  s.setCore core { s.coreAt core with arr := f (s.coreAt core).arr }

/-- The members of a task, by context number (a context's number is 32 times its task's number plus the member). -/
def Task.cids (t : Task) : List Nat := (List.range t.size).map (t.tid * 32 + ·)

/-- Position of a core among the team's cores (01 R16). -/
def Task.coreIdx (t : Task) (core : Nat) : Nat := t.cores.idxOf core

/-! ## Registers (08 R205, 09 R221, R222) -/

/-- The physical register of scalar name `k` under the rotating base. -/
def physX (rrb : BitVec 4) (k : Nat) : Nat := if k < 48 then k else 48 + (k - 48 + rrb.toNat) % 16

/-- The value of physical register `n`; X0 reads 0. -/
def Ctx.xAt (c : Ctx) (n : Nat) : Word := if n = 0 then 0 else c.x.getD n 0

/-- The value of predicate `n`; P0 reads 1. -/
def Ctx.pAt (c : Ctx) (n : Nat) : Bool := if n = 0 then true else c.p.getD n false

def Ctx.twAt (c : Ctx) (n : Nat) : Word := c.tw.getD n 0
def Ctx.dAt (c : Ctx) (n : Nat) : Option Nat := c.d.getD n none
def Ctx.vAt (c : Ctx) (n : Nat) : VReg := c.v.getD n .empty
def Ctx.ceAt (c : Ctx) (n : Nat) : Word := c.ce.getD n 0

/-- A write of a CSR by number, the new value whole (13 R354). Registers that live elsewhere are not written here. -/
def Ctx.setCsr (c : Ctx) (n : Nat) (w : Word) : Ctx :=
  match n with
  | 0x001 => { c with trapvec := w &&& ~~~2 }
  | 0x002 => { c with epc := w }
  | 0x008 => { c with fscr0 := w }
  | 0x009 => { c with fscr1 := w }
  | 0x010 => { c with rrb := w.setWidth 4 }
  | 0x011 => { c with lcnt := w }
  | 0x012 => { c with sdepth := w.setWidth 4 }
  | 0x013 => { c with sp := w &&& 0x3FF8 }
  | 0x030 => { c with rngctl := (if w.extractLsb' 0 2 = 3 then (w &&& ~~~3) ||| (c.rngctl &&& 3) else w) &&& 0x3FFFFFF }
  | 0x031 => { c with rngposc := w &&& 0xFFFFFFFF }
  | 0x032 => { c with rngpose := w &&& 0xFFFFFFFF }
  | _ => c

/-- The CSRs of a context that a posted write reaches (09 R246). -/
def csrWritten (n : Nat) : Bool :=
  match n with
  | 0x001 | 0x002 | 0x008 | 0x009 | 0x010 | 0x011 | 0x012 | 0x013 | 0x030 | 0x031 | 0x032 => true
  | _ => false

/-- A register written is whole again: its parity is right (23 R480). -/
def Ctx.mend (c : Ctx) (n : Nat) : Ctx := { c with damaged := c.damaged.filter (· != n) }

/-- A result written to its register; X0 and P0 discard (09 R221). A later write of a register supersedes a reply still awaited. -/
def Ctx.apply (c : Ctx) : Result → Ctx
  | .x n w => if n = 0 then c else { c.mend n with x := c.x.setIfInBounds n w, unready := amDel c.unready n }
  | .xReply n op => if n = 0 then c else { c with unready := amSet c.unready n op }
  | .p n b => if n = 0 then c else { c.mend (64 + n) with p := c.p.setIfInBounds n b }
  | .v n r => { c with v := c.v.setIfInBounds n r }
  | .tw n w => { c with tw := c.tw.setIfInBounds n w }
  | .d n v => { c with d := c.d.setIfInBounds n v }
  | .csr n w => if csrWritten n then (c.setCsr n w).mend (80 + n) else c
  | .ce n w => { c with ce := c.ce.setIfInBounds n w }
  | .mx _ w => { c with mxRows := w &&& 0x3FFFF }

/-- In-flight results in order of point; among equal points, of issue. -/
def insertFlight (e : InFlight) : List InFlight → List InFlight
  | [] => [e]
  | f :: fs => if e.point < f.point then e :: f :: fs else f :: insertFlight e fs

/-- Every result whose point is at most `upto` is written, in order (08 R205). -/
def retireList (upto : Nat) : List InFlight → Ctx → Ctx
  | [], c => { c with inflight := [] }
  | f :: fs, c => if f.point ≤ upto then retireList upto fs (c.apply f.res) else { c with inflight := f :: fs }

def Ctx.retire (c : Ctx) (upto : Nat) : Ctx := retireList upto c.inflight c

/-- Every in-flight result written in order of point (13 R355: TRET waits for the handler's own). -/
def Ctx.flush (c : Ctx) : Ctx := { c.inflight.foldl (fun c f => c.apply f.res) c with inflight := [] }

/-- A result with latency `L` of the bundle in issue (08 R205). -/
def Ctx.post (c : Ctx) (L : Nat) (r : Result) : Ctx :=
  { c with inflight := insertFlight ⟨c.bidx + L, r⟩ c.inflight }

def State.post (s : State) (L : Nat) (r : Result) : State := s.putCtx (s.ctx.post L r)

/-- A write of scalar name `k`. -/
def State.wx (s : State) (L k : Nat) (w : Word) : State := s.post L (.x (physX s.ctx.rrb k) w)

/-- A write of predicate `k`. -/
def State.wp (s : State) (L k : Nat) (b : Bool) : State := s.post L (.p k b)

/-- A read of scalar name `k`; a register whose counter reply has not come stalls the bundle (11 R292). -/
def State.rx (s : State) (k : Nat) : Except Stop Word :=
  let n := physX s.ctx.rrb k
  match amGet s.ctx.unready n with
  | some _ => if n = 0 then .ok 0 else .error .stall
  | none => .ok (s.ctx.xAt n)

/-! ## Faults -/

/-- The fault classes in the order of 00 R8. -/
def FaultClass.code : FaultClass → Nat
  | .EN => 0 | .SH => 1 | .FM => 2 | .RN => 3 | .QU => 4 | .RC => 5 | .LS => 6 | .CP => 7 | .MD => 8 | .AC => 9
  | .FB => 10 | .PV => 11 | .TRAP => 12

/-- Whether a handler may take the fault (00 R8). -/
def FaultClass.recoverable : FaultClass → Bool
  | .SH | .FM | .RN | .QU | .RC | .MD | .TRAP => true
  | .EN | .LS | .CP | .AC | .FB | .PV => false

/-- A fault without detail. -/
def flt (c : FaultClass) (n : Nat) : Stop := .fault { cls := c, num := n }

/-- Check `ok`, else the fault. -/
def need (ok : Bool) (e : Stop) : Except Stop Unit := if ok then .ok () else .error e

/-- CAUSE (09 R248). -/
def FaultRec.causeWord (f : FaultRec) : Word :=
  BitVec.ofNat 64 (f.cls.code + 16 * f.num + 1024 * f.join.toNat + 2048 * (f.word % 8))

/-- Detail word of an encoding fault (08 R202). -/
def enDetail (word other reg rfile : Nat) (orig : Option FaultRec) (addr : Nat) : Word :=
  BitVec.ofNat 64 (word % 8 + 8 * (other % 8) + 64 * (reg % 64) + 4096 * (rfile % 8) +
    (match orig with
     | none => 0
     | some f => 32768 + 65536 * f.cls.code + 1048576 * (f.num % 64)) + 4294967296 * (addr % 4294967296))

/-- An encoding fault of word `word`, the detail naming `addr`. -/
def enFault (num word addr : Nat) : FaultRec :=
  { cls := .EN, num := num, word := word, fdet := enDetail word 0 0 7 none addr }

/-- Detail word of a shape fault (04 R109). -/
def shDetail (field extIdx : Nat) (didx didx2 : Option Nat) (opa opb : Nat) : Word :=
  BitVec.ofNat 64 (field + 8 * extIdx + (match didx with | none => 0 | some d => 32 + 64 * d) +
    1024 * didx2.getD 0 + 16384 * opa + 262144 * opb)

/-- A shape fault: the number is FIELD + 1 (04 R109). -/
def shFault (field extIdx : Nat) (didx didx2 : Option Nat) (opa opb : Nat) (ta tb : Word) : Stop :=
  .fault { cls := .SH, num := field + 1, fdet := shDetail field extIdx didx didx2 opa opb, ftypeA := ta, ftypeB := tb }

/-- Detail word of a run fault (05 R128). -/
def rnDetail (row rows need chainA chainB opnd : Nat) : Word :=
  BitVec.ofNat 64 (row + 16 * rows + 1048576 * min need 255 + 268435456 * min chainA 8191 + 2199023255552 * min chainB 8191 +
    18014398509481984 * opnd)

def rnFault (num row rows need chainA chainB opnd : Nat) : Stop :=
  .fault { cls := .RN, num := num, fdet := rnDetail row rows need chainA chainB opnd }

/-! ## Pending marks (07 R177 to R180) -/

/-- A stretch of lines or blocks an access or an operation touches. -/
structure Touch where
  space : MarkSpace
  lo : Nat
  hi : Nat
  win : Nat := 0
  deriving DecidableEq, Repr

/-- A mark that is met: the mark, the tag and core of the operation that set it, the first common line. -/
structure Met where
  mark : Mark
  tag : Nat
  core : Nat
  line : Nat
  deriving DecidableEq, Repr

/-- The marks that hand-offs on their way set on the lines of the receiving team, from the fork on (07 R177; 13 R353): the block names
the task in bytes 0 to 2, the member in 4, the tag in 5, the offset in 8 to 11 and the length in 16 to 19. -/
def State.comingMarks (s : State) (t : Task) : List (Mark × Nat × Nat) :=
  s.ops.filterMap fun o =>
    match o.kind with
    | .lhand b _ _ =>
      let f (i n : Nat) : Nat := leNat ((b.drop i).take n)
      if (s.taskAt o.tid).p == t.p && f 0 3 == t.seq && f 4 1 < t.size then
        some (⟨.cluster t.cluster, f 8 4 / 64, (f 8 4 + f 16 4 - 1) / 64, true, false, 0⟩, f 5 1,
          t.cores.getD (f 4 1 % max 1 t.cores.length) 0)
      else none
    | _ => none

/-- The marks of the task's incomplete operations, of hand-offs to it, and of the landings it has not joined. -/
def State.marks (s : State) (tid : Nat) : List (Mark × Nat × Nat) :=
  let t := s.taskAt tid
  (s.ops.filter fun o => o.tid == tid).flatMap (fun o => o.marks.map fun m => (m, o.tag.getD 0, o.core)) ++ s.comingMarks t ++
    t.landed.map (fun l => (l.mark, l.tag, l.core))

/-- The met mark with the lowest line among those that satisfy `p`; on a tie the earliest operation. -/
def meet (p : Mark → Bool) (t : Touch) : List (Mark × Nat × Nat) → Option Met
  | [] => none
  | (m, tag, core) :: ms =>
    let rest := meet p t ms
    if m.space == t.space && p m && m.lo ≤ t.hi && t.lo ≤ m.hi then
      let line := max m.lo t.lo
      match rest with
      | some r => if r.line < line then some r else some ⟨m, tag, core, line⟩
      | none => some ⟨m, tag, core, line⟩
    else rest

/-- PLACE of 07 R180 for line `line`. -/
def placeOf (m : Mark) (line : Nat) : Nat × Nat :=
  match m.space with
  | .scratch _ => (0, line * 64)
  | .cluster _ => (1, line * 64)
  | .frame _ _ => (2, m.win % 4096 + line % 256 * 4096)
  | .tile _ n => (3, n)

/-- The race fault with the detail word of 07 R180. -/
def rcFault (num : Nat) (r : Met) : FaultRec :=
  let (sp, place) := placeOf r.mark r.line
  { cls := .RC, num := num,
    fdet := BitVec.ofNat 64 (sp + 8 * (r.tag % 64) + 512 * (r.core % 8) + 4096 * r.mark.write.toNat +
      8192 * (place % 4294967296)) }

/-- The first of a list of touches that meets a mark satisfying `p`. -/
def meetAny (p : Mark → Bool) (ms : List (Mark × Nat × Nat)) : List Touch → Option Met
  | [] => none
  | t :: ts =>
    match meet p t ms with
    | some r => some r
    | none => meetAny p ms ts

/-- The marks that a word of the bundle in issue can meet: not those of the operations its own bundle forks, which are set at the
commit (07 R174, R177). -/
def State.marksSet (s : State) (tid : Nat) : List (Mark × Nat × Nat) :=
  ({ s with ops := s.ops.filter fun o => o.id < s.bun.firstOp } : State).marks tid

/-- RC-01 and RC-02 for a core access that reads the lines of `rd` and writes those of `wr` (07 R178, R179). -/
def State.raceCore (s : State) (rd wr : List Touch) : Except Stop Unit :=
  let ms := s.marksSet s.ctx.tid
  match meetAny (·.write) ms (rd ++ wr) with
  | some r => .error (.fault (rcFault 1 r))
  | none =>
    match meetAny (fun m => !m.write) ms wr with
    | some r => .error (.fault (rcFault 2 r))
    | none => .ok ()

/-- RC-03 for an engine operation's on-chip footprint (07 R178). -/
def State.raceEngine (s : State) (rd wr : List Touch) : Except Stop Unit :=
  let ms := s.marksSet s.ctx.tid
  match meetAny (·.write) ms (rd ++ wr) with
  | some r => .error (.fault (rcFault 3 r))
  | none =>
    match meetAny (fun m => !m.write) ms wr with
    | some r => .error (.fault (rcFault 3 r))
    | none => .ok ()

/-! ## The regions of the memory slots (02 R43, R44) -/

/-- A region: base address, size, and the space its marks name. -/
structure Region where
  base : Nat
  size : Nat
  space : MarkSpace
  deriving DecidableEq, Repr

/-- The team's scratch region on `core`; on a lookup core, local scratch. -/
def State.scratchOf (s : State) (tid core : Nat) : Region :=
  let t := s.taskAt tid
  ⟨coreAddr core (t.scratchBase.getD (t.coreIdx core) 0), t.scratchSize, .scratch core⟩

/-- The team's cluster-memory region. -/
def State.clusterOf (s : State) (tid : Nat) : Region :=
  let t := s.taskAt tid
  ⟨clusterAddr t.cluster t.clusterBase, t.clusterSize, .cluster t.cluster⟩

/-- The region of the memory slot: MB reaches cluster memory, MA the scratchpad. -/
def State.slotRegion (s : State) (mb : Bool) : Region :=
  if mb then s.clusterOf s.ctx.tid else s.scratchOf s.ctx.tid s.ctx.core

/-- The lines of `n` bytes from offset `o` of a region. -/
def Region.touch (r : Region) (o n : Nat) : Touch := ⟨r.space, o / 64, (o + n - 1) / 64, 0⟩

/-- The alignment and bounds checks of 11 R283 on a signed offset; the offset when they pass. -/
def Region.check (r : Region) (addr : Int) (n align : Nat) : Except Stop Nat := do
  need (addr % (align : Int) == 0) (flt .FM 8)
  need (0 ≤ addr && addr + n ≤ r.size) (flt .LS 3)
  return addr.toNat

/-! ## Integrity (23 R473 to R479) -/

/-- The 64-byte lines of `n` bytes from `a`. -/
def linesOf (a n : Nat) : List Nat :=
  if n = 0 then [] else (List.range ((a + n - 1) / 64 - a / 64 + 1)).map (a / 64 + ·)

/-- An interrupt message of a PCI Express function: the number of messages sent for it rises. -/
def State.interrupt (s : State) (fn vec : Nat) : State :=
  let k := fn * 2048 + vec
  { s with irq := amSet s.irq k ((amGet s.irq k).getD 0 + 1) }

/-- A core as 21 R452 numbers units. -/
def unitOfCore (core : Nat) : Nat := if core < 384 then core else 528 + (core - 384)

/-- The unit that now acts, and the task it acts for: a core in its bundle, else what a device step names. -/
def State.actor (s : State) : Nat × Nat := if s.bun.isOpen then (unitOfCore s.ctx.core, s.ctx.tid) else s.unit

/-- A device step acts with unit `u`, for task `tid` where there is one. -/
def State.actAs (s : State) (u tid : Nat) : State := { s with unit := (u, tid) }

/-- A step of an operation acts with the unit of its core, for its task. -/
def State.actFor (s : State) (o : Op) : State := s.actAs (unitOfCore o.core) o.tid

/-- The context whose tile home, run home or stack region holds address `a`. -/
def homeCid (a : Nat) : Option Nat :=
  if 2 ^ 65 ≤ a && a < 2 ^ 80 then some ((a - 2 ^ 65) / 524288)
  else if 2 ^ 80 ≤ a && a < 2 ^ 96 then some ((a - 2 ^ 80) / 131072)
  else if 2 ^ 96 ≤ a && a < 2 ^ 112 then some ((a - 2 ^ 96) / 8192)
  else none

/-- The copy of line `line` of HBM that an L2 slice holds, as a line of its own that can err (23 R475; log entry 133). -/
def l2Copy (slice line : Nat) : Nat := 2 ^ 140 + slice * 2 ^ 40 + line

/-- The same for line `k` of what line `n` of a core's tile cache, or line `n - 16` of its run cache, holds. -/
def cacheCopy (core n k : Nat) : Nat := 2 ^ 141 + (core * 64 + n) * 512 + k

/-- Line `k` of a context in its core's shadow storage. -/
def shadowLine (cid k : Nat) : Nat := 2 ^ 142 + cid * 64 + k

/-- The home line of line `k` of what a register-cache line holds. -/
def State.homeLine (s : State) (core n k : Nat) : Option Nat :=
  let c := s.coreAt core
  let e := if n < 16 then amGet c.tiles n else amGet c.runs (n - 16)
  (e.bind (·.holds)).map fun r => (if n < 16 then tileAddr r.1 r.2 0 else runAddr r.1 r.2 0) / 64 + k

/-- The line whose data a line holds: of a copy, the line it is a copy of. -/
def State.dataLine (s : State) (l : Nat) : Nat :=
  if 2 ^ 142 ≤ l then l
  else if 2 ^ 141 ≤ l then
    let k := l - 2 ^ 141
    (s.homeLine (k / 32768) (k / 512 % 64) (k % 512)).getD l
  else if 2 ^ 140 ≤ l then (l - 2 ^ 140) % 2 ^ 40
  else l

/-- The unit that owns a line, numbered as in 21 R452 (log entry 12 for host lines and homes). -/
def State.unitOfLine (s : State) (l : Nat) : Nat :=
  let a := l * 64
  if 2 ^ 142 ≤ l then unitOfCore (s.ctxAt ((l - 2 ^ 142) / 64)).core
  else if 2 ^ 141 ≤ l then unitOfCore ((l - 2 ^ 141) / 32768)
  else if 2 ^ 140 ≤ l then 432 + (l - 2 ^ 140) / 2 ^ 40
  else if a < 2 ^ 40 then 576 + a / 65536 / 393216
  else if a < 2 ^ 41 then 600 + (a - 2 ^ 40) / 25165824
  else if a < 2 ^ 42 then 384 + (a - 2 ^ 41) / 6291456
  else if a < 2 ^ 43 then (a - 2 ^ 42) / 1572864
  else if a < 2 ^ 44 then (a - 2 ^ 43) / 131072
  else if a < 2 ^ 64 then 528 + (a - 2 ^ 44) / 262144
  else if a < 2 ^ 65 then 638
  else
    match homeCid a with
    | some cid => unitOfCore (s.ctxAt cid).core
    | none => unitOfCore ((s.taskAt ((a - 2 ^ 128) / 2 ^ 32)).seat.getD ((a - 2 ^ 128) % 2 ^ 32 / 2 ^ 22) 0)

/-- The task whose region or home holds address `a` of a memory on the module. -/
def State.taskOfAddr (s : State) (a : Nat) : Option Task :=
  let find (f : Task → Bool) : Option Task := (s.tasks.find? fun e => f e.2).map (·.2)
  let within (o b n : Nat) : Bool := b ≤ o && o < b + n
  if a < 2 ^ 41 then none
  else if a < 2 ^ 42 then
    let o := a - 2 ^ 41
    find fun t => !t.cores.isEmpty && t.cluster == o / 6291456 && within (o % 6291456) t.clusterBase t.clusterSize
  else if a < 2 ^ 43 then
    let o := a - 2 ^ 42
    let c := o / 1572864
    find fun t => t.cores.contains c && within (o % 1572864) (t.scratchBase.getD (t.coreIdx c) 0) t.scratchSize
  else if a < 2 ^ 44 then
    ((s.coreAt ((a - 2 ^ 43) / 131072)).slots.findSome? id).map fun cid => s.taskAt (s.ctxAt cid).tid
  else if a < 2 ^ 64 then find fun t => t.cores.contains (384 + (a - 2 ^ 44) / 262144)
  else
    match homeCid a with
    | some cid => amGet s.tasks (cid / 32)
    | none =>
      if 2 ^ 148 ≤ a then amGet s.tasks ((a - 2 ^ 148) / 4096 / 32)
      else if a < 2 ^ 128 then none
      else amGet s.tasks ((a - 2 ^ 128) / 2 ^ 32)

/-- PADDOCK of a line: the owner of its frame of HBM, or of the task whose region it lies in; 0xFF where there is none (23 R478). -/
def State.lineOwner (s : State) (l : Nat) : Nat :=
  if l * 64 < 2 ^ 40 then
    match s.frames.find? fun e => e.2.state == 1 && e.2.pframe == l / 1024 with
    | some e => e.2.owner
    | none => 255
  else ((s.taskOfAddr (l * 64)).map (·.p)).getD 255

/-- TASKSEQ of an event that concerns a line: of the task that meets it, else of the task whose line it is, else 0 (23 R478). -/
def State.lineSeq (s : State) (l : Nat) : Nat :=
  match amGet s.tasks s.actor.2 with
  | some t => t.seq
  | none => ((s.taskOfAddr (l * 64)).map (·.seq)).getD 0

/-- PLACE of a line (23 R478): the physical address in HBM, else the address within its memory; where in its scratchpad a home, a stack
region or a save area lies is not held, so its PLACE is free (log entry 115). -/
def placeOfLine (l : Nat) : Nat :=
  let a := l * 64
  if a < 2 ^ 40 then a
  else if a < 2 ^ 41 then (a - 2 ^ 40) % 25165824
  else if a < 2 ^ 42 then (a - 2 ^ 41) % 6291456
  else if a < 2 ^ 43 then (a - 2 ^ 42) % 1572864
  else if a < 2 ^ 44 then (a - 2 ^ 43) % 131072
  else if a < 2 ^ 64 then (a - 2 ^ 44) % 262144
  else if a < 2 ^ 65 then a - 2 ^ 64
  else Config.freePlace (2 ^ 72 + l)

/-- An event of the error log (23 R478): its count, and its entry where the ring has room. -/
def State.logEvent (s : State) (kind place p src seq origin : Nat) : State :=
  let e := s.elog
  let idx : Nat := if kind ≤ 7 then kind - 1 else 8
  let e := { e with counts := e.counts.set idx ((e.counts.getD idx 0 + 1) % 2 ^ 64) }
  if !e.en then { s with elog := e }
  else if (e.tail + 1) % 2 ^ e.log = e.head then { s with elog := { e with ovf := true } }
  else
    let bs := natLe 2 kind ++ natLe 1 e.phase.toNat ++ natLe 1 p ++ natLe 4 src ++ natLe 8 place ++ natLe 4 seq ++
      natLe 4 origin ++ natLe 8 s.cycle
    let t := (e.tail + 1) % 2 ^ e.log
    let s := { s with
      mem := memWrite s.mem (hostAddr (e.base.toNat + 32 * e.tail)) bs
      elog := { e with tail := t, phase := if t = 0 then !e.phase else e.phase } }
    if e.ien then s.interrupt 0 1 else s

/-- An event of the unit that acts which concerns no line: PLACE is free (log entry 115). -/
def State.logUnplaced (s : State) (kind : Nat) : State :=
  let t := s.taskAt s.actor.2
  { s with freeCtr := s.freeCtr + 1 }.logEvent kind (Config.freePlace s.freeCtr) t.p s.actor.1 t.seq 0

/-- An event of a line, met by the unit that acts; `origin` for KIND 5. -/
def State.logLine (s : State) (kind line origin : Nat) : State :=
  let d := s.dataLine line
  s.logEvent kind (placeOfLine d) (s.lineOwner d) s.actor.1 (s.lineSeq d) origin

/-- CRC-16 of bytes (23 R473): polynomial 0x1021, initial value 0xFFFF, bit 7 of each byte first, no final XOR. -/
def crc16 (bs : List Byte) : Nat :=
  bs.foldl (fun c b => (List.range 8).foldl (fun c i =>
    let top := c / 32768 % 2
    let c := c * 2 % 65536
    if (top == 1) != b.toNat.testBit (7 - i) then c ^^^ 0x1021 else c) c) 0xFFFF

/-- The check word that the bytes of a line have. -/
def lineCrc (m : Memory) (l : Nat) : Nat := crc16 (memRead m (l * 64) 64)

/-- The check word that travels with a line: the one kept where the data no longer match it. -/
def State.checkWord (s : State) (l : Nat) : Nat := (amGet s.badSeal l).getD (lineCrc s.mem l)

/-- The unit that sealed a line. -/
def State.sealerOf (s : State) (l : Nat) : Nat := (amGet s.sealer l).getD (s.unitOfLine l)

/-- The line lies in HBM, whose lines are protected whole (23 R475). -/
def inHbm (l : Nat) : Bool := l * 64 < 2 ^ 40

/-- The flipped bits by code word (23 R475): a line of HBM is one, elsewhere each 64-bit word is. -/
def codeWords (l : Nat) (bits : List Nat) : List (List Nat) :=
  (if inHbm l then [bits] else (List.range 8).map fun w => bits.filter (· / 64 == w)).filter (!·.isEmpty)

/-- Whether the flipped bits of a code word can be corrected (23 R475): in HBM all in one 16-bit symbol, elsewhere one bit. -/
def correctable (l : Nat) (bits : List Nat) : Bool :=
  if inHbm l then bits.all fun b => b / 16 == bits.headD 0 / 16 else bits.length ≤ 1

/-- The flipped bits that a read of the words `seen` of a line meets: in HBM it reads the line whole. -/
def seenBits (l : Nat) (seen : Nat → Bool) (bits : List Nat) : List Nat := bits.filter fun b => inHbm l || seen (b / 64)

/-- A code word with an error is read: corrected and logged, or the line is poisoned and that is logged, once (23 R475, R476; log
entry 135). -/
def State.settleCode (s : State) (l : Nat) (bits : List Nat) : State :=
  if correctable l bits then s.logLine (if inHbm l then 2 else 1) l 0
  else if s.poison.contains (s.dataLine l) then s
  else { s with poison := s.dataLine l :: s.poison }.logLine (if inHbm l then 4 else 3) l 0

/-- A read of the words `seen` of a line settles the errors it finds, code word by code word (23 R475). -/
def State.settleWords (s : State) (l : Nat) (seen : Nat → Bool) : State :=
  match amGet s.latent l with
  | none => s
  | some bits =>
    let left := bits.filter fun b => !(seenBits l seen bits).contains b
    let s := { s with latent := if left.isEmpty then amDel s.latent l else amSet s.latent l left }
    (codeWords l (seenBits l seen bits)).foldl (fun s bs => s.settleCode l bs) s

/-- A read of the whole line. -/
def State.settleLine (s : State) (l : Nat) : State := s.settleWords l fun _ => true

/-- Word `w` of line `l` has a byte among the `n` from `a`. -/
def inRead (a n l w : Nat) : Bool := l * 64 + 8 * w < a + n && a < l * 64 + 8 * w + 8

/-- A verified read of a line by an engine or at an exit: a check-word mismatch poisons it (23 R474). -/
def State.verifyLine (s : State) (l : Nat) : State :=
  let s := s.settleLine l
  if (amGet s.badSeal l).isSome then
    { s with badSeal := amDel s.badSeal l, poison := l :: s.poison.filter (· != l) }.logLine 5 l (s.sealerOf l)
  else s

/-- Nothing is wrong with any line. -/
def State.sound (s : State) : Bool := s.poison.isEmpty && s.badSeal.isEmpty && s.latent.isEmpty

/-- KIND 8 for every poisoned line among those read (23 R478). -/
def State.logPoison (s : State) (ls : List Nat) : State :=
  (ls.filter s.poison.contains).foldl (fun s l => s.logLine 8 l 0) s

/-- Input lines verified; whether any of them is poisoned (23 R474, R476). -/
def State.verify (s : State) (ls : List Nat) : State × Bool :=
  if s.sound then (s, false)
  else
    let s := ls.foldl State.verifyLine s
    (s.logPoison ls, ls.any s.poison.contains)

/-- The lines written poisoned. -/
def State.poisonLines (s : State) (ls : List Nat) : State :=
  { s with poison := ls ++ s.poison.filter fun l => !ls.contains l }

/-- Whether a line is poisoned, or a read of its words `seen` finds an error that cannot be corrected. -/
def State.lineBad (s : State) (l : Nat) (seen : Nat → Bool) : Bool :=
  s.poison.contains l || (amGet s.latent l).any fun bits => (codeWords l (seenBits l seen bits)).any fun bs => !correctable l bs

/-- A core read of `n` bytes from `a`: AC-02 on a poisoned line; correctable errors of the words read are corrected. -/
def State.readCheck (s : State) (a n : Nat) : Except Stop State :=
  if s.sound then .ok s
  else
    match (linesOf a n).find? fun l => s.lineBad l (inRead a n l) with
    | some l => .error (.fault { cls := .AC, num := 2, aux := l, part := (List.range 8).filter (inRead a n l) })
    | none => .ok ((linesOf a n).foldl (fun s l => s.settleWords l (inRead a n l)) s)

/-- A register-cache fill from a home (23 R474, R476): AC-02 on a poisoned line or one whose check word does not match. -/
def State.fillCheck (s : State) (a n : Nat) : Except Stop State :=
  if s.sound then .ok s
  else
    match (linesOf a n).find? fun l => s.lineBad l (fun _ => true) || (amGet s.badSeal l).isSome with
    | some l => .error (.fault { cls := .AC, num := 2, aux := l })
    | none => .ok ((linesOf a n).foldl State.settleLine s)

/-- The unit that acts has sealed the lines; the owner of a line is not listed. -/
def State.sealLines (s : State) (ls : List Nat) : State :=
  { s with sealer := ls.foldl (fun m l => if s.unitOfLine l = s.actor.1 then amDel m l else amSet m l s.actor.1) s.sealer }

/-- A line is itself, or is a copy in the L2 of, one of `ls`. -/
def holdsOf (ls : List Nat) (l : Nat) : Bool :=
  ls.contains (if 2 ^ 140 ≤ l && l < 2 ^ 141 then (l - 2 ^ 140) % 2 ^ 40 else l)

/-- The copies of a line in the L2 that hold errors are read. -/
def State.settleCopies (s : State) (l : Nat) : State :=
  ((s.latent.map (·.1)).filter fun k => k != l && holdsOf [l] k).foldl State.settleLine s

/-- Lines written whole carry no poison, no stale seal, no error any more (23 R476). -/
def State.freshen (s : State) (whole : List Nat) : State :=
  { s with
    poison := s.poison.filter (!whole.contains ·)
    badSeal := s.badSeal.filter fun e => !whole.contains e.1
    latent := s.latent.filter fun e => !holdsOf whole e.1 }

/-- The lines, of those that are not sound, which writes of stretches of bits (first bit, length) cover whole. -/
def State.covered (s : State) (bits : List (Nat × Nat)) : List Nat :=
  ((s.poison ++ s.badSeal.map (·.1) ++ s.latent.map (·.1)).map s.dataLine).dedup.filter fun l =>
    (List.range 512).all fun k => bits.any fun b => b.1 ≤ 512 * l + k && 512 * l + k < b.1 + b.2

/-- An engine operation is about to write these bits: the lines it writes whole are fresh (23 R473, R476). -/
def State.overwrite (s : State) (bits : List (Nat × Nat)) : State := if s.sound then s else s.freshen (s.covered bits)

/-- A fault met while blocks are read: one that cannot be read is poisoned (03 R93). -/
def State.spoil (s : State) (f : FaultRec) : State × FaultRec := (s.poisonLines f.lines, { f with lines := [] })

/-- What writing `n` bytes from `a` does to the lines' poison and seals: a whole line is fresh; a line written in part is verified
first, and poisoned where its check word does not match (23 R473, R476). -/
def State.reseal (s : State) (a n : Nat) : State :=
  let ls := linesOf a n
  if s.sound then s.sealLines ls
  else
    let whole := ls.filter fun l => a ≤ l * 64 && l * 64 + 64 ≤ a + n
    let s := (ls.filter fun l => !whole.contains l).foldl (fun s l => (s.settleCopies l).verifyLine l) s
    (s.freshen whole).sealLines ls

/-- The lines of a stretch moved to another: what `keep` lists of the source, laid over the target. -/
def moveLines (a b n : Nat) (ls : List Nat) : List Nat :=
  (ls.filter fun l => l * 64 < b || b + n ≤ l * 64) ++
    (ls.filter fun l => a ≤ l * 64 && l * 64 < a + n).map fun l => (l * 64 - a + b) / 64

/-- The same of a map by line. -/
def moveSeals {α : Type} (a b n : Nat) (m : AMap α) : AMap α :=
  (m.filter fun e => a ≤ e.1 * 64 && e.1 * 64 < a + n).foldl (fun r e => amSet r ((e.1 * 64 - a + b) / 64) e.2)
    (m.filter fun e => e.1 * 64 < b || b + n ≤ e.1 * 64)

/-- Who sealed the lines of the target once those of the source have been moved there: a check word keeps its origin (23 R473). -/
def State.movedSealers (s : State) (a b n : Nat) : AMap Nat :=
  let listed := s.sealer.filter fun e => a ≤ e.1 * 64 && e.1 * 64 < a + n
  let moved := (linesOf a n).filterMap fun l =>
    let u := (amGet listed l).getD (s.unitOfLine l)
    let k := (l * 64 - a + b) / 64
    if s.unitOfLine k = u then none else some (k, u)
  s.sealer.filter (fun e => e.1 * 64 < b) ++ moved ++ s.sealer.filter fun e => b + n ≤ e.1 * 64

/-- Whole lines read and written as they stand, with their poison and their check words; what is written into HBM is verified (23
R473 to R476). -/
def State.copyLines (s : State) (a b n : Nat) : State :=
  let s := if s.sound then s
    else (linesOf a n).foldl (fun s l => if b < 2 ^ 40 then s.verifyLine l else s.settleLine l) s
  { s with
    mem := memCopy s.mem a b n
    sealer := s.movedSealers a b n
    poison := moveLines a b n s.poison
    badSeal := moveSeals a b n s.badSeal
    latent := s.latent.filter fun e => e.1 * 64 < b || b + n ≤ e.1 * 64 }

/-- Whole lines set to 0. -/
def State.wipe (s : State) (a n : Nat) : State :=
  let out (l : Nat) : Bool := l * 64 < a || a + n ≤ l * 64
  { s with
    mem := memClear s.mem a n
    poison := s.poison.filter out
    badSeal := s.badSeal.filter fun e => out e.1
    sealer := s.sealer.filter fun e => out e.1
    latent := s.latent.filter fun e => out e.1 }

/-- Bytes written by a core or an engine. -/
def State.store (s : State) (a : Nat) (bs : List Byte) : State :=
  let s := s.reseal a bs.length
  { s with mem := memWrite s.mem a bs }

/-- The same for a long stretch. -/
def State.lay (s : State) (a : Nat) (bs : List Byte) : State :=
  let s := s.reseal a bs.length
  { s with mem := memLay s.mem a bs }

end Sys2Proof.Machine
end

