-- ==== Sys2Proof/Machine/Flags.lean ====
section
/-! DEFINITION. What the scalar words compute: integer results, the conditions of the compares, predicate logic (09 R223 to R226).
The machine has no flag register: predicates P1 to P15 take the place of flags. -/
namespace Sys2Proof.Machine

/-- A 64-bit value as a number. -/
def word (n : Nat) : Word := BitVec.ofNat 64 n

/-- Bits 127 to 64 of the signed product (09 R223). -/
def mulHigh (a b : Word) : Word := BitVec.ofInt 64 (a.toInt * b.toInt / (2 : Int) ^ 64)

/-- Bits 127 to 64 of the unsigned product. -/
def mulHighU (a b : Word) : Word := word (a.toNat * b.toNat / 2 ^ 64)

def shiftLeft (a b : Word) : Word := a <<< (b.toNat % 64)
def shiftRight (a b : Word) : Word := a >>> (b.toNat % 64)
def shiftArith (a b : Word) : Word := a.sshiftRight (b.toNat % 64)

/-- Leading zero bits (09 R223): 64 for 0. -/
def leadingZeros (a : Word) : Word := word (if a = 0 then 64 else 63 - a.toNat.log2)

/-- Number of 1 bits among the low `n`. -/
def countOnes (a : Nat) : Nat → Nat
  | 0 => 0
  | n + 1 => countOnes a n + (a.testBit n).toNat

def popCount (a : Word) : Word := word (countOnes a.toNat 64)

def minS (a b : Word) : Word := if a.slt b then a else b
def maxS (a b : Word) : Word := if a.slt b then b else a
def minU (a b : Word) : Word := if a.ult b then a else b
def maxU (a b : Word) : Word := if a.ult b then b else a

/-- The field a BFX or BFI takes from b: its lowest bit and the bit above its highest (09 R224). -/
def fieldOf (b : Word) : Nat × Nat :=
  let pos := b.toNat % 64
  (pos, min (pos + (b.toNat / 256 % 64 + 1)) 64)

/-- BFX (09 R224). -/
def bitExtract (a b : Word) : Word :=
  let (pos, top) := fieldOf b
  word (a.toNat / 2 ^ pos % 2 ^ (top - pos))

/-- BFI (09 R224): the field of `d` replaced by the low bits of `a`. -/
def bitInsert (d a b : Word) : Word :=
  let (pos, top) := fieldOf b
  let mask := word ((2 ^ (top - pos) - 1) * 2 ^ pos)
  (d &&& ~~~mask) ||| ((a <<< pos) &&& mask)

/-- The index of the lowest 1 bit at or above `64 − n`, or 64 (09 R242, FFRDY). -/
def lowestOne (a : Nat) : Nat → Nat
  | 0 => 64
  | n + 1 => if a.testBit (63 - n) then 63 - n else lowestOne a n

end Sys2Proof.Machine
end

