-- ==== Sys2Proof/Machine/Compress.lean ====
section
/-! DEFINITION. The bit-plane codec of compressed windows and tiles (03 R91 to R93). -/
namespace Sys2Proof.Machine

/-- Whether a format is coded in 16-bit words (03 R91). -/
def wide16 (fmt : Nat) : Bool := fmt == 0x04 || fmt == 0x05 || fmt == 0x0A || fmt == 0x0B || fmt == 0x10

/-- The words of a block, `k` bytes each. -/
def blockWords (k : Nat) (bs : List Byte) : List Nat :=
  (List.range (256 / k)).map fun i => leNat ((bs.drop (k * i)).take k)

/-- The deltas d[i] (03 R91). -/
def deltas (w : Nat) : Nat → List Nat → List Nat
  | _, [] => []
  | prev, x :: xs => (x + 2 ^ w - prev) % 2 ^ w :: deltas w x xs

/-- plane[j]: bit j of every delta. -/
def planeOf (ds : List Nat) (j : Nat) : List Bool := ds.map (·.testBit j)

/-- plane'[W−1] down to plane'[0]. -/
def codedPlanes (w : Nat) (ds : List Nat) : List (List Bool) :=
  (List.range w).reverse.map fun j =>
    if j + 1 = w then planeOf ds j else List.zipWith xor (planeOf ds j) (planeOf ds (j + 1))

/-- `n` bits of `v`, most significant first. -/
def msbBits : Nat → Nat → List Bool
  | 0, _ => []
  | n + 1, v => v.testBit n :: msbBits n v

def isZeroPlane (p : List Bool) : Bool := p.all (!·)

/-- The number of zero planes at the head. -/
def zeroRun : List (List Bool) → Nat
  | [] => 0
  | p :: ps => if isZeroPlane p then zeroRun ps + 1 else 0

/-- The bit stream of the planes (03 R92); `idx` is the width of an index field, `fuel` at least the number of planes. -/
def codePlanes (idx : Nat) : Nat → List (List Bool) → List Bool
  | 0, _ => []
  | _, [] => []
  | fuel + 1, p :: ps =>
    let l := zeroRun (p :: ps)
    if 2 ≤ l then
      let n := min l 33
      [true, false] ++ msbBits 5 (n - 2) ++ codePlanes idx fuel ((p :: ps).drop n)
    else if l = 1 then false :: codePlanes idx fuel ps
    else if p.count true = 1 then [true, true, false] ++ msbBits idx (p.idxOf true) ++ codePlanes idx fuel ps
    else [true, true, true] ++ p ++ codePlanes idx fuel ps

/-- Stream bits as bytes, bit 0 of a byte first, padded with 0 to `n` bytes. -/
def packBits : Nat → List Bool → List Byte
  | 0, _ => []
  | n + 1, bs =>
    BitVec.ofNat 8 ((List.range 8).foldl (fun a i => if bs.getD i false then a + 2 ^ i else a) 0) :: packBits n (bs.drop 8)

/-- The bits of bytes, bit 0 of a byte first. -/
def unpackBits (bs : List Byte) : List Bool := bs.flatMap fun b => (List.range 8).map (b.toNat.testBit ·)

/-- A block coded: its class and its stored bytes (03 R93). -/
def compressBlock (fmt : Nat) (bs : List Byte) : Nat × List Byte :=
  let k := if wide16 fmt then 2 else 4
  let idx := if wide16 fmt then 7 else 6
  let st := codePlanes idx (8 * k + 1) (codedPlanes (8 * k) (deltas (8 * k) 0 (blockWords k bs)))
  let n := st.length
  if n ≤ 256 then (0, packBits 32 st)
  else if n ≤ 512 then (1, packBits 64 st)
  else if n ≤ 1024 then (2, packBits 128 st)
  else if n ≤ 1536 then (3, packBits 192 st)
  else (4, bs)

/-- A field, most significant bit first, with the rest; none where the stream ends. -/
def takeMsb : Nat → Nat → List Bool → Option (Nat × List Bool)
  | 0, a, bs => some (a, bs)
  | _ + 1, _, [] => none
  | n + 1, a, b :: bs => takeMsb n (2 * a + b.toNat) bs

/-- `need` planes read from a stream, or none where it is malformed (03 R93). -/
def readPlanes (n idx : Nat) : Nat → Nat → List Bool → Option (List (List Bool))
  | _, 0, _ => some []
  | 0, _, _ => none
  | fuel + 1, need, bs =>
    let zero := List.replicate n false
    match bs with
    | false :: r => (readPlanes n idx fuel (need - 1) r).map (zero :: ·)
    | true :: false :: r =>
      match takeMsb 5 0 r with
      | none => none
      | some (v, r') =>
        if need < v + 2 then none
        else (readPlanes n idx fuel (need - (v + 2)) r').map (List.replicate (v + 2) zero ++ ·)
    | true :: true :: false :: r =>
      match takeMsb idx 0 r with
      | none => none
      | some (v, r') => (readPlanes n idx fuel (need - 1) r').map (zero.set v true :: ·)
    | true :: true :: true :: r =>
      if r.length < n then none
      else (readPlanes n idx fuel (need - 1) (r.drop n)).map (r.take n :: ·)
    | _ => none

/-- plane[W−1] down to plane[0] from plane' (03 R93). -/
def undoXor : List Bool → List (List Bool) → List (List Bool)
  | _, [] => []
  | up, p :: ps =>
    let q := List.zipWith xor p up
    q :: undoXor q ps

/-- Words rebuilt from deltas. -/
def undelta (w : Nat) : Nat → List Nat → List Nat
  | _, [] => []
  | prev, d :: ds =>
    let x := (prev + d) % 2 ^ w
    x :: undelta w x ds

/-- A block expanded: class 0 to 3 decoded, class 4 raw; 5 to 7 is CP-07, a malformed stream CP-08 (06 R159). -/
def expandBlock (fmt cls : Nat) (bs : List Byte) : Except Nat (List Byte) :=
  if cls = 4 then .ok bs
  else if 4 < cls then .error 7
  else
    let k := if wide16 fmt then 2 else 4
    let n := 256 / k
    let size := if cls = 0 then 32 else if cls = 1 then 64 else if cls = 2 then 128 else 192
    match readPlanes n (if wide16 fmt then 7 else 6) (8 * k + 1) (8 * k) (unpackBits (bs.take size)) with
    | none => .error 8
    | some ps =>
      let planes := undoXor (List.replicate n false) ps
      let ds := (List.range n).map fun i =>
        (planes.foldl (fun a p => 2 * a + (p.getD i false).toNat) 0)
      .ok ((undelta (8 * k) 0 ds).flatMap (natLe k))

end Sys2Proof.Machine
end

