-- ==== Sys2Proof/Machine/Num.lean ====
section
/-! DEFINITION. Numbers: exact values, decoding of every format, rounding into every format under the modes of 03 R78, exact
sums and products (03 R67 to R90). -/
namespace Sys2Proof.Machine

/-- A value: NaN (not-a-real included), an infinity, or the exact number (−1)^neg · m · 2^e. With `st` the magnitude lies strictly
between m and m + 1 units: a result that has been cut off with bits to spare. -/
inductive Num where
  | nan
  | inf (neg : Bool)
  | fin (neg : Bool) (m : Nat) (e : Int) (st : Bool)
  deriving DecidableEq, Repr

def Num.zero : Num := .fin false 0 0 false
def Num.ofNat (n : Nat) : Num := .fin false n 0 false
def Num.ofInt (i : Int) : Num := .fin (i < 0) i.natAbs 0 false

def Num.isNan : Num → Bool
  | .nan => true
  | _ => false

def Num.isInf : Num → Bool
  | .inf _ => true
  | _ => false

def Num.isZero : Num → Bool
  | .fin _ m _ st => m == 0 && !st
  | _ => false

def Num.sign : Num → Bool
  | .nan => false
  | .inf n => n
  | .fin n _ _ _ => n

def Num.neg : Num → Num
  | .nan => .nan
  | .inf n => .inf (!n)
  | .fin n m e st => .fin (!n) m e st

def Num.abs : Num → Num
  | .nan => .nan
  | .inf _ => .inf false
  | .fin _ m e st => .fin false m e st

/-- `m` in units of 2^(e − lo): the mantissa scaled down to the common exponent `lo ≤ e`. -/
def scaleTo (m : Nat) (e lo : Int) : Nat := m * 2 ^ (e - lo).toNat

/-- Whether |x| < |y| for finite magnitudes without cut. -/
def magLt (m1 : Nat) (e1 : Int) (m2 : Nat) (e2 : Int) : Bool :=
  let lo := min e1 e2
  scaleTo m1 e1 lo < scaleTo m2 e2 lo

/-- The signed integer of a finite value at exponent `lo`. -/
def signedAt (neg : Bool) (m : Nat) (e lo : Int) : Int :=
  if neg then -(scaleTo m e lo : Int) else (scaleTo m e lo : Int)

/-- x < y on numbers, −0 below +0 when `zs` (05 R129), NaN never. -/
def Num.lt (zs : Bool) : Num → Num → Bool
  | .nan, _ => false
  | _, .nan => false
  | .inf a, .inf b => a && !b
  | .inf a, _ => a
  | _, .inf b => !b
  | .fin a m e _, .fin b n f _ =>
    let lo := min e f
    let x := signedAt a m e lo
    let y := signedAt b n f lo
    x < y || (zs && m == 0 && n == 0 && a && !b)

/-- Equality of numbers: +0 = −0, NaN equals nothing. -/
def Num.eqv (x y : Num) : Bool := !x.isNan && !y.isNan && !x.lt false y && !y.lt false x

/-- The exact product (03 R83). -/
def Num.mul : Num → Num → Num
  | .nan, _ => .nan
  | _, .nan => .nan
  | .inf a, .inf b => .inf (a != b)
  | .inf a, .fin b m _ _ => if m = 0 then .nan else .inf (a != b)
  | .fin a m _ _, .inf b => if m = 0 then .nan else .inf (a != b)
  | .fin a m e s, .fin b n f t => .fin (a != b) (m * n) (e + f) (s || t)

/-- exact_sum (03 R85): NaN and infinities first, then the exact sum; an exact zero is −0 when every term is −0. -/
def exactSum (xs : List Num) : Num :=
  if xs.any Num.isNan then .nan
  else
    let pos := xs.any fun x => x.isInf && !x.sign
    let ng := xs.any fun x => x.isInf && x.sign
    if pos && ng then .nan
    else if pos then .inf false
    else if ng then .inf true
    else
      let lo := xs.foldl (fun l x => match x with | .fin _ _ e _ => min l e | _ => l) 0
      let tot := xs.foldl (fun t x => match x with | .fin n m e _ => t + signedAt n m e lo | _ => t) (0 : Int)
      if tot = 0 then .fin (!xs.isEmpty && xs.all fun x => x.isZero && x.sign) 0 0 false
      else .fin (tot < 0) tot.natAbs lo false

/-- IEEE sum of two numbers, exact (03 R72 for the sign of zero). -/
def Num.add (x y : Num) : Num := exactSum [x, y]

/-- The quotient, cut off after 100 bits (03 R72; a zero divisor as IEEE 754 has it). -/
def Num.div : Num → Num → Num
  | .nan, _ => .nan
  | _, .nan => .nan
  | .inf _, .inf _ => .nan
  | .inf a, .fin b _ _ _ => .inf (a != b)
  | .fin a _ _ _, .inf b => .fin (a != b) 0 0 false
  | .fin a m e _, .fin b n f _ =>
    if n = 0 then (if m = 0 then .nan else .inf (a != b))
    else if m = 0 then .fin (a != b) 0 0 false
    else
      let sh := 100 + n.log2
      let q := m * 2 ^ sh / n
      .fin (a != b) q (e - f - sh) (m * 2 ^ sh % n != 0)

/-- floor of the square root, by bits from `k` downward. -/
def sqrtBits (n : Nat) : Nat → Nat → Nat
  | 0, r => r
  | k + 1, r => if (r + 2 ^ k) * (r + 2 ^ k) ≤ n then sqrtBits n k (r + 2 ^ k) else sqrtBits n k r

/-- The integer square root. -/
def isqrt (n : Nat) : Nat := sqrtBits n (n.log2 / 2 + 1) 0

/-- The square root, cut off with bits to spare; negative numbers give NaN, −0 gives −0. -/
def Num.sqrt : Num → Num
  | .nan => .nan
  | .inf n => if n then .nan else .inf false
  | .fin n m e st =>
    if m = 0 then .fin n 0 0 false
    else if n then .nan
    else
      let sh : Nat := if e % 2 = 0 then 200 else 201
      let r := isqrt (m * 2 ^ sh)
      .fin false r ((e - sh) / 2) (st || r * r != m * 2 ^ sh)

/-! ## Rounding -/

/-- Round the magnitude m · 2^e (cut when `st`) to a whole number of units 2^q. Modes: 0 RNE, 1 RSTO with 16 bits `u`, 2 RTZ
(03 R78, R79). -/
def roundUnits (m : Nat) (e : Int) (st : Bool) (q : Int) (mode u : Nat) : Nat :=
  if q ≤ e then m * 2 ^ (e - q).toNat
  else
    let sh := (q - e).toNat
    let n := m / 2 ^ sh
    let rem := m % 2 ^ sh
    match mode with
    | 0 =>
      let half := 2 ^ (sh - 1)
      if half < rem || (rem == half && (st || n % 2 == 1)) then n + 1 else n
    | 1 => if u < rem * 65536 / 2 ^ sh then n + 1 else n
    | _ => n

/-- A binary floating-point format: precision, exponent of its smallest unit, exponent bits. -/
structure BinFmt where
  p : Nat
  qmin : Int
  eb : Nat
  deriving DecidableEq, Repr

def fp32 : BinFmt := ⟨24, -149, 8⟩
def fp16 : BinFmt := ⟨11, -24, 5⟩
def bf16 : BinFmt := ⟨8, -133, 8⟩
def acc48 : BinFmt := ⟨39, -292, 9⟩

/-- Code of +Inf. -/
def BinFmt.infCode (f : BinFmt) : Nat := (2 ^ f.eb - 1) * 2 ^ (f.p - 1)

/-- The canonical NaN (03 R72). -/
def BinFmt.nanCode (f : BinFmt) : Nat := f.infCode + 2 ^ (f.p - 2)

/-- The sign bit. -/
def BinFmt.signBit (f : BinFmt) : Nat := 2 ^ (f.p - 1 + f.eb)

/-- The value of a code (03 R71, R76). -/
def BinFmt.decode (f : BinFmt) (code : Nat) : Num :=
  let s := code / f.signBit % 2 == 1
  let ex := code / 2 ^ (f.p - 1) % 2 ^ f.eb
  let fr := code % 2 ^ (f.p - 1)
  if ex = 2 ^ f.eb - 1 then (if fr = 0 then .inf s else .nan)
  else if ex = 0 then .fin s fr f.qmin false
  else .fin s (2 ^ (f.p - 1) + fr) (f.qmin + (ex - 1 : Nat)) false

/-- Magnitude code of m · 2^e under `mode`, infinity on overflow; the code counts up through subnormals and exponents. -/
def BinFmt.roundMag (f : BinFmt) (m : Nat) (e : Int) (st : Bool) (mode u : Nat) : Nat :=
  let q := max ((m.log2 : Int) + e - (f.p - 1 : Nat)) f.qmin
  let c := (q - f.qmin).toNat * 2 ^ (f.p - 1) + roundUnits m e st q mode u
  if f.infCode ≤ c then f.infCode else c

/-- The code of a value rounded into the format: `sat` is the overflow control bit (03 R78). -/
def BinFmt.encode (f : BinFmt) (mode : Nat) (sat : Bool) (u : Nat) : Num → Nat
  | .nan => f.nanCode
  | .inf s => (if s then f.signBit else 0) + (if sat then f.infCode - 1 else f.infCode)
  | .fin s m e st =>
    let sg := if s then f.signBit else 0
    if m = 0 then sg
    else
      let lo := f.roundMag m e st 2 0
      if f.infCode ≤ lo + 1 && mode != 2 then
        let c := f.roundMag m e st 0 0
        sg + (if f.infCode ≤ c then (if sat then f.infCode - 1 else f.infCode) else c)
      else
        let c := f.roundMag m e st mode u
        sg + (if f.infCode ≤ c then f.infCode - 1 else c)

/-! ## Tapered formats (03 R73 to R75) -/

/-- Length of the run of bits equal to `b` from bit `w − 1` of `m` downward. -/
def leadRun (m : Nat) (b : Bool) : Nat → Nat
  | 0 => 0
  | w + 1 => if m.testBit w == b then leadRun m b w + 1 else 0

/-- decode_tapered (03 R73). -/
def decodeTapered (n code : Nat) : Num :=
  let w := n - 1
  let s := code.testBit w
  let m := code % 2 ^ w
  if m = 0 then .fin s 0 0 false
  else if m = 2 ^ w - 1 then .nan
  else
    let b := m.testBit (w - 1)
    let l := leadRun m b w
    let k : Int := if b then (l : Int) - 1 else -(l : Int)
    let restLen := w - l - 1
    let rest := m % 2 ^ restLen
    if restLen = 0 then .fin s 1 (2 * k) false
    else
      let e : Int := if rest.testBit (restLen - 1) then 1 else 0
      let fl := restLen - 1
      .fin s (2 ^ fl + rest % 2 ^ fl) (2 * k + e - fl) false

/-- log2 of the largest value: 1,024 for T8, 64 for T6. -/
def taperedTop (n : Nat) : Int := if n = 8 then 10 else 6

/-- log2 of the smallest: 2^−12 and 2^−8. -/
def taperedLow (n : Nat) : Int := if n = 8 then -12 else -8

/-- encode_tapered (03 R75). -/
def encodeTapered (n mode u : Nat) : Num → Nat
  | .nan => 2 ^ (n - 1) - 1
  | .inf s => (if s then 2 ^ (n - 1) else 0) + (2 ^ (n - 1) - 2)
  | .fin s m e st =>
    let sg := if s then 2 ^ (n - 1) else 0
    if m = 0 then sg
    else if !magLt m e 1 (taperedTop n) then sg + (2 ^ (n - 1) - 2)
    else if magLt m e 1 (taperedLow n) || (!magLt 1 (taperedLow n) m e && !st) then sg + 1
    else
      let fl := m.log2
      let p : Int := (fl : Int) + e
      let k := p / 2
      let eb := (p - 2 * k).toNat
      let (rv, rl) := if 0 ≤ k then (2 ^ (k.toNat + 2) - 2, k.toNat + 2) else (1, (-k).toNat + 1)
      let z := ((rv * 2 + eb) * 2 ^ fl + m % 2 ^ fl) * 2 ^ n
      let zl := rl + 1 + fl + n
      let cut := zl - (n - 1)
      let c := z / 2 ^ cut
      let guard := z.testBit (cut - 1)
      let sticky := z % 2 ^ (cut - 1) != 0 || st
      match mode with
      | 0 => sg + (if guard && (sticky || c % 2 == 1) then c + 1 else c)
      | 1 =>
        match decodeTapered n c, decodeTapered n (c + 1) with
        | .fin _ lm le _, .fin _ hm he _ =>
          let lo := min e (min le he)
          let x := scaleTo m e lo
          let l := scaleTo lm le lo
          let h := scaleTo hm he lo
          sg + (if u < (x - l) * 65536 / (h - l) then c + 1 else c)
        | _, _ => sg + c
      | _ => sg + c

/-! ## Integers (03 R70) -/

/-- A value rounded to an integer and clamped to lo .. hi; NaN gives 0. -/
def toIntSat (lo hi : Int) (mode u : Nat) : Num → Int
  | .nan => 0
  | .inf s => if s then lo else hi
  | .fin s m e st =>
    let top := if s then lo.natAbs else hi.natAbs
    let md := if mode = 1 && !magLt m e top 0 then 0 else mode
    let n := roundUnits m e st 0 md u
    let i : Int := if s then -(n : Int) else n
    max lo (min hi i)

/-- The low `w` bits of an integer as a code. -/
def intCode (w : Nat) (i : Int) : Nat := (i % (2 : Int) ^ w).toNat

/-- A two's-complement code of `w` bits. -/
def codeInt (w c : Nat) : Int :=
  let c := c % 2 ^ w
  if c < 2 ^ (w - 1) then c else (c : Int) - (2 : Int) ^ w

/-! ## Every format (03 R67) -/

/-- Storage bits of a format; 0 for a reserved code. -/
def storageBits : Nat → Nat
  | 0x00 => 4 | 0x01 => 4 | 0x02 => 8 | 0x03 => 8 | 0x04 => 16 | 0x05 => 16 | 0x06 => 32 | 0x07 => 32 | 0x08 => 64
  | 0x09 => 32 | 0x0A => 16 | 0x0B => 16 | 0x0C => 8 | 0x0D => 8 | 0x0E => 64 | 0x0F => 8 | 0x10 => 16
  | _ => 0

/-- The storage bits of an element as they are written: those of its container that hold no part of the code are 0, or copies of
bit 47 (03 R68). -/
def containerBits (fmt code : Nat) : Nat :=
  match fmt with
  | 0x08 => code % 2 ^ 48 + (if code.testBit 47 then 0xFFFF * 2 ^ 48 else 0)
  | 0x0D => code % 64
  | 0x0E => code % 2 ^ 48
  | 0x10 => code % 4096
  | _ => code

/-- Whether a block scale is allowed (03 R67). -/
def scalable (f : Nat) : Bool := f == 0x00 || f == 0x02 || f == 0x0C || f == 0x0D

/-- Whether the format is an integer, with its width and signedness. -/
def intFormat : Nat → Option (Nat × Bool)
  | 0x00 => some (4, true) | 0x01 => some (4, false) | 0x02 => some (8, true) | 0x03 => some (8, false)
  | 0x04 => some (16, true) | 0x05 => some (16, false) | 0x06 => some (32, true) | 0x07 => some (32, false)
  | 0x08 => some (48, true)
  | _ => none

/-- The value of an element's storage bits; SC8 and META3 have no number and read as their codes. -/
def decodeFmt (f code : Nat) : Num :=
  match intFormat f with
  | some (w, true) => .ofInt (codeInt w code)
  | some (w, false) => .ofNat (code % 2 ^ w)
  | none =>
    match f with
    | 0x09 => fp32.decode (code % 2 ^ 32)
    | 0x0A => fp16.decode (code % 2 ^ 16)
    | 0x0B => bf16.decode (code % 2 ^ 16)
    | 0x0C => decodeTapered 8 (code % 256)
    | 0x0D => decodeTapered 6 (code % 64)
    | 0x0E => acc48.decode (code % 2 ^ 48)
    | _ => .ofNat code

/-- The range of an integer format. -/
def intRange (w : Nat) (signed : Bool) : Int × Int :=
  if signed then (-((2 : Int) ^ (w - 1)), (2 : Int) ^ (w - 1) - 1) else (0, (2 : Int) ^ w - 1)

/-- The storage bits of a value converted into a format (03 R68, R70, R75, R78). -/
def encodeFmt (f mode : Nat) (sat : Bool) (u : Nat) (x : Num) : Nat :=
  match intFormat f with
  | some (w, sg) =>
    let (lo, hi) := intRange w sg
    intCode (if f = 0x08 then 64 else w) (toIntSat lo hi mode u x)
  | none =>
    match f with
    | 0x09 => fp32.encode mode sat u x
    | 0x0A => fp16.encode mode sat u x
    | 0x0B => bf16.encode mode sat u x
    | 0x0C => encodeTapered 8 mode u x
    | 0x0D => encodeTapered 6 mode u x
    | 0x0E => acc48.encode 0 false 0 x
    | _ => 0

/-- Whether a drain conversion saturates (06 R147): the magnitude passes the target's largest and that largest is the result, or
an integer target clamps from below. -/
def drainSaturates (f mode : Nat) (sat : Bool) (x : Num) : Bool :=
  match intFormat f with
  | some (w, sg) =>
    let (lo, hi) := intRange w sg
    match x with
    | .nan => false
    | .inf _ => true
    | _ => (Num.ofInt hi).lt false x || x.lt false (.ofInt lo)
  | none =>
    match f with
    | 0x09 | 0x0A | 0x0B =>
      let b := if f = 0x09 then fp32 else if f = 0x0A then fp16 else bf16
      let top := b.decode (b.infCode - 1)
      match x with
      | .nan => false
      | .inf _ => sat
      | _ => top.lt false x.abs && (sat || mode == 2)
    | 0x0C | 0x0D =>
      let top := Num.fin false 1 (taperedTop (if f = 0x0C then 8 else 6)) false
      match x with
      | .nan => false
      | .inf _ => true
      | _ => top.lt false x.abs
    | _ => false

/-- The scale of an SC8 code 0x01 to 0xFE, applied exactly (03 R80). -/
def scaleBy (e : Nat) (x : Num) : Num :=
  if e = 0 then .zero
  else if e = 255 then .nan
  else x.mul (.fin false 1 ((e : Int) - 127) false)

/-! ## FP32 arithmetic -/

/-- Round to FP32 under RNE and read back: the value of one rounding. -/
def rne32 (x : Num) : Num := fp32.decode (fp32.encode 0 false 0 x)

/-- Round to ACC48 (03 R76). -/
def rneAcc (x : Num) : Num := acc48.decode (acc48.encode 0 false 0 x)

end Sys2Proof.Machine
end

