-- ==== Sys2Proof/Machine/Windows.lean ====
section
/-! DEFINITION. Windows: descriptor, tile table, frame map, from coordinates to a place, and the reading and writing of one
element (02 R50 to R55); the code image, fetched through a window (20 R427). -/
namespace Sys2Proof.Machine

/-- A well-formed window descriptor (02 R50, R51). -/
structure WinDesc where
  p : Nat
  num : Nat
  tw : Word
  fmt : Nat
  geom : Nat
  rank : Nat
  rd : Bool
  wr : Bool
  compressed : Bool
  tlog : List Nat
  span : Option Nat
  ext : List Nat
  ttFrame : Nat
  ttOff : Nat
  tiles : Nat
  deriving DecidableEq, Repr

/-- `hi − lo + 1` bits of `w` from bit `lo`. -/
def bits (w lo n : Nat) : Nat := w / 2 ^ lo % 2 ^ n

/-- Address of byte 0 of a resident frame (21 R439). -/
def State.framePlace (s : State) (f : Nat) : Option Nat :=
  let e := s.frameAt f
  if e.state = 1 then some (hbmAddr e.pframe 0) else none

/-- ceil(a / 2^k). -/
def ceilShift (a k : Nat) : Nat := (a + 2 ^ k - 1) / 2 ^ k

/-- The product of a list. -/
def listProd (l : List Nat) : Nat := l.foldl (· * ·) 1

/-- log2 of the one tile extent of a rank-1 window. Its field has four bits (02 R50), and a 64 KiB tile (02 R51) of 8-bit or
4-bit elements needs 16 or 17, as the windows of 16 R381 and 20 R427 have it: the field then holds the low four bits.
DESIGN CHOICE, unsafe (log 14). -/
def tlogOne (fmt field : Nat) : Nat := if 2 ^ field * storageBits fmt < 524288 then field + 16 else field

/-- The descriptor of window `n` of paddock `p`, when it is well formed and below WINMAX (02 R51, 22 R458). A layout code of 2 to 15 in its
TYPE is not well formed; BLK32 is admitted at any rank and has no effect on a window (log entry 143). -/
def State.window (s : State) (p n : Nat) : Option WinDesc :=
  let pd := s.paddockAt p
  if pd.winMax ≤ n then none else
  match pd.wt with
  | none => none
  | some f0 =>
    match s.framePlace (f0 + n / 1024) with
    | none => none
    | some base =>
      let a := base + n % 1024 * 64
      let w0 := memNat s.mem a 8
      let w1 := memNat s.mem (a + 8) 8
      let exts := (List.range 8).map fun k => memNat s.mem (a + 16 + 4 * k) 4
      let w6 := memNat s.mem (a + 48) 8
      let w7 := memNat s.mem (a + 56) 8
      let rank := bits w1 0 4
      let tl := (List.range 8).map fun k => bits w1 (8 + 4 * k) 4
      let fmt := bits w0 56 5
      let geom := bits w0 48 4
      let comp := bits w1 7 1 == 1
      let tlog := if rank = 1 then [tlogOne fmt (tl.headD 0)] else tl.take rank
      let ext := exts.take rank
      let tiles := listProd (List.zipWith ceilShift ext tlog)
      let span := if bits w1 43 1 == 1 then some (bits w1 40 3) else none
      let ok := bits w1 4 1 == 1 && 1 ≤ rank && rank ≤ 8 && storageBits fmt != 0 &&
        bits w0 61 3 == 0 && bits w0 0 40 == 0 && bits w0 45 3 == 0 && bits w0 52 4 ≤ 1 &&
        geom ≤ 2 && (geom == 0 || scalable fmt) && !(geom == 2 && rank == 1) &&
        bits w1 44 20 == 0 && (tl.drop rank).all (· == 0) && (exts.drop rank).all (· == 0) && ext.all (1 ≤ ·) &&
        listProd (tlog.map (2 ^ ·)) * storageBits fmt == 524288 &&
        tiles == bits w7 0 32 && tiles < 2 ^ 32 && bits w7 32 32 == 0 && bits w6 42 22 == 0 &&
        bits w6 32 10 * 64 + tiles * (if comp then 128 else 8) ≤ 65536 &&
        (match span with | some sp => sp ≤ 5 | none => true)
      if ok then
        some { p := p, num := n, tw := BitVec.ofNat 64 w0, fmt := fmt, geom := geom, rank := rank, rd := bits w1 5 1 == 1,
               wr := bits w1 6 1 == 1, compressed := comp, tlog := tlog, span := span, ext := ext,
               ttFrame := bits w6 0 32, ttOff := bits w6 32 10, tiles := tiles }
      else none

/-- Tile number and element number of a coordinate tuple (02 R52). -/
def tileElem : List Nat → List Nat → List Nat → Nat → Nat → Nat × Nat
  | e :: ext, l :: tlog, c :: cs, tile, elem =>
    tileElem ext tlog cs (tile * ceilShift e l + c / 2 ^ l) (elem * 2 ^ l + c % 2 ^ l)
  | _, _, _, tile, elem => (tile, elem)

def WinDesc.locate (d : WinDesc) (cs : List Nat) : Nat × Nat := tileElem d.ext d.tlog cs 0 0

/-- Address of a tile table entry (02 R53). -/
def State.ttAddr (s : State) (d : WinDesc) (tile : Nat) : Option Nat :=
  (s.framePlace d.ttFrame).map (· + d.ttOff * 64 + tile * (if d.compressed then 128 else 8))

/-- The frame of a tile, when it is present. -/
def State.tileFrame (s : State) (d : WinDesc) (tile : Nat) : Option Nat :=
  match s.ttAddr d tile with
  | none => none
  | some a =>
    let w := memNat s.mem a 8
    if bits w 32 1 == 1 then some (bits w 0 32) else none

/-- Address of byte 0 of a window frame: span scratch, or through the frame map (02 R51, R52). -/
def State.winPlace (s : State) (d : WinDesc) (f : Nat) : Option Nat :=
  match d.span with
  | some sp => if f < 384 then some (spanAddr sp (f * 65536)) else none
  | none => s.framePlace f

/-- The fault of an access to a tile without a frame, which no granted lease can touch (02 R56, R60). -/
def noFrame : FaultRec := { cls := .LS, num := 1 }

/-- Where an element lies: the frame's address, its byte and its bit in that byte. -/
def State.winAt (s : State) (d : WinDesc) (cs : List Nat) : Except FaultRec (Nat × Nat × Nat × Nat) :=
  let (tile, elem) := d.locate cs
  match (s.tileFrame d tile).bind (s.winPlace d) with
  | none => .error noFrame
  | some base =>
    let bit := elem * storageBits d.fmt
    .ok (tile, base, bit / 8, bit % 8)

/-- The class code of a block of a compressed window's tile (02 R53, R55). -/
def State.blockClass (s : State) (d : WinDesc) (tile b : Nat) : Nat :=
  match s.ttAddr d tile with
  | none => 5
  | some a => bits (memNat s.mem (a + 8 + 3 * b / 8) 2) (3 * b % 8) 3

/-- The state with that class code written. -/
def State.setBlockClass (s : State) (d : WinDesc) (tile b cls : Nat) : State :=
  match s.ttAddr d tile with
  | none => s
  | some a =>
    let at_ := a + 8 + 3 * b / 8
    let sh := 3 * b % 8
    let old := memNat s.mem at_ 2
    s.store at_ (natLe 2 (old - bits old sh 3 * 2 ^ sh + cls * 2 ^ sh))

/-- The 256 bytes of block `b`, expanded where the window is compressed. -/
def State.readBlock (s : State) (d : WinDesc) (tile base b : Nat) : Except FaultRec (List Byte) :=
  let raw := memRead s.mem (base + 256 * b) 256
  if d.compressed then
    match expandBlock d.fmt (s.blockClass d tile b) raw with
    | .ok bs => .ok bs
    | .error n => .error { cls := .CP, num := n, lines := linesOf (base + 256 * b) 256 }
  else .ok raw

/-- The storage bits of the element at `cs`. -/
def State.winRead (s : State) (d : WinDesc) (cs : List Nat) : Except FaultRec Nat := do
  let (tile, base, byte, bit) ← s.winAt d cs
  let sb := storageBits d.fmt
  let n := (sb + 7) / 8
  if d.compressed then
    let bs ← s.readBlock d tile base (byte / 256)
    return bits (leNat ((bs.drop (byte % 256)).take n)) bit sb
  else return bits (memNat s.mem (base + byte) n) bit sb

/-- The state with the element's storage bits written; in a compressed window the block is merged and coded again (02 R55). -/
def State.winWrite (s : State) (d : WinDesc) (cs : List Nat) (code : Nat) : Except FaultRec State := do
  let (tile, base, byte, bit) ← s.winAt d cs
  let sb := storageBits d.fmt
  let n := (sb + 7) / 8
  let put (old : Nat) : Nat := old - bits old bit sb * 2 ^ bit + code % 2 ^ sb * 2 ^ bit
  if d.compressed then
    let bs ← s.readBlock d tile base (byte / 256)
    let o := byte % 256
    let new := bs.take o ++ natLe n (put (leNat ((bs.drop o).take n))) ++ bs.drop (o + n)
    let (cls, st) := compressBlock d.fmt new
    let s := s.setBlockClass d tile (byte / 256) cls
    return s.store (base + 256 * (byte / 256)) st
  else return s.store (base + byte) (natLe n (put (memNat s.mem (base + byte) n)))

/-- The frame and block of a coordinate, for the marks of 07 R177. -/
def State.winTouch (s : State) (d : WinDesc) (cs : List Nat) : List Touch :=
  let (tile, elem) := d.locate cs
  match s.tileFrame d tile with
  | none => []
  | some f =>
    let b := elem * storageBits d.fmt / 8 / 256
    [⟨.frame d.span f, b, b, d.num⟩]

/-! ## Leases (02 R56 to R61) -/

/-- Whether a coordinate lies in a box. -/
def inBox : List (Nat × Nat) → List Nat → Bool
  | (lo, hi) :: b, c :: cs => lo ≤ c && c ≤ hi && inBox b cs
  | [], [] => true
  | _, _ => false

/-- Whether a tile coordinate tuple lies in the tiles a box touches. -/
def tileInBox : List (Nat × Nat) → List Nat → List Nat → Bool
  | (lo, hi) :: b, l :: tlog, c :: cs => lo / 2 ^ l ≤ c / 2 ^ l && c / 2 ^ l ≤ hi / 2 ^ l && tileInBox b tlog cs
  | [], _, [] => true
  | _, _, _ => false

/-- The boxes the task has delegated and that are in force: leases marked so of tasks it spawned that have not ended (02 R61). -/
def State.delegated (s : State) (tid : Nat) : List Lease :=
  s.tasks.flatMap fun (_, t) =>
    if t.parent = some tid then t.leases.filter (·.deleg) else []

/-- The lease fault of one coordinate, if any: LS-01, LS-04, LS-02 in that order (02 R60). -/
def leaseFault (own dlg : List Lease) (d : WinDesc) (wantR wantW : Bool) (cs : List Nat) : Option Nat :=
  let cover := own.filter fun l => l.win == d.num && inBox l.box cs
  if cover.isEmpty then some 1
  else if dlg.any fun l => l.win == d.num && tileInBox l.box d.tlog cs then some 4
  else if (wantR && !cover.any (·.rd)) || (wantW && !cover.any (·.wr)) then some 2
  else none

/-- The first fault, in the order of 02 R60, that any of the coordinates meets. -/
def State.leaseCheck (s : State) (tid : Nat) (d : WinDesc) (wantR wantW : Bool) (css : List (List Nat)) : Option Nat :=
  let own := (s.taskAt tid).leases
  let dlg := s.delegated tid
  let fs := css.filterMap (leaseFault own dlg d wantR wantW)
  if fs.contains 1 then some 1 else if fs.contains 4 then some 4 else if fs.contains 2 then some 2 else none

/-- Every coordinate tuple of a box given by origins and extents, row-major. -/
def boxCoords : List (Nat × Nat) → List (List Nat)
  | [] => [[]]
  | (o, n) :: b => (List.range n).flatMap fun i => (boxCoords b).map ((o + i) :: ·)

/-! ## The code image (20 R426, R427) -/

/-- The word at byte address `a` of the task's code image; none outside it. -/
def State.codeWord (s : State) (t : Task) (a : Nat) : Option Nat :=
  if t.code.len < a + 4 then none
  else
    match s.window t.p t.code.win with
    | none => none
    | some d =>
      match (List.range 4).mapM fun i => s.winRead d [t.code.off + a + i] with
      | .ok bs => some (bs.foldr (fun b acc => b + 256 * acc) 0)
      | .error _ => none

/-- Whether the word at `a` starts a bundle (08 R199). -/
def startsBundle (w : Nat) : Bool := bits w 31 1 == 1

/-- The address after the bundle at `a`: the next word with B = 1, or the end of the packet (08 R196, R198). -/
def State.bundleEnd (s : State) (t : Task) : Nat → Nat → Nat
  | 0, a => a
  | fuel + 1, a =>
    let b := a + 4
    if b % 32 = 0 then b
    else
      match s.codeWord t b with
      | none => b
      | some w => if startsBundle w then b else s.bundleEnd t fuel b

end Sys2Proof.Machine
end

