-- ==== Sys2Proof/Machine/L2.lean ====
section
/-! DEFINITION. The L2 and what counts its accesses: telemetry, a frame's access counter with its notices, home slices, way masks,
hits, fills, victims (21 R443 to R445; 22 R462 to R464, R472). -/
namespace Sys2Proof.Machine

/-! ## Counters (21 R443 to R445; 22 R472) -/

/-- A telemetry counter of a paddock rises (22 R472). -/
def State.telemetry (s : State) (p k n : Nat) : State :=
  let d := s.paddockAt p
  s.setPaddock p { d with tele := d.tele.set k ((d.tele.getD k 0 + n) % 2 ^ 64) }

/-- A notice of paddock `p` about frame `f`, and whether it was posted; a full ring sets OVF. -/
def State.postNotice (s : State) (p f kind val : Nat) : State × Bool :=
  let d := s.paddockAt p
  let q := d.nq
  if !q.en then (s, false)
  else
    let next := (q.tail + 1) % 2 ^ q.log
    if next = q.head then (s.setPaddock p { d with nq := { q with ovf := true } }, false)
    else
      let bs := natLe 4 f ++ natLe 1 kind ++ natLe 1 q.phase.toNat ++ natLe 2 0 ++ natLe 8 val
      let s := { s with mem := memWrite s.mem (hostAddr (q.base.toNat + 16 * q.tail)) bs }
      (s.setPaddock p { d with nq := { q with tail := next, phase := if next = 0 then !q.phase else q.phase } }, true)

/-- A frame that stands at the threshold: its notice, unless one was posted or OVF is set (R445). -/
def State.noteFrame (s : State) (p f : Nat) : State :=
  let e := s.frameAt f
  if e.noted || (s.paddockAt p).nq.ovf then s
  else
    let (s, posted) := s.postNotice p f 0 e.cnt
    if posted then s.setFrame f { e with noted := true } else s

/-- The access counter of a frame rises, up to THRESH (21 R443, R445). -/
def State.countAccess (s : State) (f : Nat) : State :=
  let e := s.frameAt f
  let q := (s.paddockAt e.owner).nq
  if !q.en || q.thresh = 0 || q.thresh ≤ e.cnt then s
  else
    let s := s.setFrame f { e with cnt := e.cnt + 1 }
    if e.cnt + 1 = q.thresh then s.noteFrame e.owner f else s

/-! ## Slices and ways (22 R462 to R464) -/

/-- The home slice of the byte at physical address `a` of HBM (R462). -/
def homeSlice (a : Nat) : Nat :=
  let g := [7, 11, 15, 19, 23, 27, 31, 35].foldl (fun x lo => x ^^^ bits a lo 4) 0
  let h := [7, 15, 23, 31].foldl (fun x lo => x ^^^ bits a lo 8) (bits a 39 1)
  48 * (a / 65536 / 786432 / 6) + h % 3 * 16 + g

/-- WAYMASK of a paddock for a slice (R463). -/
def Paddock.wayMask (d : Paddock) (slice : Nat) : Nat := (amGet d.ways slice).getD 0xFFFF

/-- The frame whose place in HBM holds a 128-byte line, with its owner. -/
def State.frameOfLine (s : State) (line : Nat) : Option (Nat × Nat) :=
  (s.frames.find? fun e => e.2.state == 1 && e.2.pframe == line / 512).map fun e => (e.1, e.2.owner)

/-- An access or a write-back reads the two 64-byte lines of a slice's copy of a 128-byte line: errors that they hold are found (23
R475). -/
def State.readCopy (s : State) (slice line : Nat) : State :=
  if s.latent.isEmpty then s else (s.settleLine (l2Copy slice (2 * line))).settleLine (l2Copy slice (2 * line + 1))

/-- A copy that goes takes its errors with it. -/
def State.dropCopy (s : State) (slice line : Nat) : State :=
  if s.latent.isEmpty then s
  else { s with latent := s.latent.filter fun e => e.1 != l2Copy slice (2 * line) && e.1 != l2Copy slice (2 * line + 1) }

/-- A line moves between L2 and HBM: its bytes count for the owner, and, but for a host access, in its frame's counter (R472; 21
R443). -/
def State.lineTransfer (s : State) (host write : Bool) (p line : Nat) : State :=
  let s := s.telemetry p (if write then 3 else 2) 128
  match s.frameOfLine line with
  | some (f, _) => if host then s else s.countAccess f
  | none => s

/-- The ways a mask lets a fill take. -/
def maskWays (mask : Nat) : List Nat := (List.range 16).filter mask.testBit

/-- The way of its set that a fill takes, with what it evicts: a free way of the mask, as there is while the slice holds fewer lines than
the mask has ways, else the least recently used of the mask's. -/
def fillWay (ways : List Nat) (set : Nat) (held : List L2Line) : Nat × Option L2Line :=
  let free := ways.find? fun w => !held.any fun e => e.set == set && e.way == w
  if held.length < ways.length then (free.getD 0, none)
  else
    match free with
    | some w => (w, none)
    | none =>
      let victim := held.reverse.find? fun e => e.set == set && ways.contains e.way
      ((victim.map (·.way)).getD 0, victim)

/-- One access to a 128-byte line of HBM, under the mask of its frame's owner (R464; log entry 122): a hit in any way; else a fill, the
victim written back; with no way in the mask a miss goes to HBM and a write goes through. A write-back counts whoever's fill caused it. -/
def State.l2Access (s : State) (host write : Bool) (line : Nat) : State :=
  match s.frameOfLine line with
  | none => s
  | some (_, p) =>
    let slice := homeSlice (line * 128)
    let held := (amGet s.l2 slice).getD []
    match held.find? (·.line == line) with
    | some e =>
      let s := if write then s else s.readCopy slice line
      let through : Bool := write && (maskWays ((s.paddockAt p).wayMask slice)).isEmpty
      let s := if through then s.lineTransfer host true p line else s
      let now := { e with dirty := e.dirty || (write && !through) } :: held.filter (·.line != line)
      { s with l2 := amSet s.l2 slice now }.telemetry p 4 1
    | none =>
      let s := s.telemetry p 5 1
      let ways := maskWays ((s.paddockAt p).wayMask slice)
      if ways.isEmpty then s.lineTransfer host write p line
      else
        let set := Config.l2Set line % 1024
        match fillWay ways set held with
        | (w, none) =>
          let s := s.lineTransfer host false p line
          { s with l2 := amSet s.l2 slice (⟨set, w, line, p, write⟩ :: held) }
        | (w, some v) =>
          let s := if v.dirty then (s.readCopy slice v.line).lineTransfer false true v.owner v.line else s
          let s := s.dropCopy slice v.line
          let s := s.lineTransfer host false p line
          { s with l2 := amSet s.l2 slice (⟨set, w, line, p, write⟩ :: held.filter (·.line != v.line)) }

/-- The lines of HBM among memory lines, each accessed once. -/
def State.l2Touch (s : State) (host write : Bool) (ls : List Nat) : State :=
  ((ls.filter (· < 2 ^ 34)).map (· / 2)).dedup.foldl (fun s l => s.l2Access host write l) s

/-- The L2 holds no line of a physical frame any more; the dirty ones are written back (21 R442). -/
def State.l2Flush (s : State) (q : Nat) : State :=
  let out (e : L2Line) : Bool := e.line / 512 == q
  let s := s.l2.foldl (fun s e => (e.2.filter out).foldl (fun s x =>
    (if x.dirty then (s.readCopy e.1 x.line).lineTransfer false true x.owner x.line else s).dropCopy e.1 x.line) s) s
  { s with l2 := (s.l2.map fun e => (e.1, e.2.filter fun x => !out x)).filter fun e => !e.2.isEmpty }

end Sys2Proof.Machine
end

