-- ==== Sys2Proof/Machine/Issue.lean ====
section
/-! DEFINITION. The issue of a bundle: opening it, running one word of it, closing it by a commit, a fault, a block or a stall;
taking an exception and returning from one (01 R13, R14; 08 R192, R197, R199, R204 to R206; 09 R230 to R236; 13 R355). -/
namespace Sys2Proof.Machine

/-! ## Ending a task -/

/-- What a task that ends keeps of its leases: one that still waited for them holds only those delegated with its spawn (02 R58, R61,
R62). -/
def Task.endLeases (t : Task) : List Lease := if t.state == .waitLeases then t.leases.filter (·.held) else t.leases

/-- The task ends on a fault: every member halts; the end itself is the step FAULT_TASK_END (01 R21). -/
def State.endTask (s : State) (tid : Nat) (f : FaultRec) : State :=
  let t := s.taskAt tid
  s.setTask tid { t with state := .ending, fault := t.fault.orElse fun _ => some f, leases := t.endLeases }

/-- Numbers of two lists, each once. -/
def union (a b : List Nat) : List Nat := a ++ b.filter (!a.contains ·)

/-- A phase completes when every member that has not ended has arrived (11 R295); what came before its arrivals comes before what
follows its waits (07 R183). -/
def settleBar (members : List (Nat × Bool)) (b : Barrier) : Barrier :=
  if !b.arrived.isEmpty && members.all (fun m => m.2 || b.arrived.contains m.1) then
    { phase := b.phase + 1, arrived := [], before := [], passed := union b.passed b.before }
  else b

/-- The members of a task with whether each has ended. -/
def State.memberEnds (s : State) (t : Task) : List (Nat × Bool) :=
  t.cids.map fun cid => ((s.ctxAt cid).member, (s.ctxAt cid).ended)

def State.settleBars (s : State) (tid : Nat) : State :=
  let t := s.taskAt tid
  s.setTask tid { t with bars := t.bars.map (settleBar (s.memberEnds t)) }

/-! ## Taking an exception (09 R232, 08 R206) -/

/-- TRAPVEC as the bundle next to issue reads it (08 R205; log entry 109). -/
def Ctx.vecRead (c : Ctx) : Word := (c.retire c.bidx).trapvec

/-- A context in its handler, at the address that TRAPVEC `tv` has: results captured with the interrupted numbering, the trap CSRs
written, the handler's own numbering begun (log entry 8); `op` is the next operation's number. -/
def Ctx.enterTrap (c : Ctx) (f : FaultRec) (epc tv : Word) (op : Nat) : Ctx :=
  { c with
    captured := some ⟨c.inflight, c.bidx, c.lastIdx, c.lastWeight, op⟩
    inflight := []
    bidx := 0
    lastIdx := 0
    lastWeight := 0
    epc := epc
    cause := f.causeWord
    fdet := f.fdet
    ftypeA := f.ftypeA
    ftypeB := f.ftypeB
    fcmd := f.fcmd
    inTrap := true
    damaged := c.damaged.filter fun k => !(82 ≤ k && k ≤ 87)
    pc := tv &&& ~~~3
    block := none }

/-- What a fetch that begins a bundle at `a` meets: EN-10 at or past CODELEN (20 R427), EN-08 where no bundle starts (08 R199, 09
R228). -/
def State.startFault (s : State) (t : Task) (a : Nat) : Option Nat :=
  if t.code.len ≤ a then some 10
  else if a % 4 ≠ 0 then some 8
  else
    match s.codeWord t a with
    | none => some 10
    | some w => if startsBundle w then none else some 8

/-- The same for a target. -/
def State.targetFault (s : State) (t : Task) (a : Word) : Option FaultRec := (s.startFault t a.toNat).map fun n => enFault n 0 a.toNat

/-- What an AC fault of a core leaves in the error log, with KIND 8: for AC-02 the line, the words read settled, or by a fill the line
verified; a parity error and a slab of a result queue lie in no line, so PLACE is open (23 R475, R476, R480; log entry 115). -/
def State.consumed (s : State) (f : FaultRec) : State :=
  let s := s.actAs (unitOfCore s.ctx.core) s.ctx.tid
  if f.aux = 0 then s.logUnplaced 8
  else (if f.part.isEmpty then s.verifyLine f.aux else s.settleWords f.aux f.part.contains).logLine 8 f.aux 0

/-- The exception `f` of the context in issue, to resume at `epc`, with TRAPVEC `tv`: the handler is entered when the fault is recoverable, one is
installed and none runs; else the task ends (00 R9, 09 R232). A handler address that starts no bundle ends the task, the original
fault named (08 R199, R202). -/
def State.raise (s : State) (f : FaultRec) (epc tv : Word) : State :=
  let s := if f.cls = .MD then s.putCtx { s.ctx with mxMd := BitVec.ofNat 64 f.aux } else s
  let s := if f.cls = .AC && (f.num = 2 || f.num = 4) then s.consumed f else s
  let c := s.ctx
  if f.cls.recoverable && !c.inTrap && c.damaged.contains 81 then (s.consumed { cls := .AC, num := 4 }).endTask c.tid { cls := .AC, num := 4 }
  else if f.cls.recoverable && tv.getLsbD 0 && !c.inTrap then
    let a := tv &&& ~~~3
    match s.startFault s.task a.toNat with
    | some n => s.endTask c.tid { cls := .EN, num := n, fdet := enDetail 0 0 0 7 (some f) a.toNat }
    | none => s.putCtx (c.enterTrap f epc tv s.nextOp)
  else s.endTask c.tid f

/-- Trap return: the handler's results are written, the captured ones resume at their points, INTRAP and MDINFO.VALID clear
(13 R355, 08 R206). -/
def Ctx.leaveTrap (c : Ctx) : Ctx :=
  let c := c.flush
  let k := c.captured.getD ⟨[], c.bidx, c.lastIdx, c.lastWeight, 0⟩
  { c with
    inflight := k.inflight
    bidx := k.bidx
    lastIdx := k.lastIdx
    lastWeight := k.lastWeight
    captured := none
    inTrap := false
    mxMd := c.mxMd &&& ~~~0x4000
    pc := c.epc }

/-! ## Loops (09 R235 to R238) -/

/-- The row that holds element `e`: the first i with p[i] ≤ e < p[i+1]. -/
def rowOf : List Nat → Nat → Nat → Nat
  | p :: q :: ps, i, e => if p ≤ e && e < q then i else rowOf (q :: ps) (i + 1) e
  | _, i, _ => i

/-- set_iteration: the results of reaching element `e`, at latency 1 (09 R237). -/
def Ctx.setIteration (c : Ctx) (t : Traverse) : Ctx :=
  let first := t.ptrs.getD t.row 0
  let last := t.ptrs.getD (t.row + 1) 0
  let c := c.post 1 (.x t.d (BitVec.ofNat 64 t.elem))
  let c := c.post 1 (.x (t.d + 1) (BitVec.ofNat 64 t.row))
  let c := c.post 1 (.p 6 (t.elem == first))
  let c := c.post 1 (.p 7 (t.elem + 1 == last))
  { c with trav := some t }

/-- Loop-end processing for a bundle at `a` (09 R235): the next PC, where a loop goes back. `n` bounds the entries unwound. -/
def loopEnd (a : Word) : Nat → Ctx → Option Word × Ctx
  | 0, c => (none, c)
  | n + 1, c =>
    match c.loops with
    | [] => (none, c)
    | e :: es =>
      if e.last = a then
        match e.count with
        | some r =>
          if 1 < r.toNat then (some e.start, { c with loops := { e with count := some (r - 1) } :: es })
          else loopEnd a n { c with loops := es }
        | none =>
          match c.trav with
          | some t =>
            if t.elem + 1 < t.ptrs.getLastD 0 then
              (some e.start, c.setIteration { t with elem := t.elem + 1, row := rowOf t.ptrs 0 (t.elem + 1) })
            else loopEnd a n { c with loops := es, trav := none }
          | none => loopEnd a n { c with loops := es }
      else (none, c)

/-- The innermost entry first: the entries kept when a taken BR, BRX or LCLOSE goes to `pc` (09 R236). An entry the target lies
outside goes, with every entry above it. -/
def popLoops (pc : Word) (loops : List LoopEntry) : List LoopEntry :=
  let bad := loops.reverse.findIdx? fun e => pc.toNat < e.start.toNat || e.last.toNat < pc.toNat
  match bad with
  | none => loops
  | some i => (loops.reverse.take i).reverse

/-- The context after a taken transfer to `pc`. -/
def Ctx.popTo (c : Ctx) (pc : Word) : Ctx :=
  let ls := popLoops pc c.loops
  { c with loops := ls, trav := if ls.any (·.count.isNone) then c.trav else none }

/-! ## Joins (07 R175, 09 R243) -/

/-- The unreported engine fault of the lowest tag that `p` selects on the context's core. -/
def pickFault (p : TagFault → Bool) : List TagFault → Option TagFault
  | [] => none
  | t :: ts =>
    match pickFault p ts with
    | some r => if p t && t.tag ≤ r.tag then some t else some r
    | none => if p t then some t else none

/-- The context joins the operations whose faults `p` selects: an unreported fault is raised with JOIN = 1. -/
def State.joinFault (s : State) (p : TagFault → Bool) : Except Stop Unit :=
  match pickFault (fun t => t.core == s.ctx.core && p t) s.task.tagFaults with
  | some t => .error (.fault { t.flt with join := true })
  | none => .ok ()

/-- An operation on a cell or a graph counter that has not performed. -/
def Op.unperformed (o : Op) : Bool :=
  match o.kind with
  | .counter c => !c.performed
  | .graph g => !g.performed
  | _ => false

/-- Those of a list of operations that have not performed. -/
def State.undone (s : State) (ids : List Nat) : List Nat :=
  ids.filter fun i => s.ops.any fun o => o.id == i && o.unperformed

/-- Those of them that write a counter cell, which a release makes visible (07 R186); a graph counter is no wide home (07 R182). -/
def State.unseen (s : State) (ids : List Nat) : List Nat :=
  ids.filter fun i => s.ops.any fun o => o.id == i && o.unperformed && (match o.kind with | .counter _ => true | _ => false)

/-- What the completed operations that `p` selects come after, the context now comes after (07 R175, R183: join). -/
def State.joinDone (s : State) (p : Finished → Bool) : State :=
  let ds := s.task.done.filter fun d => d.core == s.ctx.core && p d
  if ds.isEmpty then s
  else s.putCtx { s.ctx with before := ds.foldl (fun b d => union b (s.undone d.before)) s.ctx.before }

/-- A core access inside the cluster takes its place in the commit order: it comes after what the team's earlier ones come after (07
R171, R183). -/
def State.commitOrder (s : State) : State :=
  let c := s.ctx
  let t := s.task
  if c.before.isEmpty && t.before.isEmpty then s
  else
    let all := union (s.undone t.before) (s.undone c.before)
    (s.putTask { t with before := all }).putCtx { c with before := all }

/-- The operations that bear the tags of `mask` are joined: faults reported, marks of landings cleared (07 R177). -/
def State.joinTags (s : State) (mask : Word) : Except Stop State := do
  s.joinFault fun t => mask.getLsbD t.tag
  let s := s.joinDone fun d => mask.getLsbD d.tag
  let t := s.task
  if t.landed.isEmpty then return s
  return s.putTask { t with landed := t.landed.filter fun l => !(l.core == s.ctx.core && mask.getLsbD l.tag) }

/-- A fault reported at a join is reported once (09 R243). -/
def State.reported (s : State) (f : FaultRec) : State :=
  if f.join then
    let t := s.task
    s.putTask { t with tagFaults := t.tagFaults.eraseP fun e =>
      e.core == s.ctx.core && e.flt == { f with join := false, word := 0 } }
  else s

/-- The count of a tag of the team on a core (02 R63). -/
def Task.tagCount (t : Task) (core tag : Nat) : Nat := (amGet t.tags (core * 64 + tag)).getD 0

/-- TAGS: bit t reads 1 exactly when count t is 0 (02 R63, R64). -/
def Task.tagsWord (t : Task) (core : Nat) : Word :=
  BitVec.ofNat 64 ((List.range 64).foldl (fun a k => if t.tagCount core k = 0 then a + 2 ^ k else a) 0)

/-- A tag's count raised by `n` at the commit; QU-04 above 16,777,215 (02 R63). -/
def State.raiseTag (s : State) (tag n : Nat) : Except Stop State := do
  let t := s.task
  let c := t.tagCount s.ctx.core tag + n
  need (c ≤ 16777215) (flt .QU 4)
  return s.putTask { t with tags := amSet t.tags (s.ctx.core * 64 + tag) c }

/-- A tag's count lowered by 1 as an operation completes; a count of 0 is not listed. -/
def State.lowerTag (s : State) (tid core tag : Nat) : State :=
  let t := s.taskAt tid
  let k := core * 64 + tag
  let c := t.tagCount core tag - 1
  s.setTask tid { t with tags := if c = 0 then amDel t.tags k else amSet t.tags k c }

/-! ## The tile interlock (04 R113) -/

/-- The incomplete operations of earlier bundles that write tile `n` of the context. -/
def State.tileWriters (s : State) (n : Nat) : List Nat :=
  (s.ops.filter fun o => o.id < s.bun.firstOp && o.marks.any fun m => m.write && m.space == .tile s.me n).map (·.id)

/-- A word names the tiles `ns`: FM-07 for one at or above the tile count, then the interlock; its release is a join (12 R304). -/
def State.nameTiles (s : State) (ns : List Nat) : Except Stop Unit := do
  need (ns.all (· < s.task.tiles)) (flt .FM 7)
  let ws := ns.flatMap s.tileWriters
  need ws.isEmpty (.stallOn ws)
  s.joinFault fun t => s.ctx.tileStall.contains t.op

/-! ## Opening, running, closing -/

/-- The bundle of the context in issue is opened: results that are due are written (08 R205). -/
def State.openBundle (s : State) (len : Nat) : State :=
  let c := s.ctx.retire s.ctx.bidx
  { s.putCtx c with bun := { Bun.closed with isOpen := true, addr := c.pc, len := len, firstOp := s.nextOp } }

/-- What kind of word it is: which cores decode it (08 R208), and whether an ordered counter operation holds it back (11 R292). -/
inductive WordKind where
  | scalar | control | controlMain | fence | vector | ma | maMain | mb | cell | eMain | eBoth | eLookup
  deriving DecidableEq, Repr

/-- Decoded on a core of this kind (08 R208). -/
def WordKind.decoded (k : WordKind) (lookup : Bool) : Bool :=
  match k with
  | .scalar | .control | .fence | .ma | .eBoth => true
  | .controlMain | .vector | .maMain | .mb | .cell | .eMain => !lookup
  | .eLookup => lookup

/-- MA and MB words, E words and FENCE wait for an acquire that has not performed (11 R292). -/
def WordKind.waitsAcquire : WordKind → Bool
  | .ma | .maMain | .mb | .cell | .eMain | .eBoth | .eLookup | .fence => true
  | _ => false

/-- The word is a core access inside the cluster (07 R171). -/
def WordKind.accesses : WordKind → Bool
  | .ma | .maMain | .mb => true
  | _ => false

/-- An acquire of an earlier bundle of the context is under way. -/
def State.acquiring (s : State) : Bool :=
  s.ops.any fun o => o.cid == s.me && o.id < s.bun.firstOp &&
    (match o.kind with
     | .counter c => !c.performed && (match c.order with | some r => r != 1 | none => false)
     | _ => false)

/-- The words of the bundle stop: the first stop stands. -/
def State.stopAt (s : State) (e : Stop) : State :=
  let e := match e with
    | .fault f => .fault { f with word := s.bun.word }
    | e => e
  { s with bun := { s.bun with stop := some e } }

/-- One word of the open bundle: nothing after a stop; EN-01 where the core does not decode it; `pre` and the wait for an acquire
hold whether or not the guard does (08 R200, 11 R292); a word whose guard is 0 is squashed (08 R192). -/
def runPart (k : WordKind) (g : Nat) (pre : State → State) (body : State → Except Stop State) (s : State) : State :=
  if s.bun.stop.isSome then s
  else if !k.decoded (384 ≤ s.ctx.core) then s.stopAt (.fault (enFault 1 s.bun.word s.bun.addr.toNat))
  else
    let s := pre s
    if s.bun.stop.isSome then s
    else if k.waitsAcquire && s.acquiring then s.stopAt .stall
    else if s.ctx.pAt g then
      match body s with
      | .ok s' => if k.accesses then s'.commitOrder else s'
      | .error e => s.stopAt e
    else s

/-- The bindings pending take effect (04 R104). -/
def bindAll (d : Vector (Option Nat) 16) : AMap Nat → Vector (Option Nat) 16
  | [] => d
  | (k, v) :: m => bindAll (d.setIfInBounds k (some v)) m

/-- An abandoned YMATCH enters the span's yoke queue again at the commit of its team's first bundle (01 R32), or where no member of the
team can issue (log entry 116). -/
def State.redoYokes (s : State) (tid core : Nat) : State :=
  let t := s.taskAt tid
  if t.redo.isEmpty then s
  else
    let span := spanOf core
    { s with yokes := amSet s.yokes span ((amGet s.yokes span).getD [] ++ t.redo) }.setTask tid { t with redo := [] }

/-- LCLOSE's part of the commit: LCNT, the stage window and RRB move in one step with the branch (09 R240, R241). -/
def Ctx.closeLoop (c : Ctx) : Option (Word × Nat × BitVec 4) → Ctx
  | none => c
  | some (n, w, r) =>
    { c with
      lcnt := n
      rrb := r
      p := (List.range 8).foldl (fun v j => v.setIfInBounds (8 + j) (w.testBit j)) c.p
      damaged := c.damaged.filter fun k => !((72 ≤ k && k < 80) || k == 96 || k == 97) }

/-- The team of a context has tried a bundle since it took its slots (01 R29). -/
def State.notFresh (s : State) (tid : Nat) : State :=
  let t := s.taskAt tid
  if t.fresh || t.rounds != 0 then s.setTask tid { t with fresh := false, rounds := 0 } else s

/-- The bundle commits: PC, loop stack, numbering, bindings, and what its C word asked for (08 R197, R204; 09 R230, R231, R235). -/
def State.commit (s : State) : State :=
  let s := s.joinDone fun d => s.ctx.tileStall.contains d.op
  let b := s.bun
  let c := s.ctx
  let fall := b.addr + BitVec.ofNat 64 (4 * b.len)
  let c := { c with d := bindAll c.d b.pend }
  let c := c.closeLoop b.close
  let c := match b.push with
    | some e => { c with loops := e :: c.loops }
    | none => c
  let c := match b.trav with
    | some t => c.setIteration t
    | none => c
  let (pc, c) :=
    match b.next with
    | some pc => (pc, if b.pop then c.popTo pc else c)
    | none =>
      if b.tend || b.tret then (fall, c)
      else
        let (n, c) := loopEnd b.addr c.loops.length c
        (n.getD fall, c)
  let c := { c with lastIdx := c.bidx, lastWeight := b.weight, bidx := c.bidx + b.weight, pc := pc, block := none, tileStall := [] }
  let s := { s with bun := .closed, cycle := s.cycle + 1 }
  let core := s.coreAt c.core
  let s := (s.setCore c.core { core with cnt := core.cnt + 1, due := core.due || b.tend }).telemetry (s.taskAt c.tid).p 0 1
  let s := (s.redoYokes c.tid c.core).notFresh c.tid
  if b.tend then (s.putCtx { c with ended := true, inflight := [], loops := [], trav := none, captured := none }).settleBars c.tid
  else
    match b.trap with
    | some code => (s.putCtx (c.retire c.lastIdx)).raise { cls := .TRAP, num := code } pc (c.retire c.lastIdx).trapvec
    | none =>
      s.putCtx (if b.tret then c.leaveTrap else c)

/-- The first target that fails (08 R199). -/
def State.badTarget (s : State) : List Word → Option FaultRec
  | [] => none
  | a :: as =>
    match s.targetFault s.task a with
    | some f => some f
    | none => s.badTarget as

/-- The targets of the bundle's transfers, a trap return's among them (08 R199). -/
def State.allTargets (s : State) : List Word :=
  s.bun.targets ++ (if s.bun.tret then [s.ctx.leaveTrap.pc] else [])

/-- The bundle blocks (01 R14, R15): why and from when is recorded, and the core is due to switch. -/
def State.blockOn (s : State) (b : Block) : State :=
  let c := s.ctx
  let since := match c.block with
    | some r => if r.why = b then r.since else s.cycle
    | none => s.cycle
  let s := (s.putCtx { c with block := some ⟨b, since⟩ }).notFresh c.tid
  s.setCore c.core { s.coreAt c.core with due := true }

/-- The bundle ends: `s0` is the state before it, `s` after its words. A fault rolls back and raises, a block records why and from
when, a stall lets a reference cycle pass, the tile interlock adding the operations it now waits for to those it has waited for (04
R113); else the targets are checked and the bundle commits. -/
def closeBundle (s0 s : State) : State :=
  match s.bun.stop with
  | some (.fault f) => { (s0.reported f).raise f s0.ctx.pc s0.ctx.vecRead with cycle := s0.cycle + 1 }
  | some (.block b) => { s0.blockOn b with cycle := s0.cycle + 1 }
  | some .stall => { s0.notFresh s0.ctx.tid with cycle := s0.cycle + 1 }
  | some (.stallOn ops) =>
    let s1 := s0.putCtx { s0.ctx with tileStall := union s0.ctx.tileStall ops }
    { s1.notFresh s0.ctx.tid with cycle := s0.cycle + 1 }
  | none =>
    match s.badTarget s.allTargets with
    | some f => { s0.raise f s0.ctx.pc s0.ctx.vecRead with cycle := s0.cycle + 1 }
    | none => s.commit

/-- A word: alone, the bundle is opened, run and closed; inside an open bundle, only its part is run (log entry 6). -/
def runWordPre (k : WordKind) (len g : Nat) (pre : State → State) (body : State → Except Stop State) (s : State) :
    Host.Outcome State Fault Refusal :=
  if s.bun.isOpen then .next (runPart k g pre body s)
  else if (amGet s.ctxs s.me).isNone then .fault .noContext
  else .next (closeBundle s (runPart k g pre body (s.openBundle len)))

/-- The same for a word without a part that the guard does not govern. -/
def runWord (k : WordKind) (len g : Nat) (body : State → Except Stop State) (s : State) :
    Host.Outcome State Fault Refusal :=
  runWordPre k len g id body s

end Sys2Proof.Machine
end

