-- ==== Sys2Proof/Machine/Scalar.lean ====
section
/-! DEFINITION. Class S: integer arithmetic, logic, shifts and the compares (09 R223 to R225). -/
namespace Sys2Proof.Machine

/-- d ← f a b at latency `L`. -/
def aluRR (L d a b : Nat) (f : Word → Word → Word) (s : State) : Except Stop State := do
  let x ← s.rx a
  let y ← s.rx b
  return s.wx L d (f x y)

/-- d ← f a with an immediate or nothing beside it. -/
def aluR (L d a : Nat) (f : Word → Word) (s : State) : Except Stop State := do
  let x ← s.rx a
  return s.wx L d (f x)

/-- Pd ← the condition on a and b. -/
def cmpRR (d a b : Nat) (f : Word → Word → Bool) (s : State) : Except Stop State := do
  let x ← s.rx a
  let y ← s.rx b
  return s.wp 1 d (f x y)

/-- Pd ← the condition on a. -/
def cmpR (d a : Nat) (f : Word → Bool) (s : State) : Except Stop State := do
  let x ← s.rx a
  return s.wp 1 d (f x)

/-- The words of an instruction with an immediate. -/
def immLen (m : Imm) : Nat := 1 + m.xs.length

abbrev Out := Host.Outcome State Fault Refusal

/-- A device step or host command that cannot occur in this state. -/
abbrev notNow (name : String) : Out := .fault (.notEnabled name)

/-- ADD (R223): d ← a + b. -/
def execAdd (g d a b : Nat) (s : State) : Out :=
  runWord .scalar 1 g (aluRR 1 d a b (· + ·)) s

/-- SUB (R223): d ← a − b. -/
def execSub (g d a b : Nat) (s : State) : Out :=
  runWord .scalar 1 g (aluRR 1 d a b (· - ·)) s

/-- MUL (R223): d ← (a × b)[63:0], latency 3. -/
def execMul (g d a b : Nat) (s : State) : Out :=
  runWord .scalar 1 g (aluRR 3 d a b (· * ·)) s

/-- MULH (R223): bits 127 to 64 of the signed product, latency 3. -/
def execMulh (g d a b : Nat) (s : State) : Out :=
  runWord .scalar 1 g (aluRR 3 d a b mulHigh) s

/-- MULHU (R223): bits 127 to 64 of the unsigned product, latency 3. -/
def execMulhu (g d a b : Nat) (s : State) : Out :=
  runWord .scalar 1 g (aluRR 3 d a b mulHighU) s

/-- AND (R223): a AND b. -/
def execAnd (g d a b : Nat) (s : State) : Out :=
  runWord .scalar 1 g (aluRR 1 d a b (· &&& ·)) s

/-- OR (R223): a OR b. -/
def execOr (g d a b : Nat) (s : State) : Out :=
  runWord .scalar 1 g (aluRR 1 d a b (· ||| ·)) s

/-- XOR (R223): a XOR b. -/
def execXor (g d a b : Nat) (s : State) : Out :=
  runWord .scalar 1 g (aluRR 1 d a b (· ^^^ ·)) s

/-- ANDN (R223): a AND NOT b. -/
def execAndn (g d a b : Nat) (s : State) : Out :=
  runWord .scalar 1 g (aluRR 1 d a b (fun x y => x &&& ~~~y)) s

/-- SHL (R223): a shifted left by b[5:0]. -/
def execShl (g d a b : Nat) (s : State) : Out :=
  runWord .scalar 1 g (aluRR 1 d a b shiftLeft) s

/-- SHR (R223): a shifted right, zeros in, by b[5:0]. -/
def execShr (g d a b : Nat) (s : State) : Out :=
  runWord .scalar 1 g (aluRR 1 d a b shiftRight) s

/-- SAR (R223): a shifted right, sign in, by b[5:0]. -/
def execSar (g d a b : Nat) (s : State) : Out :=
  runWord .scalar 1 g (aluRR 1 d a b shiftArith) s

/-- MIN (R223): the smaller, signed. -/
def execMin (g d a b : Nat) (s : State) : Out :=
  runWord .scalar 1 g (aluRR 1 d a b minS) s

/-- MAX (R223): the larger, signed. -/
def execMax (g d a b : Nat) (s : State) : Out :=
  runWord .scalar 1 g (aluRR 1 d a b maxS) s

/-- MINU (R223): the smaller, unsigned. -/
def execMinu (g d a b : Nat) (s : State) : Out :=
  runWord .scalar 1 g (aluRR 1 d a b minU) s

/-- MAXU (R223): the larger, unsigned. -/
def execMaxu (g d a b : Nat) (s : State) : Out :=
  runWord .scalar 1 g (aluRR 1 d a b maxU) s

/-- BFX (R224): the field of a that b names, zero-extended. -/
def execBfx (g d a b : Nat) (s : State) : Out :=
  runWord .scalar 1 g (aluRR 1 d a b bitExtract) s

/-- BFI (R224): the field of d that b names replaced by the low bits of a; it reads Xd. -/
def execBfi (g d a b : Nat) (s : State) : Out :=
  runWord .scalar 1 g (fun s => do
    let x ← s.rx a
    let y ← s.rx b
    let z ← s.rx d
    return s.wx 1 d (bitInsert z x y)) s

/-- ADDI (R223): d ← a + imm, the immediate signed. -/
def execAddi (g d a : Nat) (imm : Imm) (s : State) : Out :=
  runWord .scalar (immLen imm) g (aluR 1 d a (· + imm.value 6)) s

/-- ANDI (R223): a AND imm, the immediate signed. -/
def execAndi (g d a : Nat) (imm : Imm) (s : State) : Out :=
  runWord .scalar (immLen imm) g (aluR 1 d a (· &&& imm.value 6)) s

/-- ORI (R223): a OR imm, the immediate signed. -/
def execOri (g d a : Nat) (imm : Imm) (s : State) : Out :=
  runWord .scalar (immLen imm) g (aluR 1 d a (· ||| imm.value 6)) s

/-- XORI (R223): a XOR imm, the immediate signed. -/
def execXori (g d a : Nat) (imm : Imm) (s : State) : Out :=
  runWord .scalar (immLen imm) g (aluR 1 d a (· ^^^ imm.value 6)) s

/-- MOVI (R223): d ← imm, signed. -/
def execMovi (g d : Nat) (imm : Imm) (s : State) : Out :=
  runWord .scalar (immLen imm) g (fun s => .ok (s.wx 1 d (imm.value 12))) s

/-- SHLI (R223): a shifted left by n. -/
def execShli (g d a n : Nat) (s : State) : Out :=
  runWord .scalar 1 g (aluR 1 d a (shiftLeft · (word n))) s

/-- SHRI (R223): a shifted right, zeros in by n. -/
def execShri (g d a n : Nat) (s : State) : Out :=
  runWord .scalar 1 g (aluR 1 d a (shiftRight · (word n))) s

/-- SARI (R223): a shifted right, sign in by n. -/
def execSari (g d a n : Nat) (s : State) : Out :=
  runWord .scalar 1 g (aluR 1 d a (shiftArith · (word n))) s

/-- CLZ (R223): leading zero bits, 64 for 0. -/
def execClz (g d a : Nat) (s : State) : Out :=
  runWord .scalar 1 g (aluR 1 d a leadingZeros) s

/-- POPC (R223): the number of 1 bits. -/
def execPopc (g d a : Nat) (s : State) : Out :=
  runWord .scalar 1 g (aluR 1 d a popCount) s

/-- SEL (R224): d ← a if Pc, else b. -/
def execSel (g d a b c : Nat) (s : State) : Out :=
  runWord .scalar 2 g (fun s => do
    let x ← s.rx a
    let y ← s.rx b
    return s.wx 1 d (if s.ctx.pAt c then x else y)) s

/-- CMPEQ (R225): Pd ← a = b. -/
def execCmpeq (g d a b : Nat) (s : State) : Out :=
  runWord .scalar 1 g (cmpRR d a b (· == ·)) s

/-- CMPNE (R225): Pd ← a ≠ b. -/
def execCmpne (g d a b : Nat) (s : State) : Out :=
  runWord .scalar 1 g (cmpRR d a b (· != ·)) s

/-- CMPLT (R225): Pd ← a < b, signed. -/
def execCmplt (g d a b : Nat) (s : State) : Out :=
  runWord .scalar 1 g (cmpRR d a b BitVec.slt) s

/-- CMPLTU (R225): Pd ← a < b, unsigned. -/
def execCmpltu (g d a b : Nat) (s : State) : Out :=
  runWord .scalar 1 g (cmpRR d a b BitVec.ult) s

/-- CMPLE (R225): Pd ← a ≤ b, signed. -/
def execCmple (g d a b : Nat) (s : State) : Out :=
  runWord .scalar 1 g (cmpRR d a b BitVec.sle) s

/-- CMPLEU (R225): Pd ← a ≤ b, unsigned. -/
def execCmpleu (g d a b : Nat) (s : State) : Out :=
  runWord .scalar 1 g (cmpRR d a b BitVec.ule) s

/-- CMPEQI (R225): Pd ← a = imm. -/
def execCmpeqi (g d a : Nat) (imm : Imm) (s : State) : Out :=
  runWord .scalar (immLen imm) g (cmpR d a (· == imm.value 6)) s

/-- CMPLTI (R225): Pd ← a < imm, signed. -/
def execCmplti (g d a : Nat) (imm : Imm) (s : State) : Out :=
  runWord .scalar (immLen imm) g (cmpR d a (BitVec.slt · (imm.value 6))) s

end Sys2Proof.Machine
end

