-- ==== Sys2Proof/Machine/Control.lean ====
section
/-! DEFINITION. Class C: predicate logic, transfers, loops, pipelining, waits, the hardware stack, barriers, FENCE, CSRs and the
system words (09 R226 to R250; 11 R293 to R297; 13 R354 to R358). -/
namespace Sys2Proof.Machine

/-! ## Predicates (09 R226) -/

def predRR (d a b : Nat) (f : Bool → Bool → Bool) (s : State) : Except Stop State :=
  .ok (s.wp 1 d (f (s.ctx.pAt a) (s.ctx.pAt b)))

/-- PAND (R226). -/
def execPand (g d a b : Nat) (s : State) : Out := runWord .control 1 g (predRR d a b (· && ·)) s

/-- POR (R226). -/
def execPor (g d a b : Nat) (s : State) : Out := runWord .control 1 g (predRR d a b (· || ·)) s

/-- PXOR (R226). -/
def execPxor (g d a b : Nat) (s : State) : Out := runWord .control 1 g (predRR d a b xor) s

/-- PANDN (R226): a AND NOT b. -/
def execPandn (g d a b : Nat) (s : State) : Out := runWord .control 1 g (predRR d a b fun x y => x && !y) s

/-- PNOT (R226). -/
def execPnot (g d a : Nat) (s : State) : Out := runWord .control 1 g (fun s => .ok (s.wp 1 d (!s.ctx.pAt a))) s

/-- PSETI (R226). -/
def execPseti (g d v : Nat) (s : State) : Out := runWord .control 1 g (fun s => .ok (s.wp 1 d (v == 1))) s

/-- P0 to P15 as bits 0 to 15. -/
def predWord (c : Ctx) : Word :=
  word ((List.range 16).foldl (fun a k => if c.pAt k then a + 2 ^ k else a) 0)

/-- PTOX (R226). -/
def execPtox (g d : Nat) (s : State) : Out := runWord .control 1 g (fun s => .ok (s.wx 1 d (predWord s.ctx))) s

/-- XTOP (R226): P1 to P15 from the bits of a. -/
def execXtop (g a : Nat) (s : State) : Out :=
  runWord .control 1 g (fun s => do
    let x ← s.rx a
    return (List.range 15).foldl (fun s k => s.wp 1 (k + 1) (x.getLsbD (k + 1))) s) s

/-! ## Transfers (09 R227 to R232) -/

/-- The bundle's target is `pc`, to be checked; `pop` where the transfer leaves loops it jumps out of (R236). -/
def State.jump (s : State) (pc : Word) (pop : Bool) : State :=
  { s with bun := { s.bun with next := some pc, pop := pop, targets := s.bun.targets ++ [pc] } }

/-- An address fixed by an offset is checked whether or not the guard holds (R228). -/
def State.checkTarget (s : State) (pc : Word) : State := { s with bun := { s.bun with targets := s.bun.targets ++ [pc] } }

/-- Bundle address + 4 × offset. -/
def State.offTarget (s : State) (off : Word) : Word := s.bun.addr + 4 * off

/-- The address after the bundle's last word. -/
def State.afterBundle (s : State) : Word := s.bun.addr + BitVec.ofNat 64 (4 * s.bun.len)

def State.setNext (s : State) (pc : Word) (pop : Bool) : State := { s with bun := { s.bun with next := some pc, pop := pop } }

/-- NOP n (R229): the bundle's weight is n, whether or not the guard holds. -/
def execNop (g n : Nat) (s : State) : Out :=
  runWordPre .control 1 g (fun s => { s with bun := { s.bun with weight := n } }) .ok s

/-- BR (R227). -/
def execBr (g : Nat) (imm : Imm) (s : State) : Out :=
  runWordPre .control (immLen imm) g (fun s => s.checkTarget (s.offTarget (imm.value 18)))
    (fun s => .ok (s.setNext (s.offTarget (imm.value 18)) true)) s

/-- BRX (R227). -/
def execBrx (g a : Nat) (s : State) : Out :=
  runWord .control 1 g (fun s => do
    let x ← s.rx a
    return s.jump x true) s

/-- CALL (R227): X1 takes the address after the bundle, at latency 1. -/
def execCall (g : Nat) (imm : Imm) (s : State) : Out :=
  runWordPre .control (immLen imm) g (fun s => s.checkTarget (s.offTarget (imm.value 18)))
    (fun s => .ok ((s.wx 1 1 s.afterBundle).setNext (s.offTarget (imm.value 18)) false)) s

/-- CALLX (R227). -/
def execCallx (g a : Nat) (s : State) : Out :=
  runWord .control 1 g (fun s => do
    let x ← s.rx a
    return (s.wx 1 1 s.afterBundle).jump x false) s

/-- RET (R227). -/
def execRet (g a : Nat) (s : State) : Out :=
  runWord .control 1 g (fun s => do
    let x ← s.rx a
    return s.jump x false) s

/-- TEND (R230): the member ends at the commit. -/
def execTend (g : Nat) (s : State) : Out :=
  runWord .control 1 g (fun s => .ok { s with bun := { s.bun with tend := true } }) s

/-- TRAP (R231): trap entry at the commit, with the code. -/
def execTrap (g code : Nat) (s : State) : Out :=
  runWord .control 1 g (fun s => .ok { s with bun := { s.bun with trap := some code } }) s

/-! ## Loops (09 R233 to R238) -/

/-- LOOP and LOOPI with trip count `n` and last bundle `off` words on (R234). -/
def openLoop (n : Word) (off : Nat) (s : State) : Except Stop State := do
  let last := s.bun.addr + word (4 * off)
  need (s.ctx.loops.length < 4) (flt .FM 13)
  if n = 0 then return s.setNext (word (s.bundleEnd s.task 8 last.toNat)) false
  return { s with bun := { s.bun with push := some ⟨s.afterBundle, last, some n⟩ } }

/-- LOOP (R234): the trip count from Xa. -/
def execLoop (g a off : Nat) (s : State) : Out :=
  runWordPre .control 1 g (fun s => s.checkTarget (s.bun.addr + word (4 * off)))
    (fun s => do
      let n ← s.rx a
      openLoop n off s) s

/-- LOOPI (R234): the trip count in the word. -/
def execLoopi (g n off : Nat) (s : State) : Out :=
  runWordPre .control 1 g (fun s => s.checkTarget (s.bun.addr + word (4 * off))) (openLoop (word n) off) s

/-- No entry below the one before it. -/
def nonDecreasing : List Nat → Bool
  | a :: b :: l => a ≤ b && nonDecreasing (b :: l)
  | _ => true

/-- LOOPT (R237, R238): a traverse loop over the stream at Xa of Xb rows. -/
def execLoopt (g d a b off : Nat) (s : State) : Out :=
  runWordPre .control 2 g (fun s => s.checkTarget (s.bun.addr + word (4 * off)))
    (fun s => do
      let x ← s.rx a
      let r ← s.rx b
      need (s.ctx.loops.length < 4 && s.ctx.trav.isNone) (flt .FM 13)
      need (r.toNat ≤ 4095) (flt .FM 14)
      let reg := s.slotRegion false
      let n := 4 * (r.toNat + 1)
      let o ← reg.check x.toNat n 4
      s.raceCore [reg.touch o n] []
      let s := (← s.readCheck (reg.base + o) n).commitOrder
      let ps := (List.range (r.toNat + 1)).map fun i => memNat s.mem (reg.base + o + 4 * i) 4
      need (nonDecreasing ps) (flt .FM 14)
      let last := s.bun.addr + word (4 * off)
      let first := ps.headD 0
      if ps.getLastD 0 = first then return s.setNext (word (s.bundleEnd s.task 8 last.toNat)) false
      return { s with bun := { s.bun with
        push := some ⟨s.afterBundle, last, none⟩, trav := some ⟨ps, d, first, rowOf ps 0 first⟩ } }) s

/-- The stage window P8 to P15 as a number, P8 in bit 0. -/
def stageWindow (c : Ctx) : Nat := (List.range 8).foldl (fun a j => if c.pAt (8 + j) then a + 2 ^ j else a) 0

/-- The stage window written at latency 1. -/
def State.setWindow (s : State) (w : Nat) : State := (List.range 8).foldl (fun s j => s.wp 1 (8 + j) (w.testBit j)) s

/-- PIPE (R239). -/
def execPipe (g a stages : Nat) (s : State) : Out :=
  runWord .control 1 g (fun s => do
    let n ← s.rx a
    let s := s.post 1 (.csr 0x011 (if n = 0 then 0 else n - 1))
    let s := s.post 1 (.csr 0x012 (word stages))
    let s := s.post 1 (.csr 0x010 0)
    return s.setWindow (if n = 0 then 0 else 1)) s

/-- LCLOSE (R240): the window shifts, RRB steps down, and the branch is taken while an iteration is live, all at the commit. -/
def execLclose (g : Nat) (imm : Imm) (s : State) : Out :=
  runWordPre .control (immLen imm) g (fun s => s.checkTarget (s.offTarget (imm.value 18)))
    (fun s =>
      let c := s.ctx
      let fresh := if c.lcnt = 0 then 0 else 1
      let w := (stageWindow c * 2 + fresh) % 2 ^ c.sdepth.toNat % 256
      let s := { s with bun := { s.bun with close := some (if c.lcnt = 0 then 0 else c.lcnt - 1, w, c.rrb - 1) } }
      .ok (if w ≠ 0 then s.setNext (s.offTarget (imm.value 18)) true else s)) s

/-! ## Waits (09 R242, R243) -/

/-- WAITANY (R242). -/
def execWaitany (g d a : Nat) (s : State) : Out :=
  runWord .control 1 g (fun s => do
    let m ← s.rx a
    let v := s.task.tagsWord s.ctx.core &&& m
    need (v != 0 || m == 0) (.block (.tagsAny m))
    let s ← s.joinTags v
    return s.wx 1 d v) s

/-- WAITALL (R242). -/
def execWaitall (g d a : Nat) (s : State) : Out :=
  runWord .control 1 g (fun s => do
    let m ← s.rx a
    let v := s.task.tagsWord s.ctx.core &&& m
    need (v == m) (.block (.tagsAll m))
    let s ← s.joinTags v
    return s.wx 1 d v) s

/-- FFRDY (R242): the lowest ready tag, joined, or 64. -/
def execFfrdy (g d a : Nat) (s : State) : Out :=
  runWord .control 1 g (fun s => do
    let m ← s.rx a
    let k := lowestOne (s.task.tagsWord s.ctx.core &&& m).toNat 64
    let s ← if k < 64 then s.joinTags (word (2 ^ k)) else pure s
    return s.wx 1 d (word k)) s

/-! ## The hardware stack (09 R244, R245) -/

/-- PUSHM (R245): the stores perform and SP moves at the commit. -/
def execPushm (g a b : Nat) (s : State) : Out :=
  runWord .control 1 g (fun s => do
    let n := b + 1 - a
    let sp := s.ctx.sp.toNat
    need (8 * n ≤ sp && sp ≤ 8192) (flt .LS 7)
    let vs ← (List.range n).mapM fun i => s.rx (a + i)
    let s := (s.store (stackAddr s.me (sp - 8 * n)) (vs.flatMap fun v => natLe 8 v.toNat)).commitOrder
    return s.putCtx (s.ctx.apply (.csr 0x013 (word (sp - 8 * n))))) s

/-- POPM (R245): the registers at latency 3, SP at latency 1; AC-02 on a poisoned line (23 R476). -/
def execPopm (g a b : Nat) (s : State) : Out :=
  runWord .control 1 g (fun s => do
    let n := b + 1 - a
    let sp := s.ctx.sp.toNat
    need (sp + 8 * n ≤ 8192) (flt .LS 7)
    let s := (← s.readCheck (stackAddr s.me sp) (8 * n)).commitOrder
    let s := (List.range n).foldl (fun s i => s.wx 3 (a + i) (word (memNat s.mem (stackAddr s.me (sp + 8 * i)) 8))) s
    return s.post 1 (.csr 0x013 (word (sp + 8 * n)))) s

/-! ## Team barriers (11 R295 to R297) -/

def Task.bar (t : Task) (b : Nat) : Barrier := t.bars.getD b { phase := 0, arrived := [] }

/-- BARA (R296): FM-18 for a second arrival; the last arrival completes the phase. -/
def execBara (g d b : Nat) (s : State) : Out :=
  runWord .controlMain 1 g (fun s => do
    let t := s.task
    let r := t.bar b
    need (!r.arrived.contains s.ctx.member) (flt .FM 18)
    let r' := settleBar (s.memberEnds t)
      { r with arrived := s.ctx.member :: r.arrived, before := union r.before (s.undone s.ctx.before) }
    let s := s.putTask { t with bars := t.bars.set b r' }
    return s.wx 1 d (r.phase.setWidth 64)) s

/-- BARW (R297): passes when the member has not arrived in the current phase. -/
def execBarw (g b : Nat) (s : State) : Out :=
  runWord .controlMain 1 g (fun s => do
    let r := s.task.bar b
    need (!r.arrived.contains s.ctx.member) (.block (.barrier b (r.phase.setWidth 64)))
    return if r.passed.isEmpty then s
      else s.putCtx { s.ctx with before := union s.ctx.before (s.undone r.passed) }) s

/-- Every counter operation of the context itself has performed: what an acquiring fence waits for (11 R294). -/
def State.cellsSettled (s : State) : Bool :=
  s.ops.all fun o => !(o.cid == s.me) || (match o.kind with | .counter c => c.performed | _ => true)

/-- What a fence of order `ord` at scope 3 to 6 waits for (11 R294; 07 R186, R187): an acquire for the context's own counter
operations, a release for every write to a wide home that happens before it, whoever made it; the others for both. Every other write
to a wide home is visible as it lands (log entry 9). -/
def State.fencePasses (s : State) (ord : Nat) : Bool :=
  (ord = 1 || s.cellsSettled) && (ord = 0 || (s.unseen s.ctx.before).isEmpty)

/-- FENCE (11 R293, R294). -/
def execFence (g ord scope : Nat) (s : State) : Out :=
  runWord .fence 1 g (fun s => do
    need (scope ≤ 2 || s.fencePasses ord) .stall
    return s) s

/-! ## CSRs (09 R246 to R250, 13 R354) -/

/-- STATUS (09 R247). -/
def statusWord (c : Ctx) : Word :=
  word (c.inTrap.toNat + 2 * c.trav.isSome.toNat + 4 * c.loops.length)

/-- The core of a context's last placement: an evacuated team keeps it until it resumes (01 R12). A lookup core has no TEAMINFO (09
R246), and no place in its fields. -/
def Task.seatOf (t : Task) (core : Nat) : Nat :=
  let c := if 432 ≤ core then t.seat.getD (core - 432) 0 else core
  if c < 384 then c else 0

/-- TEAMINFO (01 R12). -/
def State.teamInfo (s : State) : Word :=
  let c := s.ctx
  let t := s.task
  let k := t.seatOf c.core
  word (c.member + 256 * t.size + 16384 * c.slot + 65536 * (k % 8) + 524288 * (k / 8 % 8) +
    4194304 * (k / 64 % 3) + 16777216 * (k / 192) + 2 ^ 32 * t.p + 2 ^ 38 * t.prio + 2 ^ 40 * (t.seq % 2 ^ 24))

/-- Whether a draining command that names queue `q` of `core`, of a bundle that has committed, is pending (06 R146). -/
def State.draining (s : State) (core q : Nat) : Bool :=
  s.ops.any fun o => o.core == core && o.tid == s.ctx.tid && o.id < s.bun.firstOp &&
    (match o.kind with
     | .matrix (.mmul c) _ => (match c.drain with | some d => d.q == q | none => false)
     | .matrix (.mdrain d) _ => d.q == q
     | _ => false)

/-- QSTATq (06 R147). -/
def State.qstat (s : State) (core q : Nat) : Word :=
  let r := (s.coreAt core).arr.queues.getD q .empty
  word (r.slabs.length + 32 * r.nan.toNat + 64 * r.sat.toNat + 128 * r.retried.toNat + 256 * (s.draining core q).toNat +
    65536 * (r.drains % 65536))

/-- The value of a CSR (09 R246). -/
def State.csr (s : State) (n : Nat) : Word :=
  let c := s.ctx
  if 0x038 ≤ n && n ≤ 0x03F then s.qstat c.core (n - 0x038)
  else
    match n with
    | 0x000 => statusWord c
    | 0x001 => c.trapvec
    | 0x002 => c.epc
    | 0x003 => c.cause
    | 0x004 => c.fdet
    | 0x005 => c.ftypeA
    | 0x006 => c.ftypeB
    | 0x007 => c.fcmd
    | 0x008 => c.fscr0
    | 0x009 => c.fscr1
    | 0x010 => c.rrb.setWidth 64
    | 0x011 => c.lcnt
    | 0x012 => c.sdepth.setWidth 64
    | 0x013 => c.sp
    | 0x020 => s.task.tagsWord c.core
    | 0x021 => s.teamInfo
    | 0x022 => s.task.stableWait
    | 0x030 => c.rngctl
    | 0x031 => c.rngposc
    | 0x032 => c.rngpose
    | 0x040 => word s.cycle
    | 0x041 => word c.bidx
    | _ => 0

/-- A CSR that a lookup core lacks raises EN-02 there (09 R246). -/
def csrPre (n : Nat) (s : State) : State :=
  if 384 ≤ s.ctx.core && !csrOnLookup n then s.stopAt (.fault (enFault 2 s.bun.word s.bun.addr.toNat)) else s

/-- CSRR (R354): a read of TAGS joins what it returns as complete (02 R64), one of QSTATq the completed drains into q, for ordering
only (06 R147). -/
def execCsrr (g d csr : Nat) (s : State) : Out :=
  runWordPre .control 1 g (csrPre csr) (fun s => do
    let v := s.csr csr
    let s ← if csr = 0x020 then s.joinTags v else pure s
    let s := if 0x038 ≤ csr && csr ≤ 0x03F then s.joinDone fun e => e.q == some (csr - 0x038) else s
    return s.wx 1 d v) s

/-- The status bits of QSTATq that are 1 in `m` are cleared (06 R147, W1C). -/
def State.clearQstat (s : State) (core q : Nat) (m : Word) : State :=
  s.modArr core fun a =>
    let r := a.queues.getD q .empty
    let r := { r with nan := r.nan && !m.getLsbD 5, sat := r.sat && !m.getLsbD 6, retried := r.retried && !m.getLsbD 7 }
    { a with queues := a.queues.set q r }

/-- A CSR written with `v`; `m` holds the bits that clear W1C fields. RO fields are not changed. -/
def State.writeCsr (s : State) (n : Nat) (v m : Word) : State :=
  if 0x038 ≤ n && n ≤ 0x03F then s.clearQstat s.ctx.core (n - 0x038) m
  else if n = 0x022 then s.putTask { s.task with stableWait := v &&& 0xFFFFFFFF }
  else s.post 1 (.csr n v)

/-- CSRW (R354). -/
def execCsrw (g a csr : Nat) (s : State) : Out :=
  runWordPre .control 1 g (csrPre csr) (fun s => do
    let x ← s.rx a
    return s.writeCsr csr x x) s

/-- CSRS (R354): a W1C field is unchanged. -/
def execCsrs (g a csr : Nat) (s : State) : Out :=
  runWordPre .control 1 g (csrPre csr) (fun s => do
    let x ← s.rx a
    return s.writeCsr csr (s.csr csr ||| x) 0) s

/-- CSRC (R354). -/
def execCsrc (g a csr : Nat) (s : State) : Out :=
  runWordPre .control 1 g (csrPre csr) (fun s => do
    let x ← s.rx a
    return s.writeCsr csr (s.csr csr &&& ~~~x) x) s

/-! ## System words (13 R355 to R358) -/

/-- A reply that a result of the handler's own bundles still waits for: one in flight, or one whose point has passed (08 R206). -/
def Ctx.awaitsReply (c : Ctx) : Bool :=
  (c.inflight.any fun f => match f.res with
    | .xReply _ _ => true
    | _ => false) ||
  c.unready.any fun e => c.captured.any fun k => k.firstOp ≤ e.2

/-- TRET (R355): PV-01 outside a handler; issue waits until the handler's own results are written (08 R206). -/
def execTret (g : Nat) (s : State) : Out :=
  runWord .control 1 g (fun s => do
    need s.ctx.inTrap (flt .PV 1)
    need (!s.ctx.awaitsReply) .stall
    return { s with bun := { s.bun with tret := true } }) s

/-- DBRK (R356): the team halts for the debugger, which receives the code and the bundle's address; PV-02 without a session. -/
def execDbrk (g code : Nat) (s : State) : Out :=
  runWord .control 1 g (fun s => do
    need (s.paddockAt s.task.p).session (flt .PV 2)
    return s.putTask { s.task with debugHalt := some (code, s.bun.addr.toNat) }) s

/-- Whether two boxes touch a common tile (02 R57). -/
def tilesMeet : List (Nat × Nat) → List (Nat × Nat) → List Nat → Bool
  | (a, b) :: x, (c, d) :: y, l :: tl => a / 2 ^ l ≤ d / 2 ^ l && c / 2 ^ l ≤ b / 2 ^ l && tilesMeet x y tl
  | [], [], _ => true
  | _, _, _ => false

/-- LQRY (R358). -/
def execLqry (g d a : Nat) (s : State) : Out :=
  runWord .control 1 g (fun s => do
    let x ← s.rx a
    let t := s.task
    let v := match t.leases[x.toNat % 16]? with
      | none => 0
      | some l =>
        let tl := match s.window t.p l.win with
          | some w => w.tlog
          | none => []
        let susp := (s.delegated t.tid).any fun k => k.win == l.win && tilesMeet l.box k.box tl
        1 + 2 * l.rd.toNat + 4 * l.wr.toNat + 8 * susp.toNat + 16 * l.deleg.toNat + 256 * (l.win % 4096)
    return s.wx 1 d (word v)) s

end Sys2Proof.Machine
end

