-- ==== Sys2Proof/Machine/Operands.lean ====
section
/-! DEFINITION. Operand forms: the address of a memory slot, the size of an atomic, the cell operand, the footprint of a queue
store, and which registers a word reads and writes (08 R201; 11 R283, R287 to R290, R299). -/
namespace Sys2Proof.Machine

/-- Where a memory-slot access of `n` bytes goes: the region and the offset, checked for alignment and bounds (11 R283). -/
def State.slotAddr (s : State) (mb : Bool) (x off : Word) (n : Nat) : Except Stop (Region × Nat) := do
  let reg := s.slotRegion mb
  let o ← reg.check (x + off * word n).toInt n n
  return (reg, o)

/-- A value of `n` bytes extended to 64 bits. -/
def extend (signed : Bool) (n v : Nat) : Word :=
  if signed then BitVec.ofInt 64 (codeInt (8 * n) v) else word v

/-- The size of an atomic: 8 bytes, or 4 with size code 1 (11 R287). -/
def atomicSize (size : Option Nat) : Nat := if size == some 1 then 4 else 8

/-- The number of words of a form whose X word may be absent. -/
def optLen {α : Type} (x : Option α) : Nat := if x.isSome then 2 else 1

/-- The paddock's cell `c`: its address, when a frame is configured for it (11 R289). -/
def State.cellAddr (s : State) (p c : Nat) : Option Nat :=
  match amGet (s.paddockAt p).cells (c / 8192) with
  | none => none
  | some f => (s.framePlace f).map (· + 8 * (c % 8192))

/-- The cell operand of 11 R289: the module where it is another one, and the cell; FM-17, FB-02, LS-08 in that order. A remote
operand that names this module names a cell here. The domain's other members and their counter frames are Config's. -/
def State.cellOperand (s : State) (x : Word) (scope : Nat) : Except Stop (Option Nat × Nat) := do
  let v := x.toNat
  let c := bits v 0 16
  let m := bits v 16 9
  let remote := bits v 25 1 == 1
  need (bits v 26 38 == 0 && (remote || m == 0) && (!remote || 5 ≤ scope)) (flt .FM 17)
  if remote && m != s.module then
    need (Config.inDomain m) (flt .FB 2)
    need (Config.remoteCell m s.task.p c) (flt .LS 8)
    return (some m, c)
  else
    need (s.cellAddr s.task.p c).isSome (flt .LS 8)
    return (none, c)

/-! ## Register sets for EN-05 and EN-09 (08 R201) -/

/-- A register as 08 R202 numbers files: 0 X, 1 P, 2 V, 3 T, 4 D, 5 engine register (MX from 64), 6 CSR. -/
abbrev RegName := Nat × Nat

/-- The third source and the mask of an X word. -/
def vOpt : Option VX → List Nat
  | none => []
  | some x => (if x.cv = 1 then [x.vc] else []) ++ if x.mv = 1 then [x.vm] else []

/-- The registers a word reads and writes, guard and implicit operands included, after rotation. -/
def regUse (rrb : BitVec 4) (i : Instr) : List RegName × List RegName :=
  let x (k : Nat) : RegName := (0, physX rrb k)
  let p (k : Nat) : RegName := (1, k)
  let v (k : Nat) : RegName := (2, k)
  let t (k : Nat) : RegName := (3, k)
  let dd (k : Nat) : RegName := (4, k)
  match i with
  | .add g d a b => (p g :: [x a, x b], [x d])
  | .sub g d a b => (p g :: [x a, x b], [x d])
  | .addi g d a _ => (p g :: [x a], [x d])
  | .movi g d _ => ([p g], [x d])
  | .mul g d a b => (p g :: [x a, x b], [x d])
  | .mulh g d a b => (p g :: [x a, x b], [x d])
  | .mulhu g d a b => (p g :: [x a, x b], [x d])
  | .and g d a b => (p g :: [x a, x b], [x d])
  | .or g d a b => (p g :: [x a, x b], [x d])
  | .xor g d a b => (p g :: [x a, x b], [x d])
  | .andn g d a b => (p g :: [x a, x b], [x d])
  | .andi g d a _ => (p g :: [x a], [x d])
  | .ori g d a _ => (p g :: [x a], [x d])
  | .xori g d a _ => (p g :: [x a], [x d])
  | .shl g d a b => (p g :: [x a, x b], [x d])
  | .shr g d a b => (p g :: [x a, x b], [x d])
  | .sar g d a b => (p g :: [x a, x b], [x d])
  | .shli g d a _ => (p g :: [x a], [x d])
  | .shri g d a _ => (p g :: [x a], [x d])
  | .sari g d a _ => (p g :: [x a], [x d])
  | .clz g d a => (p g :: [x a], [x d])
  | .popc g d a => (p g :: [x a], [x d])
  | .min g d a b => (p g :: [x a, x b], [x d])
  | .max g d a b => (p g :: [x a, x b], [x d])
  | .minu g d a b => (p g :: [x a, x b], [x d])
  | .maxu g d a b => (p g :: [x a, x b], [x d])
  | .sel g d a b c => (p g :: [x a, x b, p c], [x d])
  | .bfx g d a b => (p g :: [x a, x b], [x d])
  | .bfi g d a b => (p g :: [x a, x b, x d], [x d])
  | .cmpeq g d a b => (p g :: [x a, x b], [p d])
  | .cmpne g d a b => (p g :: [x a, x b], [p d])
  | .cmplt g d a b => (p g :: [x a, x b], [p d])
  | .cmpltu g d a b => (p g :: [x a, x b], [p d])
  | .cmple g d a b => (p g :: [x a, x b], [p d])
  | .cmpleu g d a b => (p g :: [x a, x b], [p d])
  | .cmpeqi g d a _ => (p g :: [x a], [p d])
  | .cmplti g d a _ => (p g :: [x a], [p d])
  | .nop g _ => ([p g], [])
  | .br g _ => ([p g], [])
  | .brx g a => (p g :: [x a], [])
  | .call g _ => ([p g], [x 1])
  | .callx g a => (p g :: [x a], [x 1])
  | .ret g a => (p g :: [x a], [])
  | .tend g => ([p g], [])
  | .trap g _ => ([p g], [])
  | .loop g a _ => (p g :: [x a], [])
  | .loopi g _ _ => ([p g], [])
  | .loopt g d a b _ => (p g :: [x a, x b], [x d, x (d + 1), p 6, p 7])
  | .pipe g a _ => (p g :: [x a], [])
  | .lclose g _ => ([p g], [])
  | .pand g d a b => (p g :: [p a, p b], [p d])
  | .por g d a b => (p g :: [p a, p b], [p d])
  | .pxor g d a b => (p g :: [p a, p b], [p d])
  | .pandn g d a b => (p g :: [p a, p b], [p d])
  | .pnot g d a => (p g :: [p a], [p d])
  | .pseti g d _ => ([p g], [p d])
  | .ptox g d => (p g :: ((List.range 16).map p), [x d])
  | .xtop g a => (p g :: [x a], (List.range 16).map p)
  | .waitany g d a => (p g :: [x a], [x d])
  | .waitall g d a => (p g :: [x a], [x d])
  | .ffrdy g d a => (p g :: [x a], [x d])
  | .pushm g a b => (p g :: ((6, 0x013) :: (List.range (b + 1 - a)).map fun k => x (a + k)), [(6, 0x013)])
  | .popm g a b => (p g :: [(6, 0x013)], (6, 0x013) :: (List.range (b + 1 - a)).map fun k => x (a + k))
  | .bara g d _ => ([p g], [x d])
  | .barw g _ => ([p g], [])
  | .fence g _ _ => ([p g], [])
  | .csrr g d csr => (p g :: [(6, csr)], [x d])
  | .csrw g a csr => (p g :: [x a], [(6, csr)])
  | .csrs g a csr => (p g :: [x a, (6, csr)], [(6, csr)])
  | .csrc g a csr => (p g :: [x a, (6, csr)], [(6, csr)])
  | .tret g => ([p g], [])
  | .dbrk g _ => ([p g], [])
  | .regwb g a => (p g :: [x a], [])
  | .lqry g d a => (p g :: [x a], [x d])
  | .vadd g o => (p g :: (v o.a :: (if o.s = 1 then x o.b else v o.b) :: (vOpt o.x).map v), [v o.d])
  | .vsub g o => (p g :: (v o.a :: (if o.s = 1 then x o.b else v o.b) :: (vOpt o.x).map v), [v o.d])
  | .vmul g o => (p g :: (v o.a :: (if o.s = 1 then x o.b else v o.b) :: (vOpt o.x).map v), [v o.d])
  | .vfma g o => (p g :: (v o.a :: (if o.s = 1 then x o.b else v o.b) :: (vOpt o.x).map v), [v o.d])
  | .vdiv g o => (p g :: (v o.a :: (if o.s = 1 then x o.b else v o.b) :: (vOpt o.x).map v), [v o.d])
  | .vmin g o => (p g :: (v o.a :: (if o.s = 1 then x o.b else v o.b) :: (vOpt o.x).map v), [v o.d])
  | .vmax g o => (p g :: (v o.a :: (if o.s = 1 then x o.b else v o.b) :: (vOpt o.x).map v), [v o.d])
  | .vneg g o => (p g :: (v o.a :: (vOpt o.x).map v), [v o.d])
  | .vabs g o => (p g :: (v o.a :: (vOpt o.x).map v), [v o.d])
  | .vand g o => (p g :: (v o.a :: (if o.s = 1 then x o.b else v o.b) :: (vOpt o.x).map v), [v o.d])
  | .vor g o => (p g :: (v o.a :: (if o.s = 1 then x o.b else v o.b) :: (vOpt o.x).map v), [v o.d])
  | .vxor g o => (p g :: (v o.a :: (if o.s = 1 then x o.b else v o.b) :: (vOpt o.x).map v), [v o.d])
  | .vshl g o => (p g :: (v o.a :: (if o.s = 1 then x o.b else v o.b) :: (vOpt o.x).map v), [v o.d])
  | .vshr g o => (p g :: (v o.a :: (if o.s = 1 then x o.b else v o.b) :: (vOpt o.x).map v), [v o.d])
  | .vsar g o => (p g :: (v o.a :: (if o.s = 1 then x o.b else v o.b) :: (vOpt o.x).map v), [v o.d])
  | .vsel g o => (p g :: (v o.a :: (if o.s = 1 then x o.b else v o.b) :: (vOpt o.x).map v), [v o.d])
  | .vcmpeq g o => (p g :: (v o.a :: (if o.s = 1 then x o.b else v o.b) :: (vOpt o.x).map v), [v o.d])
  | .vcmpne g o => (p g :: (v o.a :: (if o.s = 1 then x o.b else v o.b) :: (vOpt o.x).map v), [v o.d])
  | .vcmplt g o => (p g :: (v o.a :: (if o.s = 1 then x o.b else v o.b) :: (vOpt o.x).map v), [v o.d])
  | .vcmple g o => (p g :: (v o.a :: (if o.s = 1 then x o.b else v o.b) :: (vOpt o.x).map v), [v o.d])
  | .vcvt g _ d _ a _ _ _ => (p g :: [v a], [v d])
  | .vrco g d a => (p g :: [v a], [v d])
  | .vmov g d a => (p g :: [v a], [v d])
  | .vsplat g _ d a b => (p g :: [x a, x b], [v d])
  | .vrot g _ d a b => (p g :: [v a, x b], [v d])
  | .vbcst g d a b => (p g :: [v a, x b], [v d])
  | .vred g d _ a _ mask => (p g :: (v a :: ((mask.getD none).toList).map v), [v d])
  | .vscan g _ d _ a => (p g :: [v a], [v d])
  | .vexpd g _ d a b => (p g :: [v a, v b], [v d])
  | .vsetch g d a b => (p g :: [v a, x b], [v d])
  | .vgetch g d a => (p g :: [v a], [v d])
  | .vpopq g d _ => ([p g], [v d])
  | .vcrot g d a b => (p g :: [v a, x b], [v d])
  | .vcbcst g d a b => (p g :: [v a, x b], [v d])
  | .vcred g _ d _ a _ => (p g :: [v a], [v d])
  | .vcscan g _ d _ a _ => (p g :: [v a], [v d])
  | .vldl g _ d a b => (p g :: [v a, x b], [v d])
  | .vstl g a b => (p g :: [v a, v b], [])
  | .vopt g r _ gr h => (p g :: [x r, x h, v gr], [])
  | .vextr g d a b => (p g :: [v a, x b], [x d])
  | .frcp g _ d _ a _ => (p g :: [v a], [v d])
  | .frsq g _ d _ a _ => (p g :: [v a], [v d])
  | .fsqrt g _ d _ a _ => (p g :: [v a], [v d])
  | .fexp g _ d _ a _ => (p g :: [v a], [v d])
  | .fexp2 g _ d _ a _ => (p g :: [v a], [v d])
  | .flog g _ d _ a _ => (p g :: [v a], [v d])
  | .flog2 g _ d _ a _ => (p g :: [v a], [v d])
  | .ftanh g _ d _ a _ => (p g :: [v a], [v d])
  | .fsig g _ d _ a _ => (p g :: [v a], [v d])
  | .fsin g _ d _ a _ => (p g :: [v a], [v d])
  | .fcos g _ d _ a _ => (p g :: [v a], [v d])
  | .frand g d a => (p g :: [x a], [v d])
  | .ldb g d a _ => (p g :: [x a], [x d])
  | .ldbu g d a _ => (p g :: [x a], [x d])
  | .ldh g d a _ => (p g :: [x a], [x d])
  | .ldhu g d a _ => (p g :: [x a], [x d])
  | .ldw g d a _ => (p g :: [x a], [x d])
  | .ldwu g d a _ => (p g :: [x a], [x d])
  | .ldd g d a _ => (p g :: [x a], [x d])
  | .lda g d a _ => (p g :: [x a], [x d])
  | .stb g src a _ => (p g :: [x src, x a], [])
  | .sth g src a _ => (p g :: [x src, x a], [])
  | .stw g src a _ => (p g :: [x src, x a], [])
  | .std g src a _ => (p g :: [x src, x a], [])
  | .strl g src a _ => (p g :: [x src, x a], [])
  | .aadd g d a b _ => (p g :: [x a, x b], [x d])
  | .aswp g d a b _ => (p g :: [x a, x b], [x d])
  | .acas g d a b _ => (p g :: [x a, x b, x d], [x d])
  | .amin g d a b _ => (p g :: [x a, x b], [x d])
  | .amax g d a b _ => (p g :: [x a, x b], [x d])
  | .aminu g d a b _ => (p g :: [x a, x b], [x d])
  | .amaxu g d a b _ => (p g :: [x a, x b], [x d])
  | .qpops g _ a b skip => (p g :: (x a :: x b :: ((skip.getD none).toList).map p), [])
  | .tlds g t_ a _ => (p g :: [x a], [t t_])
  | .tsts g t_ a _ => (p g :: [x a, t t_], [])
  | .vldr g d a b _ _ => (p g :: [x a, x b], [v d])
  | .vstx g a src _ _ _ _ => (p g :: [x a, v src], [])
  | .vpack g a src => (p g :: [x a, v src], [])
  | .vunpack g d a => (p g :: [x a], [v d])
  | .ldbCm g d a _ => (p g :: [x a], [x d])
  | .ldbuCm g d a _ => (p g :: [x a], [x d])
  | .ldhCm g d a _ => (p g :: [x a], [x d])
  | .ldhuCm g d a _ => (p g :: [x a], [x d])
  | .ldwCm g d a _ => (p g :: [x a], [x d])
  | .ldwuCm g d a _ => (p g :: [x a], [x d])
  | .lddCm g d a _ => (p g :: [x a], [x d])
  | .ldaCm g d a _ => (p g :: [x a], [x d])
  | .stbCm g src a _ => (p g :: [x src, x a], [])
  | .sthCm g src a _ => (p g :: [x src, x a], [])
  | .stwCm g src a _ => (p g :: [x src, x a], [])
  | .stdCm g src a _ => (p g :: [x src, x a], [])
  | .strlCm g src a _ => (p g :: [x src, x a], [])
  | .aaddCm g d a b _ => (p g :: [x a, x b], [x d])
  | .aswpCm g d a b _ => (p g :: [x a, x b], [x d])
  | .acasCm g d a b _ => (p g :: [x a, x b, x d], [x d])
  | .aminCm g d a b _ => (p g :: [x a, x b], [x d])
  | .amaxCm g d a b _ => (p g :: [x a, x b], [x d])
  | .aminuCm g d a b _ => (p g :: [x a, x b], [x d])
  | .amaxuCm g d a b _ => (p g :: [x a, x b], [x d])
  | .qpopsCm g _ a b skip => (p g :: (x a :: x b :: ((skip.getD none).toList).map p), [])
  | .tldsCm g t_ a => (p g :: [x a], [t t_])
  | .tstsCm g t_ a => (p g :: [x a, t t_], [])
  | .cadd g d a b _ _ _ => (p g :: [x a, x b], [x d])
  | .cswp g d a b _ _ _ => (p g :: [x a, x b], [x d])
  | .ccas g d a b _ _ _ => (p g :: [x a, x b, x d], [x d])
  | .cmin g d a b _ _ _ => (p g :: [x a, x b], [x d])
  | .cmax g d a b _ _ _ => (p g :: [x a, x b], [x d])
  | .cld g d a _ _ _ => (p g :: [x a], [x d])
  | .tsett g t_ a => (p g :: [x a], [t t_])
  | .tgett g d t_ => (p g :: [t t_], [x d])
  | .dbind g d a => (p g :: [x a], [dd d])
  | .drebind g d a => (p g :: [x a], [dd d])
  | .dclr g m => ([p g], ((List.range 16).filter m.testBit).map dd)
  | .dget g d a => (p g :: [dd a], [x d])
  | .tflag g t_ _ _ => (p g :: [t t_], [t t_])
  | .tzero g t_ => ([p g], [t t_])
  | .tmov g d a => (p g :: [t a], [t d])
  | .treshp g d a b _ => (p g :: [t a, x b], [t d])
  | .ttrans g d a _ => (p g :: [t a], [t d])
  | .tcast g d a _ _ => (p g :: [t a], [t d])
  | .tcvt g d a _ _ _ _ => (p g :: [t a], [t d])
  | .tqnt g d a _ _ _ _ => (p g :: [t a], [t d])
  | .tdqnt g d a _ _ _ _ => (p g :: [t a], [t d])
  | .tcmpr g d a e _ => (p g :: [t a], [t d, t e])
  | .mlds g a _ => (p g :: [t a], [])
  | .mswap g _ => ([p g], [])
  | .mmul g _ a start c _ _ _ _ => (p g :: (t a :: (if start = 1 then [t c] else [])), [])
  | .mmuln g a start c _ => (p g :: (t a :: (if start = 1 then [t c] else [])), [])
  | .mmulS g _ a start c _ _ _ _ m => (p g :: (t a :: t m :: (if start = 1 then [t c] else [])), [])
  | .mmulnS g a start c _ m => (p g :: (t a :: t m :: (if start = 1 then [t c] else [])), [])
  | .mdrain g _ _ _ _ _ => ([p g], [])
  | .mxw g reg a => (p g :: [x a], [(5, 64 + reg)])
  | .mxr g d reg => (p g :: [(5, 64 + reg)], [x d])
  | .cew g reg a => (p g :: [x a], [(5, reg)])
  | .cewi g reg _ => ([p g], [(5, reg)])
  | .cer g d reg => (p g :: [(5, reg)], [x d])
  | .cerst g => ([p g], (List.range 32).map fun k => (5, k))
  | .copy g _ a b => (p g :: [x a, x b], [])
  | .ymatch g vs a b _ => (p g :: [v vs, x a, x b], [])
  | .ymerge g vs a _ => (p g :: [v vs, x a], [])
  | .yunmerge g a _ => (p g :: [x a], [])
  | .yretire g a _ => (p g :: [x a], [])
  | .ystat g d => ([p g], [x d])
  | .tspawn g d a b => (p g :: [x a, x b], [x d])
  | .gdec g d a b => (p g :: [x a, x b], [x d])
  | .gread g d a => (p g :: [x a], [x d])
  | .dsend g a _ => (p g :: [x a], [])
  | .drecv g a b _ => (p g :: [x a, x b], [])
  | .dflush g _ => ([p g], [])
  | .dcomb g a _ => (p g :: [x a], [])
  | .fsend g a b _ => (p g :: [t a, x b], [])
  | .frecv g t_ b _ => (p g :: [x b], [t t_])
  | .lgath g a b _ => (p g :: [x a, x b], [])
  | .ldedup g d a b => (p g :: [x a, x b], [x d])
  | .lpool g a _ _ => (p g :: [x a], [])
  | .lhand g a _ => (p g :: [x a], [])
  | _ => ([], [])

/-- A word of a bundle with the registers it reads and those it writes; writes of X0 and P0 take no part (09 R221). -/
structure WordUse where
  idx : Nat
  reads : List RegName
  writes : List RegName
  deriving DecidableEq, Repr

def wordUse (rrb : BitVec 4) (w : SlotWord) : WordUse :=
  let u := regUse rrb w.instr
  ⟨w.idx, u.1, u.2.filter fun r => r != (0, 0) && r != (1, 0)⟩

/-- The first word, in order, that `hit` finds to clash with an earlier one: both indices, and the register. -/
def findClash (hit : WordUse → WordUse → Option RegName) : List WordUse → List WordUse → Option (Nat × Nat × RegName)
  | _, [] => none
  | prev, u :: us =>
    match prev.findSome? fun e => (hit e u).map fun r => (u.idx, e.idx, r) with
    | some c => some c
    | none => findClash hit (prev ++ [u]) us

/-- EN-09, then EN-05, of a bundle at `addr` (08 R200 to R202). -/
def bundleClash (rrb : BitVec 4) (ws : List SlotWord) (addr : Nat) : Option FaultRec :=
  let us := ws.map (wordUse rrb)
  let fault (n : Nat) (c : Nat × Nat × RegName) : FaultRec :=
    { cls := .EN, num := n, word := c.1, fdet := enDetail c.1 c.2.1 c.2.2.2 c.2.2.1 none addr }
  match findClash (fun e u => e.writes.find? u.writes.contains) [] us with
  | some c => some (fault 9 c)
  | none =>
    (findClash (fun e u => (e.writes.find? u.reads.contains).orElse fun _ => e.reads.find? u.writes.contains) [] us).map (fault 5)

end Sys2Proof.Machine
end

