-- ==== Sys2Proof/Machine/Mem.lean ====
section
/-! DEFINITION. Classes MA and MB: loads, stores, atomics, counter-cell operations and queue stores (11 R283 to R300). -/
namespace Sys2Proof.Machine

/-! ## Loads and stores (11 R283 to R286) -/

/-- A load of `n` bytes; latency 3 in MA, 9 in MB (R284). -/
def loadBody (mb signed : Bool) (n d a : Nat) (off : Word) (s : State) : Except Stop State := do
  let x ← s.rx a
  let (reg, o) ← s.slotAddr mb x off n
  s.raceCore [reg.touch o n] []
  let s ← s.readCheck (reg.base + o) n
  return s.wx (if mb then 9 else 3) d (extend signed n (memNat s.mem (reg.base + o) n))

/-- A store of the low `n` bytes of Xs at the commit (R285). -/
def storeBody (mb : Bool) (n src a : Nat) (off : Word) (s : State) : Except Stop State := do
  let x ← s.rx a
  let v ← s.rx src
  let (reg, o) ← s.slotAddr mb x off n
  s.raceCore [] [reg.touch o n]
  return s.store (reg.base + o) (natLe n v.toNat)

/-- The word kind of a form that both memory classes share. -/
def slotKind (mb : Bool) : WordKind := if mb then .mb else .ma

/-- The kind of QPOPS, TLDS and TSTS, which a lookup core does not decode in MA (08 R208). -/
def slotKindMain (mb : Bool) : WordKind := if mb then .mb else .maMain

def doLoad (mb signed : Bool) (n g d a : Nat) (imm : Imm) (s : State) : Out :=
  runWord (slotKind mb) (immLen imm) g (loadBody mb signed n d a (imm.value 6)) s

def doStore (mb : Bool) (n g src a : Nat) (imm : Imm) (s : State) : Out :=
  runWord (slotKind mb) (immLen imm) g (storeBody mb n src a (imm.value 6)) s

/-! ## Atomics (11 R287, R288) -/

/-- An atomic: the new value from the old value m and the operand b, each `n` bytes; the old value to Xd, zero-extended for the
unsigned forms. Xd is read by ACAS only. -/
def atomicBody (mb unsigned : Bool) (n d a b : Nat) (f : Nat → Nat → Nat) (s : State) : Except Stop State := do
  let x ← s.rx a
  let v ← s.rx b
  let (reg, o) ← s.slotAddr mb x 0 n
  s.raceCore [] [reg.touch o n]
  let s ← s.readCheck (reg.base + o) n
  let m := memNat s.mem (reg.base + o) n
  let s := s.store (reg.base + o) (natLe n (f m (v.toNat % 2 ^ (8 * n))))
  return s.wx (if mb then 9 else 3) d (extend (!unsigned) n m)

/-- The signed smaller or larger of two `n`-byte values. -/
def signedPick (n : Nat) (larger : Bool) (m b : Nat) : Nat :=
  if (codeInt (8 * n) m < codeInt (8 * n) b) == larger then b else m

/-- ACAS writes nothing where it fails (R288): no store, no resealing. -/
def casBody (mb : Bool) (n d a b : Nat) (s : State) : Except Stop State := do
  let x ← s.rx a
  let v ← s.rx b
  let e ← s.rx d
  let (reg, o) ← s.slotAddr mb x 0 n
  s.raceCore [] [reg.touch o n]
  let s ← s.readCheck (reg.base + o) n
  let m := memNat s.mem (reg.base + o) n
  let s := if m = e.toNat % 2 ^ (8 * n) then s.store (reg.base + o) (natLe n v.toNat) else s
  return s.wx (if mb then 9 else 3) d (extend true n m)

def doAtomic (mb unsigned : Bool) (g d a b : Nat) (size : Option Nat) (f : Nat → Nat → Nat → Nat) (s : State) : Out :=
  runWord (slotKind mb) (optLen size) g
    (atomicBody mb unsigned (atomicSize size) d a b (f (atomicSize size))) s

/-! ## Counter cells (11 R289 to R292) -/

/-- The new value of a cell (11 R291). -/
def CellAct.apply : CellAct → Word → Word
  | .add v, m => m + v
  | .swap v, _ => v
  | .cas old new, m => if m = old then new else m
  | .min v, m => minS m v
  | .max v, m => maxS m v
  | .load, m => m

/-- An operation on a counter cell or a graph counter, which is an access of its context and no engine operation. -/
def OpKind.onCounters : OpKind → Bool
  | .counter _ | .graph _ => true
  | _ => false

/-- What an operation forked now comes after: what its context comes after, and, for an engine operation, what the team's core accesses
before it in the commit order come after (07 R183: program order, fork). -/
def State.forkPast (s : State) (kind : OpKind) : List Nat :=
  if kind.onCounters then s.undone s.ctx.before else union (s.undone s.task.before) (s.undone s.ctx.before)

/-- An operation that has issued is under way; its writes wait as its context's do (07 R186). -/
def State.addOp (s : State) (tag : Option Nat) (kind : OpKind) (marks : List Mark) : State :=
  let c := s.ctx
  { s with
    ops := s.ops ++ [⟨s.nextOp, c.tid, s.me, c.core, tag, s.bun.addr.toNat, kind, false, false, marks, s.forkPast kind, s.undone c.behind⟩]
    nextOp := s.nextOp + 1 }

/-- The operation on a cell or graph counter just issued comes before what its context does next; after one with release order the
context's later writes wait for all that came before it (07 R183, R186). -/
def State.pastCell (s : State) (op : Nat) (release : Bool) : State :=
  let c := s.ctx
  s.putCtx { c with
    before := union (s.undone c.before) [op]
    behind := if release then union (s.undone c.behind) (s.unseen c.before) else c.behind }

/-- The operation writes: not a load of a cell, a reading of a graph counter, a wait on a cell. -/
def OpKind.writes : OpKind → Bool
  | .counter c => c.act != .load
  | .graph g => g.amount.isSome
  | .drecv .. => false
  | _ => true

/-- What an operation's writes wait for has performed, if it writes (07 R186). -/
def State.letsWrite (s : State) (o : Op) : Bool := !o.kind.writes || (s.undone o.behind).isEmpty

/-- The issue of a counter operation (11 R292): Xd takes the reply at latency 32. -/
def counterBody (d a : Nat) (scope : Nat) (order : Option Nat) (act : State → Except Stop CellAct) (s : State) :
    Except Stop State := do
  let x ← s.rx a
  let act ← act s
  let (module, cell) ← s.cellOperand x scope
  let op := s.nextOp
  let s := (s.addOp none (.counter ⟨module, cell, act, scope, order, false, none⟩) []).pastCell op (order.any (1 ≤ ·))
  return s.post 32 (.xReply (physX s.ctx.rrb d) op)

def doCounter (g d a scope ord order : Nat) (act : State → Except Stop CellAct) (s : State) : Out :=
  runWord .cell 2 g (counterBody d a scope (if ord = 1 then some order else none) act) s

/-! ## Queue stores (11 R298 to R300) -/

/-- Bytes of `k` elements of `sb` storage bits. -/
def rowBytes (k sb : Nat) : Nat := (k * sb + 7) / 8

/-- The codes of a row packed under 03 R68; `old` gives the other nibble of a last odd 4-bit element. -/
def packRow (sb : Nat) (old : Nat) (cs : List Nat) : List Byte :=
  if sb = 4 then
    let n := cs.length
    let v := cs.foldr (fun c a => c % 16 + 16 * a) 0
    natLe ((n + 1) / 2) (if n % 2 = 1 then v + old / 16 % 16 * 16 ^ n else v)
  else cs.flatMap (natLe (sb / 8))

/-- The slabs that the bundle's words so far have popped from queue `q`. -/
def State.popped (s : State) (q : Nat) : Nat := (amGet s.bun.pops q).getD 0

/-- The slab at the head of queue `q`, or why there is none: a block while a drain is pending, until the queue holds enough for the
bundle's pops so far and this one, else QU-02 (06 R146). -/
def State.headSlab (s : State) (q : Nat) : Except Stop Slab :=
  match ((s.coreAt s.ctx.core).arr.queues.getD q .empty).slabs with
  | r :: _ => .ok r
  | [] => if s.draining s.ctx.core q then .error (.block (.pop q (s.popped q + 1))) else .error (flt .QU 2)

/-- A pop of slabs that hold poison: AC-02 (23 R476). -/
def poisonedSlabs (l : List Slab) : Except Stop Unit := need (!l.any (·.bad)) (flt .AC 2)

/-- The head slabs leave the queue. -/
def State.dropSlabs (s : State) (q n : Nat) : State :=
  let s := s.modArr s.ctx.core fun a =>
    let r := a.queues.getD q .empty
    { a with queues := a.queues.set q { r with slabs := r.slabs.drop n } }
  { s with bun := { s.bun with pops := amSet s.bun.pops q (s.popped q + n) } }

/-- Rows written one after another at their offsets. -/
def storeRows (base pitch sb : Nat) : Nat → List (List Nat) → State → State
  | _, [], s => s
  | o, r :: rs, s =>
    let n := rowBytes r.length sb
    let old := (memGet s.mem (base + o + n - 1)).toNat
    storeRows base pitch sb (o + pitch) rs (s.store (base + o) (packRow sb old r))

/-- QPOPS (R298 to R300): the oldest slab stored by rows, or dropped where SKIP holds. A queue without a slab gives its checks no
rows to judge, so only alignment comes before the block or QU-02 (log entry 11). -/
def qpopsBody (mb : Bool) (q a b : Nat) (skip : Option Nat) (s : State) : Except Stop State := do
  let x ← s.rx a
  let pitch ← s.rx b
  need (x.toNat % 64 == 0 && pitch.toNat % 64 == 0) (flt .FM 8)
  let sl ← s.headSlab q
  let sb := storageBits sl.fmt
  let reg := s.slotRegion mb
  let n := rowBytes sl.nc sb
  need ((List.range sl.nr).all fun l => x.toNat + l * pitch.toNat + n ≤ reg.size) (flt .LS 3)
  s.raceCore [] ((List.range sl.nr).map fun l => reg.touch (x.toNat + l * pitch.toNat) n)
  poisonedSlabs [sl]
  let s' := s.dropSlabs q 1
  if (match skip with | some k => s.ctx.pAt k | none => false) then return s'
  return storeRows reg.base pitch.toNat sb x.toNat sl.vals s'

def doQpops (mb : Bool) (g q a b : Nat) (skip : Option (Option Nat)) (s : State) : Out :=
  runWord (slotKindMain mb) (optLen skip) g (qpopsBody mb q a b (skip.getD none)) s

/-- LDB on core scratch (R284): the byte, sign-extended. -/
def execLdb (g d a : Nat) (imm : Imm) (s : State) : Out := doLoad false true 1 g d a imm s

/-- LDBU on core scratch (R284): the byte, zero-extended. -/
def execLdbu (g d a : Nat) (imm : Imm) (s : State) : Out := doLoad false false 1 g d a imm s

/-- LDH on core scratch (R284): the half-word, sign-extended. -/
def execLdh (g d a : Nat) (imm : Imm) (s : State) : Out := doLoad false true 2 g d a imm s

/-- LDHU on core scratch (R284): the half-word, zero-extended. -/
def execLdhu (g d a : Nat) (imm : Imm) (s : State) : Out := doLoad false false 2 g d a imm s

/-- LDW on core scratch (R284): the word, sign-extended. -/
def execLdw (g d a : Nat) (imm : Imm) (s : State) : Out := doLoad false true 4 g d a imm s

/-- LDWU on core scratch (R284): the word, zero-extended. -/
def execLdwu (g d a : Nat) (imm : Imm) (s : State) : Out := doLoad false false 4 g d a imm s

/-- LDD on core scratch (R284): the double-word. -/
def execLdd (g d a : Nat) (imm : Imm) (s : State) : Out := doLoad false false 8 g d a imm s

/-- LDA on core scratch (R284): the double-word, an acquire at cluster scope. -/
def execLda (g d a : Nat) (imm : Imm) (s : State) : Out := doLoad false false 8 g d a imm s

/-- STB on core scratch (R285): the low 1 byte(s) of Xs. -/
def execStb (g src a : Nat) (imm : Imm) (s : State) : Out := doStore false 1 g src a imm s

/-- STH on core scratch (R285): the low 2 byte(s) of Xs. -/
def execSth (g src a : Nat) (imm : Imm) (s : State) : Out := doStore false 2 g src a imm s

/-- STW on core scratch (R285): the low 4 byte(s) of Xs. -/
def execStw (g src a : Nat) (imm : Imm) (s : State) : Out := doStore false 4 g src a imm s

/-- STD on core scratch (R285): the low 8 byte(s) of Xs. -/
def execStd (g src a : Nat) (imm : Imm) (s : State) : Out := doStore false 8 g src a imm s

/-- STRL on core scratch (R285): the low 8 byte(s) of Xs, a release at cluster scope. -/
def execStrl (g src a : Nat) (imm : Imm) (s : State) : Out := doStore false 8 g src a imm s

/-- AADD on core scratch (R288): memory receives m + b, Xd the old value. -/
def execAadd (g d a b : Nat) (size : Option Nat) (s : State) : Out := doAtomic false false g d a b size (fun _ m b => m + b) s

/-- ASWP on core scratch (R288): memory receives b, Xd the old value. -/
def execAswp (g d a b : Nat) (size : Option Nat) (s : State) : Out := doAtomic false false g d a b size (fun _ _ b => b) s

/-- AMIN on core scratch (R288): memory receives the signed smaller, Xd the old value. -/
def execAmin (g d a b : Nat) (size : Option Nat) (s : State) : Out := doAtomic false false g d a b size (fun n m b => signedPick n false m b) s

/-- AMAX on core scratch (R288): memory receives the signed larger, Xd the old value. -/
def execAmax (g d a b : Nat) (size : Option Nat) (s : State) : Out := doAtomic false false g d a b size (fun n m b => signedPick n true m b) s

/-- AMINU on core scratch (R288): memory receives the unsigned smaller, Xd the old value. -/
def execAminu (g d a b : Nat) (size : Option Nat) (s : State) : Out := doAtomic false true g d a b size (fun _ m b => min m b) s

/-- AMAXU on core scratch (R288): memory receives the unsigned larger, Xd the old value. -/
def execAmaxu (g d a b : Nat) (size : Option Nat) (s : State) : Out := doAtomic false true g d a b size (fun _ m b => max m b) s

/-- ACAS on core scratch (R288): b where the old value equals Xd. -/
def execAcas (g d a b : Nat) (size : Option Nat) (s : State) : Out := runWord (slotKind false) (optLen size) g (casBody false (atomicSize size) d a b) s

/-- QPOPS to core scratch (R298). -/
def execQpops (g q a b : Nat) (skip : Option (Option Nat)) (s : State) : Out := doQpops false g q a b skip s

/-- LDB on cluster memory (R284): the byte, sign-extended. -/
def execLdbCm (g d a : Nat) (imm : Imm) (s : State) : Out := doLoad true true 1 g d a imm s

/-- LDBU on cluster memory (R284): the byte, zero-extended. -/
def execLdbuCm (g d a : Nat) (imm : Imm) (s : State) : Out := doLoad true false 1 g d a imm s

/-- LDH on cluster memory (R284): the half-word, sign-extended. -/
def execLdhCm (g d a : Nat) (imm : Imm) (s : State) : Out := doLoad true true 2 g d a imm s

/-- LDHU on cluster memory (R284): the half-word, zero-extended. -/
def execLdhuCm (g d a : Nat) (imm : Imm) (s : State) : Out := doLoad true false 2 g d a imm s

/-- LDW on cluster memory (R284): the word, sign-extended. -/
def execLdwCm (g d a : Nat) (imm : Imm) (s : State) : Out := doLoad true true 4 g d a imm s

/-- LDWU on cluster memory (R284): the word, zero-extended. -/
def execLdwuCm (g d a : Nat) (imm : Imm) (s : State) : Out := doLoad true false 4 g d a imm s

/-- LDD on cluster memory (R284): the double-word. -/
def execLddCm (g d a : Nat) (imm : Imm) (s : State) : Out := doLoad true false 8 g d a imm s

/-- LDA on cluster memory (R284): the double-word, an acquire at cluster scope. -/
def execLdaCm (g d a : Nat) (imm : Imm) (s : State) : Out := doLoad true false 8 g d a imm s

/-- STB on cluster memory (R285): the low 1 byte(s) of Xs. -/
def execStbCm (g src a : Nat) (imm : Imm) (s : State) : Out := doStore true 1 g src a imm s

/-- STH on cluster memory (R285): the low 2 byte(s) of Xs. -/
def execSthCm (g src a : Nat) (imm : Imm) (s : State) : Out := doStore true 2 g src a imm s

/-- STW on cluster memory (R285): the low 4 byte(s) of Xs. -/
def execStwCm (g src a : Nat) (imm : Imm) (s : State) : Out := doStore true 4 g src a imm s

/-- STD on cluster memory (R285): the low 8 byte(s) of Xs. -/
def execStdCm (g src a : Nat) (imm : Imm) (s : State) : Out := doStore true 8 g src a imm s

/-- STRL on cluster memory (R285): the low 8 byte(s) of Xs, a release at cluster scope. -/
def execStrlCm (g src a : Nat) (imm : Imm) (s : State) : Out := doStore true 8 g src a imm s

/-- AADD on cluster memory (R288): memory receives m + b, Xd the old value. -/
def execAaddCm (g d a b : Nat) (size : Option Nat) (s : State) : Out := doAtomic true false g d a b size (fun _ m b => m + b) s

/-- ASWP on cluster memory (R288): memory receives b, Xd the old value. -/
def execAswpCm (g d a b : Nat) (size : Option Nat) (s : State) : Out := doAtomic true false g d a b size (fun _ _ b => b) s

/-- AMIN on cluster memory (R288): memory receives the signed smaller, Xd the old value. -/
def execAminCm (g d a b : Nat) (size : Option Nat) (s : State) : Out := doAtomic true false g d a b size (fun n m b => signedPick n false m b) s

/-- AMAX on cluster memory (R288): memory receives the signed larger, Xd the old value. -/
def execAmaxCm (g d a b : Nat) (size : Option Nat) (s : State) : Out := doAtomic true false g d a b size (fun n m b => signedPick n true m b) s

/-- AMINU on cluster memory (R288): memory receives the unsigned smaller, Xd the old value. -/
def execAminuCm (g d a b : Nat) (size : Option Nat) (s : State) : Out := doAtomic true true g d a b size (fun _ m b => min m b) s

/-- AMAXU on cluster memory (R288): memory receives the unsigned larger, Xd the old value. -/
def execAmaxuCm (g d a b : Nat) (size : Option Nat) (s : State) : Out := doAtomic true true g d a b size (fun _ m b => max m b) s

/-- ACAS on cluster memory (R288): b where the old value equals Xd. -/
def execAcasCm (g d a b : Nat) (size : Option Nat) (s : State) : Out := runWord (slotKind true) (optLen size) g (casBody true (atomicSize size) d a b) s

/-- QPOPS to cluster memory (R298). -/
def execQpopsCm (g q a b : Nat) (skip : Option (Option Nat)) (s : State) : Out := doQpops true g q a b skip s

/-- CADD (R291): the cell receives m + b. -/
def execCadd (g d a b scope ord order : Nat) (s : State) : Out := doCounter g d a scope ord order (fun s => do
    let v ← s.rx b
    return .add v) s

/-- CSWP (R291): the cell receives b. -/
def execCswp (g d a b scope ord order : Nat) (s : State) : Out := doCounter g d a scope ord order (fun s => do
    let v ← s.rx b
    return .swap v) s

/-- CMIN (R291): the cell receives the signed smaller. -/
def execCmin (g d a b scope ord order : Nat) (s : State) : Out := doCounter g d a scope ord order (fun s => do
    let v ← s.rx b
    return .min v) s

/-- CMAX (R291): the cell receives the signed larger. -/
def execCmax (g d a b scope ord order : Nat) (s : State) : Out := doCounter g d a scope ord order (fun s => do
    let v ← s.rx b
    return .max v) s

/-- CCAS (R291): the cell receives b where it equals Xd. -/
def execCcas (g d a b scope ord order : Nat) (s : State) : Out := doCounter g d a scope ord order (fun s => do
    let v ← s.rx b
    let e ← s.rx d
    return .cas e v) s

/-- CLD (R291): the cell is unchanged. -/
def execCld (g d a scope ord order : Nat) (s : State) : Out := doCounter g d a scope ord order (fun _ => .ok .load) s

end Sys2Proof.Machine
end

