-- ==== Sys2Proof/Machine/Runs.lean ====
section
/-! DEFINITION. Run registers: rows, pieces, merging, the run faults, draws from channel C, element values by tag (05 R115 to R132,
R481; 06 R161, R162; 10 R281). -/
namespace Sys2Proof.Machine

/-- The chainage of a row (05 R115). -/
def chain : List Run → Nat
  | [] => 0
  | r :: rs => r.cnt + chain rs

def VReg.row (v : VReg) (l : Nat) : List Run := v.rows.getD l []

/-- The value at element `j` of a row. -/
def elemAt : List Run → Nat → Half
  | [], _ => 0
  | r :: rs, j => if j < r.cnt then r.val else elemAt rs (j - r.cnt)

/-- The first `k` elements of a row. -/
def takeRuns : List Run → Nat → List Run
  | [], _ => []
  | r :: rs, k => if k = 0 then [] else if k < r.cnt then [⟨r.val, k⟩] else r :: takeRuns rs (k - r.cnt)

/-- The row without its first `k` elements. -/
def dropRuns : List Run → Nat → List Run
  | [], _ => []
  | r :: rs, k => if k < r.cnt then ⟨r.val, r.cnt - k⟩ :: rs else dropRuns rs (k - r.cnt)

/-- Neighbours equal bit for bit merged (05 R124). -/
def mergeRuns : List Run → List Run
  | [] => []
  | r :: rs =>
    match mergeRuns rs with
    | [] => [r]
    | q :: qs => if q.val = r.val then ⟨r.val, r.cnt + q.cnt⟩ :: qs else r :: q :: qs

/-- Values as unit runs, merged (05 R135). -/
def runsOf (vs : List Half) : List Run := mergeRuns (vs.map fun v => ⟨v, 1⟩)

/-- The elements of a row one by one. -/
def expandRow (rs : List Run) : List Half := rs.flatMap fun r => List.replicate r.cnt r.val

/-- The pieces of rows of equal chainage (05 R121): the value of each row on it, and its length. -/
def pieces : Nat → List (List Run) → List (List Half × Nat)
  | 0, _ => []
  | fuel + 1, rs =>
    if rs.any List.isEmpty then []
    else
      let heads := rs.filterMap List.head?
      let n := heads.foldl (fun m r => min m r.cnt) 4096
      (heads.map (·.val), n) :: pieces fuel (rs.map (dropRuns · n))

/-- Enough fuel for the pieces of some rows. -/
def pieceFuel (rs : List (List Run)) : Nat := rs.foldl (fun a r => a + r.length) 1

def allPieces (rs : List (List Run)) : List (List Half × Nat) := pieces (pieceFuel rs) rs

/-! ## Tags and values -/

def VTag.code : VTag → Nat
  | .int32 => 0x06 | .uint32 => 0x07 | .fp32 => 0x09

/-- A two-bit TAG field (10 R260). -/
def tagField (t : Nat) : VTag := if t = 0 then .int32 else if t = 1 then .uint32 else .fp32

def VTag.isInt : VTag → Bool
  | .fp32 => false
  | _ => true

/-- The number a 32-bit value stands for under a tag. -/
def VTag.num (t : VTag) (v : Half) : Num := decodeFmt t.code v.toNat

/-- The integer a value stands for under an integer tag. -/
def VTag.int (t : VTag) (v : Half) : Int := match t with
  | .uint32 => v.toNat
  | _ => v.toInt

/-- An integer reduced to 32 bits: wrapped, or clamped to the tag's range (10 R257). -/
def VTag.ofInt (t : VTag) (sat : Bool) (i : Int) : Half :=
  if sat then
    let (lo, hi) := intRange 32 (t != .uint32)
    BitVec.ofInt 32 (max lo (min hi i))
  else BitVec.ofInt 32 i

/-- A number as an FP32 value under a rounding mode, the overflow control and 16 bits for RSTO. -/
def f32 (rnd : Nat) (sat : Bool) (u : Nat) (x : Num) : Half := BitVec.ofNat 32 (fp32.encode rnd sat u x)

/-- A number as a value of a tag, clamped for integers. -/
def VTag.ofNum (t : VTag) (rnd : Nat) (sat : Bool) (u : Nat) (x : Num) : Half :=
  BitVec.ofNat 32 (encodeFmt t.code rnd sat u x)

/-! ## Faults over rows (05 R127, R128) -/

/-- A set of rows as bits. -/
def rowBits (ls : List Nat) : Nat := ls.foldl (fun a l => a + 2 ^ l) 0

def rows16 : List Nat := List.range 16

/-- FM-11: the tag is not accepted (05 R116). -/
def needTag (ok : Bool) : Except Stop Unit := need ok (flt .FM 11)

/-- RN-02: every operand has a's chainage in every row; operands with their numbers (05 R122, R128). -/
def checkChains (a : VReg) (others : List (Nat × VReg)) : Except Stop Unit :=
  let bad (l : Nat) : Option (Nat × Nat) :=
    (others.find? fun o => chain (o.2.row l) != chain (a.row l)).map fun o => (o.1, chain (o.2.row l))
  let ls := rows16.filter fun l => (bad l).isSome
  match ls with
  | [] => .ok ()
  | l :: _ =>
    let (opnd, cb) := (bad l).getD (0, 0)
    .error (rnFault 2 l (rowBits ls) 0 (chain (a.row l)) cb opnd)

/-- RN-01: no row needs more than 64 runs; `ca` gives the CHAINA of a row (05 R123). -/
def checkRuns (ca : Nat → Nat) (rows : List (List Run)) : Except Stop Unit :=
  let ls := rows16.filter fun l => 64 < (rows.getD l []).length
  match ls with
  | [] => .ok ()
  | l :: _ => .error (rnFault 1 l (rowBits ls) (rows.getD l []).length (ca l) 0 0)

/-- RN-03: no row's chainage passes 4,096. -/
def checkChainMax (a : VReg) (rows : List (List Run)) : Except Stop Unit :=
  let ls := rows16.filter fun l => 4096 < chain (rows.getD l [])
  match ls with
  | [] => .ok ()
  | l :: _ => .error (rnFault 3 l (rowBits ls) 0 (chain (a.row l)) (chain (rows.getD l [])) 0)

/-- RN-05 in the rows `ls`, position `pos` (05 R128). -/
def checkPos (a : VReg) (pos : Nat) (ls : List Nat) : Except Stop Unit :=
  match ls with
  | [] => .ok ()
  | l :: _ => .error (rnFault 5 l (rowBits ls) 0 (chain (a.row l)) pos 0)

/-- A count above the limit from an operand, alike in every row (05 R481). -/
def countFault (num need chainA chainB : Nat) : Stop := rnFault num 0 0xFFFF need chainA chainB 0

/-! ## Noise channels (06 R161, R162; 10 R281) -/

/-- `n` words of a channel from word position `pos`, under RNGCTL: live and logged words come from the noise source, replayed words
from the window. A log writes the words to the window at once. The position is that of the caller. A window that is well formed but
not of rank 1 and UINT32 takes LS-01, as one that is not well formed does (log entry 138). -/
def State.noiseWords (s : State) (win pos : Nat) : Nat → Nat → Except Stop (State × List Nat)
  | _, 0 => .ok (s, [])
  | i, n + 1 => do
    let mode := bits s.ctx.rngctl.toNat 0 2
    if mode = 0 then
      let w := (Config.noise s.freeCtr).toNat
      let (s, ws) ← State.noiseWords { s with freeCtr := s.freeCtr + 1 } win pos (i + 1) n
      return (s, w :: ws)
    else
      match s.window s.task.p win with
      | none => .error (flt .LS 1)
      | some d =>
        need (d.rank == 1 && d.fmt == 0x07) (flt .LS 1)
        let at_ := pos + i
        if mode = 2 then
          need (at_ < d.ext.headD 0) (flt .CP 9)
          match s.leaseCheck s.ctx.tid d true false [[at_]] with
          | some k => .error (flt .LS k)
          | none =>
            match s.winRead d [at_] with
            | .error f => .error (.fault f)
            | .ok w =>
              let (s, ws) ← State.noiseWords s win pos (i + 1) n
              return (s, w :: ws)
        else
          match s.leaseCheck s.ctx.tid d false true [[at_]] with
          | some k => .error (flt .LS k)
          | none =>
            let w := (Config.noise s.freeCtr).toNat
            match s.winWrite d [at_] w with
            | .error f => .error (.fault f)
            | .ok s =>
              let (s, ws) ← State.noiseWords { s with freeCtr := s.freeCtr + 1 } win pos (i + 1) n
              return (s, w :: ws)

/-- The CSRs `ns` that a draw reads have their parity, else AC-04 (23 R480). -/
def State.needParity (s : State) (ns : List Nat) : Except Stop Unit := need (ns.all fun n => !s.ctx.damaged.contains (80 + n)) (flt .AC 4)

/-- `n` words of channel C; RNGPOSC moves on. -/
def State.wordsC (s : State) (n : Nat) : Except Stop (State × List Nat) := do
  let c := s.ctx
  if n ≠ 0 then s.needParity [0x030, 0x031]
  let pos := c.rngposc.toNat
  let (s, ws) ← s.noiseWords (bits c.rngctl.toNat 2 12) pos 0 n
  return (s.putCtx { s.ctx with rngposc := BitVec.ofNat 64 ((pos + n) % 2 ^ 32) }, ws)

/-- `n` words of channel E; RNGPOSE moves on. -/
def State.wordsE (s : State) (n : Nat) : Except Stop (State × List Nat) := do
  let c := s.ctx
  if n ≠ 0 then s.needParity [0x030, 0x032]
  let pos := c.rngpose.toNat
  let (s, ws) ← s.noiseWords (bits c.rngctl.toNat 14 12) pos 0 n
  return (s.putCtx { s.ctx with rngpose := BitVec.ofNat 64 ((pos + n) % 2 ^ 32) }, ws)

/-- The 16-bit draws that words give, low half first, `d` of them. -/
def drawsOf (ws : List Nat) (d : Nat) : List Nat := (ws.flatMap fun w => [w % 65536, w / 65536 % 65536]).take d

/-- `d` draws of channel C: ceil(d / 2) words (10 R281). -/
def State.drawC (s : State) (d : Nat) : Except Stop (State × List Nat) := do
  let (s, ws) ← s.wordsC ((d + 1) / 2)
  return (s, drawsOf ws d)

/-- `d` draws of channel E (06 R161). -/
def State.drawE (s : State) (d : Nat) : Except Stop (State × List Nat) := do
  let (s, ws) ← s.wordsE ((d + 1) / 2)
  return (s, drawsOf ws d)

/-- A list cut into stretches of the lengths given. -/
def splitAs {α : Type} : List Nat → List α → List (List α)
  | [], _ => []
  | n :: ns, xs => xs.take n :: splitAs ns (xs.drop n)

/-- Two lists paired, the second filled with 0 where it is short: pieces with their draws. -/
def withDraws {α : Type} : List α → List Nat → List (α × Nat)
  | [], _ => []
  | x :: xs, us => (x, us.headD 0) :: withDraws xs us.tail

end Sys2Proof.Machine
end

