-- ==== Sys2Proof/Machine/Vector.lean ====
section
/-! DEFINITION. Class V: run-vector words (10 R251 to R267, R273 to R276). -/
namespace Sys2Proof.Machine

/-- The tag and rows of a result, posted at latency `L`. -/
def State.wv (s : State) (L d : Nat) (tag : VTag) (rows : List (List Run)) : State := s.post L (.v d ⟨rows, tag⟩)

/-- The computation of one piece: the operands' values in order and 16 random bits. -/
abbrev PieceFn := List Half → Nat → Half

/-- The runs of a row from its pieces with their draws. -/
def pieceRuns (f : PieceFn) (ps : List ((List Half × Nat) × Nat)) : List Run := ps.map fun p => ⟨f p.1.1 p.2, p.1.2⟩

/-- An element-wise word (05 R121 to R126): operand `a` and the others with their numbers; `draw` under RSTO. -/
def elementwise (L d : Nat) (coal draw : Bool) (tag : VTag) (a : VReg) (others : List (Nat × VReg)) (f : PieceFn)
    (s : State) : Except Stop State := do
  checkChains a others
  let pss := rows16.map fun l => allPieces (a.row l :: others.map (·.2.row l))
  let ca l := chain (a.row l)
  if !coal then checkRuns ca (pss.map (pieceRuns f <| withDraws · []))
  let lens := pss.map List.length
  let (s, us) ← if draw then s.drawC (lens.foldl (· + ·) 0) else pure (s, [])
  let rows := List.zipWith (fun ps u => pieceRuns f (withDraws ps u)) pss (splitAs lens us)
  let rows := if coal then rows.map mergeRuns else rows
  checkRuns ca rows
  return s.wv L d tag rows

/-- A mask value counts as 1 when its bits are not 0 (05 R116); so −0 counts (log entry 118). -/
def maskOn (m : Half) : Bool := m != 0

/-- The words of a class V word: its X word counts. -/
def vLen (o : VOps) : Nat := optLen o.x

def vSat (o : VOps) : Bool := match o.x with
  | some x => x.sat == 1
  | none => false

/-- The mask register, when present. -/
def vMask (o : VOps) : Option Nat := match o.x with
  | some x => if x.mv = 1 then some x.vm else none
  | none => none

/-- The third source register. -/
def vThird (o : VOps) : Nat := match o.x with
  | some x => x.vc
  | none => 0

/-- Operand b of a binary word: a register, or the low half of a scalar (10 R255). -/
inductive BSrc where
  | reg (v : VReg)
  | scalar (v : Half)
  deriving DecidableEq, Repr

def State.bSource (s : State) (o : VOps) : Except Stop BSrc :=
  if o.s = 1 then do
    let x ← s.rx o.b
    return .scalar (x.setWidth 32)
  else .ok (.reg (s.ctx.vAt o.b))

/-- The tag of b; a scalar has a's. -/
def BSrc.tag (b : BSrc) (a : VTag) : VTag := match b with
  | .reg v => v.tag
  | .scalar _ => a

/-- The general binary word: `f` takes a, b, c and 16 random bits; a masked-off piece takes `off` of a's value. -/
def binaryBody (o : VOps) (okTags : VTag → VTag → Bool) (third : Bool) (rounds : Bool) (res : VTag → VTag)
    (f : VTag → Half → Half → Half → Nat → Half) (off : Half → Half) (s : State) : Except Stop State := do
  let a := s.ctx.vAt o.a
  let b ← s.bSource o
  let c := s.ctx.vAt (vThird o)
  needTag (okTags a.tag (b.tag a.tag) && (!third || c.tag == a.tag))
  let bo := match b with | .reg v => [(2, v)] | .scalar _ => []
  let co := if third then [(3, c)] else []
  let mo := match vMask o with | some m => [(4, s.ctx.vAt m)] | none => []
  let fn : PieceFn := fun vs u =>
    let x := vs.headD 0
    let (y, r) := match b with | .reg _ => (vs.getD 1 0, vs.drop 2) | .scalar v => (v, vs.drop 1)
    let (z, r) := if third then (r.headD 0, r.drop 1) else (0, r)
    if !mo.isEmpty && !maskOn (r.headD 0) then off x else f a.tag x y z u
  elementwise 4 o.d (o.c == 1) (rounds && o.rnd == 1 && !a.tag.isInt) (res a.tag) a (bo ++ co ++ mo) fn s

def sameTag (a b : VTag) : Bool := a == b
def sameInt (a b : VTag) : Bool := a == b && a.isInt
def bothInt (a b : VTag) : Bool := a.isInt && b.isInt

/-- An arithmetic word on numbers: exact in FP32 and rounded once, exact in integers and reduced once (10 R256, R257). -/
def arith (o : VOps) (ff : Num → Num → Num → Num) (fi : Int → Int → Int → Int) (t : VTag) (x y z : Half) (u : Nat) : Half :=
  if t.isInt then t.ofInt (vSat o) (fi (t.int x) (t.int y) (t.int z))
  else f32 o.rnd (vSat o) u (ff (t.num x) (t.num y) (t.num z))

/-- The integer quotient of VDIV (10 R257). -/
def intDiv (t : VTag) (a b : Int) : Int :=
  let (lo, hi) := intRange 32 (t != .uint32)
  if b = 0 then (if a < 0 then lo else hi)
  else min hi (a.tdiv b)

/-- x < y under a tag: integers by sign, FP32 with −0 below +0 (10 R256, R257). -/
def VTag.less (t : VTag) (zs : Bool) (x y : Half) : Bool :=
  if t.isInt then t.int x < t.int y else (t.num x).lt zs (t.num y)

/-- NaN under an FP32 tag. -/
def VTag.isNan (t : VTag) (x : Half) : Bool := !t.isInt && (t.num x).isNan

def canonNan : Half := 0x7FC00000

/-- The smaller or larger value; NaN where either is (10 R256). -/
def pick (larger : Bool) (t : VTag) (x y : Half) : Half :=
  if t.isNan x || t.isNan y then canonNan
  else if larger then (if t.less true x y then y else x) else (if t.less true y x then y else x)

/-- A compare's 0 or 1. -/
def flag (b : Bool) : Half := if b then 1 else 0

def vArith (g : Nat) (o : VOps) (third : Bool) (ff : Num → Num → Num → Num) (fi : VTag → Int → Int → Int → Int) (s : State) : Out :=
  runWord .vector (vLen o) g
    (binaryBody o sameTag third true id (fun t => arith o ff (fi t) t) id) s

/-- VADD (R255). -/
def execVadd (g : Nat) (o : VOps) (s : State) : Out := vArith g o false (fun x y _ => x.add y) (fun _ x y _ => x + y) s

/-- VSUB (R255). -/
def execVsub (g : Nat) (o : VOps) (s : State) : Out := vArith g o false (fun x y _ => x.add y.neg) (fun _ x y _ => x - y) s

/-- VMUL (R255). -/
def execVmul (g : Nat) (o : VOps) (s : State) : Out := vArith g o false (fun x y _ => x.mul y) (fun _ x y _ => x * y) s

/-- VFMA (R255): a × b + c, rounded once. -/
def execVfma (g : Nat) (o : VOps) (s : State) : Out :=
  vArith g o true (fun x y z => (x.mul y).add z) (fun _ x y z => x * y + z) s

/-- VDIV (R255, R256, R257). -/
def execVdiv (g : Nat) (o : VOps) (s : State) : Out := vArith g o false (fun x y _ => x.div y) (fun t x y _ => intDiv t x y) s

/-- A word whose pieces need no rounding. -/
def vPlain (g : Nat) (o : VOps) (ok : VTag → VTag → Bool) (f : VTag → Half → Half → Half) (s : State) : Out :=
  runWord .vector (vLen o) g (binaryBody o ok false false id (fun t x y _ _ => f t x y) id) s

/-- VMIN (R255). -/
def execVmin (g : Nat) (o : VOps) (s : State) : Out := vPlain g o sameTag (pick false) s

/-- VMAX (R255). -/
def execVmax (g : Nat) (o : VOps) (s : State) : Out := vPlain g o sameTag (pick true) s

/-- VAND (R255). -/
def execVand (g : Nat) (o : VOps) (s : State) : Out := vPlain g o sameInt (fun _ x y => x &&& y) s

/-- VOR (R255). -/
def execVor (g : Nat) (o : VOps) (s : State) : Out := vPlain g o sameInt (fun _ x y => x ||| y) s

/-- VXOR (R255). -/
def execVxor (g : Nat) (o : VOps) (s : State) : Out := vPlain g o sameInt (fun _ x y => x ^^^ y) s

/-- VSHL (R255): by b[4:0]. -/
def execVshl (g : Nat) (o : VOps) (s : State) : Out := vPlain g o bothInt (fun _ x y => x <<< (y.toNat % 32)) s

/-- VSHR (R255). -/
def execVshr (g : Nat) (o : VOps) (s : State) : Out := vPlain g o bothInt (fun _ x y => x >>> (y.toNat % 32)) s

/-- VSAR (R255). -/
def execVsar (g : Nat) (o : VOps) (s : State) : Out := vPlain g o bothInt (fun _ x y => x.sshiftRight (y.toNat % 32)) s

/-- VSEL (R255, R258): a where the mask counts as 1, else b; the mask selects and masks nothing else. -/
def vselBody (o : VOps) (s : State) : Except Stop State := do
  let a := s.ctx.vAt o.a
  let b ← s.bSource o
  needTag (a.tag == b.tag a.tag)
  let bo := match b with | .reg v => [(2, v)] | .scalar _ => []
  let m := s.ctx.vAt ((vMask o).getD 0)
  let fn : PieceFn := fun vs _ =>
    match b with
    | .reg _ => if maskOn (vs.getD 2 0) then vs.headD 0 else vs.getD 1 0
    | .scalar v => if maskOn (vs.getD 1 0) then vs.headD 0 else v
  elementwise 4 o.d (o.c == 1) false a.tag a (bo ++ [(4, m)]) fn s

/-- VSEL (R255). -/
def execVsel (g : Nat) (o : VOps) (s : State) : Out := runWord .vector (vLen o) g (vselBody o) s

/-- A compare: 0 where the mask is 0 (R258), tag UINT32. -/
def vCompare (g : Nat) (o : VOps) (f : VTag → Half → Half → Bool) (s : State) : Out :=
  runWord .vector (vLen o) g
    (binaryBody o sameTag false false (fun _ => .uint32) (fun t x y _ _ => flag (f t x y)) (fun _ => 0)) s

/-- Equality under a tag: +0 = −0, NaN equals nothing (R256). -/
def VTag.equal (t : VTag) (x y : Half) : Bool := if t.isInt then x == y else (t.num x).eqv (t.num y)

/-- VCMPEQ (R255). -/
def execVcmpeq (g : Nat) (o : VOps) (s : State) : Out := vCompare g o (fun t x y => t.equal x y) s

/-- VCMPNE (R255): 1 with a NaN. -/
def execVcmpne (g : Nat) (o : VOps) (s : State) : Out := vCompare g o (fun t x y => !t.equal x y) s

/-- VCMPLT (R255). -/
def execVcmplt (g : Nat) (o : VOps) (s : State) : Out := vCompare g o (fun t x y => t.less false x y) s

/-- VCMPLE (R255). -/
def execVcmple (g : Nat) (o : VOps) (s : State) : Out := vCompare g o (fun t x y => t.less false x y || t.equal x y) s

/-! ## One operand (10 R259 to R261) -/

/-- VNEG and VABS: INT32 or FP32; a masked-off piece keeps a's value. The mask's ends cut a's runs (R258), and the mask is operand 4
(log entries 119, 120). -/
def unaryBody (o : VOps) (fi : Int → Int) (ff : Half → Half) (s : State) : Except Stop State := do
  let a := s.ctx.vAt o.a
  needTag (a.tag != .uint32)
  let mo := match vMask o with | some m => [(4, s.ctx.vAt m)] | none => []
  let fn : PieceFn := fun vs _ =>
    let x := vs.headD 0
    if !mo.isEmpty && !maskOn (vs.getD 1 0) then x
    else if a.tag.isInt then a.tag.ofInt (vSat o) (fi (a.tag.int x))
    else if a.tag.isNan x then canonNan else ff x
  elementwise 4 o.d (o.c == 1) false a.tag a mo fn s

/-- VNEG (R259). -/
def execVneg (g : Nat) (o : VOps) (s : State) : Out :=
  runWord .vector (vLen o) g (unaryBody o (- ·) (· ^^^ 0x80000000)) s

/-- VABS (R259). -/
def execVabs (g : Nat) (o : VOps) (s : State) : Out :=
  runWord .vector (vLen o) g (unaryBody o (fun i => i.natAbs) (· &&& 0x7FFFFFFF)) s

/-- VCVT (R260): under RSTO every piece of a converting form draws. -/
def execVcvt (g c d rnd a raw tag : Nat) (sat : Option Nat) (s : State) : Out :=
  runWord .vector (optLen sat) g (fun s =>
    let v := s.ctx.vAt a
    let t := tagField tag
    let fn : PieceFn := fun vs u =>
      let x := vs.headD 0
      if raw = 1 || t == v.tag then x else t.ofNum rnd (sat == some 1) u (v.tag.num x)
    elementwise 4 d (c == 1) (rnd == 1 && raw != 1) t v [] fn s) s

/-- VRCO (R125, R259): equal neighbours merged. -/
def execVrco (g d a : Nat) (s : State) : Out :=
  runWord .vector 1 g (fun s =>
    let v := s.ctx.vAt a
    .ok (s.wv 4 d v.tag (v.rows.map mergeRuns))) s

/-- VMOV (R259). -/
def execVmov (g d a : Nat) (s : State) : Out :=
  runWord .vector 1 g (fun s => .ok (s.post 4 (.v d (s.ctx.vAt a)))) s

/-- VSPLAT (R261): RN-03 for a count above 4,096. -/
def execVsplat (g tag d a b : Nat) (s : State) : Out :=
  runWord .vector 1 g (fun s => do
    let x ← s.rx a
    let n ← s.rx b
    need (n.toNat ≤ 4096) (countFault 3 0 n.toNat n.toNat)
    let row := if n = 0 then [] else [Run.mk (x.setWidth 32) n.toNat]
    return s.wv 4 d (tagField tag) (List.replicate 16 row)) s

/-! ## Along a row (10 R262, R263; 05 R129 to R131) -/

/-- A row with its elements moved `k` positions on, modulo its chainage `h`. -/
def rotateRow (k : Int) (r : List Run) : List Run :=
  let h := chain r
  if h = 0 then [] else
    let m := (k % (h : Int)).toNat
    dropRuns r (h - m) ++ takeRuns r (h - m)

/-- VROT (R262). -/
def execVrot (g c d a b : Nat) (s : State) : Out :=
  runWord .vector 1 g (fun s => do
    let k ← s.rx b
    let v := s.ctx.vAt a
    let rows := v.rows.map (rotateRow k.toInt)
    let rows := if c = 1 then rows.map mergeRuns else rows
    checkRuns (fun l => chain (v.row l)) rows
    return s.wv 4 d v.tag rows) s

/-- VBCST (R262): RN-05 where the element does not exist. -/
def execVbcst (g d a b : Nat) (s : State) : Out :=
  runWord .vector 1 g (fun s => do
    let j ← s.rx b
    let v := s.ctx.vAt a
    checkPos v j.toNat (rows16.filter fun l => 0 < chain (v.row l) && chain (v.row l) ≤ j.toNat)
    return s.wv 4 d v.tag (v.rows.map fun r => if chain r = 0 then [] else [⟨elemAt r j.toNat, chain r⟩])) s

/-- The value of an empty max or min (05 R129). -/
def emptyPick (t : VTag) (larger : Bool) : Half :=
  match t with
  | .fp32 => if larger then 0xFF800000 else 0x7F800000
  | .int32 => if larger then 0x80000000 else 0x7FFFFFFF
  | .uint32 => if larger then 0 else 0xFFFFFFFF

/-- A reduction of terms, each a value with its count (05 R129, R130): 0 sum, 1 max, 2 min. -/
def reduceTerms (t : VTag) (op rnd u : Nat) (ts : List (Half × Nat)) : Half :=
  if op = 0 then
    if t.isInt then t.ofInt true (ts.foldl (fun a p => a + t.int p.1 * p.2) 0)
    else f32 rnd false u (exactSum (ts.map fun p => (t.num p.1).mul (.ofNat p.2)))
  else
    match ts with
    | [] => emptyPick t (op == 1)
    | p :: ps =>
      if t.isNan p.1 then canonNan else ps.foldl (fun a q => pick (op == 1) t a q.1) p.1

/-- VRED (R262): one run of the row's chainage; a sum on FP32 draws once for each row that is not empty (05 R126). The mask is operand
4 (log entry 119). -/
def execVred (g d rnd a op : Nat) (mask : Option (Option Nat)) (s : State) : Out :=
  runWord .vector (optLen mask) g (fun s => do
    let v := s.ctx.vAt a
    let mo := match mask.getD none with | some m => [(4, s.ctx.vAt m)] | none => []
    checkChains v mo
    let live := v.rows.map fun r => chain r != 0
    let (s, us) ← if rnd = 1 && op = 0 && !v.tag.isInt then s.drawC (live.count true) else pure (s, [])
    let uss := splitAs (live.map (if · then 1 else 0)) us
    let rows := rows16.map fun l =>
      let r := v.row l
      let ps := allPieces (r :: mo.map (·.2.row l))
      let ts := (ps.filter fun p => mo.isEmpty || maskOn (p.1.getD 1 0)).map fun p => (p.1.headD 0, p.2)
      if chain r = 0 then []
      else
        let w := if op = 3 then BitVec.ofNat 32 (ts.foldl (fun n p => n + p.2) 0)
          else reduceTerms v.tag op rnd ((uss.getD l []).headD 0) ts
        [Run.mk w (chain r)]
    return s.wv 6 d (if op = 3 then .uint32 else v.tag) rows) s

/-- Whether a run adds nothing to a prefix sum: value 0, or +0 (05 R131). -/
def scanFlat (_t : VTag) (x : Half) : Bool := x == 0

/-- The prefix sums of a row, exact, one for each run the scan writes, with the run's count; `acc` is the sum so far. -/
def scanSums (t : VTag) : Option Num → List Run → List (Num × Nat)
  | _, [] => []
  | acc, r :: rs =>
    let v := t.num r.val
    let upTo (k : Nat) : Num :=
      let term := v.mul (.ofNat k)
      match acc with
      | none => exactSum [term]
      | some a => exactSum [a, term]
    (if scanFlat t r.val then [(upTo r.cnt, r.cnt)] else (List.range r.cnt).map fun k => (upTo (k + 1), 1)) ++
      scanSums t (some (upTo r.cnt)) rs

/-- VSCAN (R262): inclusive prefix sums; FP32 draws once for each run written (05 R126). -/
def execVscan (g c d rnd a : Nat) (s : State) : Out :=
  runWord .vector 1 g (fun s => do
    let v := s.ctx.vAt a
    let ca l := chain (v.row l)
    let plain := v.rows.map fun r => r.flatMap fun q => if scanFlat v.tag q.val then [q] else List.replicate q.cnt ⟨0, 1⟩
    if c ≠ 1 then checkRuns ca plain
    let lens := plain.map List.length
    let (s, us) ← if rnd = 1 && !v.tag.isInt then s.drawC (lens.foldl (· + ·) 0) else pure (s, [])
    let rows := List.zipWith
      (fun r u => (withDraws (scanSums v.tag none r) u).map fun p => Run.mk (v.tag.ofNum rnd false p.2 p.1.1) p.1.2)
      v.rows (splitAs lens us)
    let rows := if c = 1 then rows.map mergeRuns else rows
    checkRuns ca rows
    return s.wv 4 d v.tag rows) s

/-- VEXPD (R262): each piece repeated by b's count. -/
def execVexpd (g c d a b : Nat) (s : State) : Out :=
  runWord .vector 1 g (fun s => do
    let v := s.ctx.vAt a
    let w := s.ctx.vAt b
    needTag w.tag.isInt
    checkChains v [(2, w)]
    let rows := rows16.map fun l =>
      (allPieces [v.row l, w.row l]).filterMap fun p =>
        let k := (p.1.getD 1 0).toNat
        if k = 0 then none else some (Run.mk (p.1.headD 0) (p.2 * k))
    let rows := if c = 1 then rows.map mergeRuns else rows
    checkChainMax v rows
    checkRuns (fun l => chain (v.row l)) rows
    return s.wv 4 d v.tag rows) s

/-- A row at chainage `n` (05 R131): cut, or its last run lengthened, or a run of bits 0 in an empty row. -/
def setChain (n : Nat) (r : List Run) : List Run :=
  let h := chain r
  if n ≤ h then takeRuns r n
  else
    match r.getLast? with
    | none => [⟨0, n⟩]
    | some q => r.dropLast ++ [⟨q.val, q.cnt + (n - h)⟩]

/-- VSETCH (R262). -/
def execVsetch (g d a b : Nat) (s : State) : Out :=
  runWord .vector 1 g (fun s => do
    let n ← s.rx b
    let v := s.ctx.vAt a
    need (n.toNat ≤ 4096) (countFault 3 0 (chain (v.row 0)) n.toNat)
    return s.wv 4 d v.tag (v.rows.map (setChain n.toNat))) s

/-- VGETCH (R262). -/
def execVgetch (g d a : Nat) (s : State) : Out :=
  runWord .vector 1 g (fun s =>
    .ok (s.wv 4 d .uint32 ((s.ctx.vAt a).rows.map fun r => [⟨BitVec.ofNat 32 (chain r), 1⟩]))) s

/-- VEXTR (R263): one element to a scalar, latency 6; CHAINB of RN-05 is the position j (log entry 121). -/
def execVextr (g d a b : Nat) (s : State) : Out :=
  runWord .vector 1 g (fun s => do
    let x ← s.rx b
    let j := x.toNat % 4096
    let l := x.toNat / 4096 % 16
    let v := s.ctx.vAt a
    checkPos v j (if j < chain (v.row l) then [] else [l])
    let e := elemAt (v.row l) j
    return s.wx 6 d (if v.tag == .int32 then e.signExtend 64 else e.setWidth 64)) s

/-! ## Across rows (10 R264, 05 R132) -/

/-- VCROT (R264). -/
def execVcrot (g d a b : Nat) (s : State) : Out :=
  runWord .vector 1 g (fun s => do
    let k ← s.rx b
    let v := s.ctx.vAt a
    return s.wv 12 d v.tag (rows16.map fun l => v.row ((l + 16 - k.toNat % 16) % 16))) s

/-- VCBCST (R264). -/
def execVcbcst (g d a b : Nat) (s : State) : Out :=
  runWord .vector 1 g (fun s => do
    let q ← s.rx b
    let v := s.ctx.vAt a
    return s.wv 12 d v.tag (List.replicate 16 (v.row (q.toNat % 16)))) s

/-- RN-02 unless all 16 rows have row 0's chainage (05 R132). -/
def checkColumns (v : VReg) : Except Stop Unit :=
  let ls := rows16.filter fun l => chain (v.row l) != chain (v.row 0)
  match ls with
  | [] => .ok ()
  | l :: _ => .error (rnFault 2 l (rowBits ls) 0 (chain (v.row 0)) (chain (v.row l)) 1)

/-- VCRED (`scan` false) and VCSCAN: pieces of the union of the ends of all 16 rows; each output row draws once for each piece,
VCRED for its single result row (05 R126). -/
def columnBody (scan : Bool) (c d rnd a op : Nat) (s : State) : Except Stop State := do
  let v := s.ctx.vAt a
  checkColumns v
  let ps := allPieces v.rows
  let n := ps.length
  let outs := if scan then 16 else 1
  let ca l := chain (v.row l)
  if c ≠ 1 then checkRuns ca (List.replicate 16 (ps.map fun p => Run.mk 0 p.2))
  let (s, us) ← if rnd = 1 && op = 0 && !v.tag.isInt then s.drawC (outs * n) else pure (s, [])
  let rows := (List.range outs).map fun l =>
    (withDraws ps ((us.drop (l * n)).take n)).map fun p =>
      let vs := if scan then p.1.1.take (l + 1) else p.1.1
      Run.mk (reduceTerms v.tag op rnd p.2 (vs.map fun x => (x, 1))) p.1.2
  let rows := if c = 1 then rows.map mergeRuns else rows
  let rows := if scan then rows else List.replicate 16 (rows.headD [])
  checkRuns ca rows
  return s.wv 14 d v.tag rows

/-- VCRED (R264). -/
def execVcred (g c d rnd a op : Nat) (s : State) : Out := runWord .vector 1 g (columnBody false c d rnd a op) s

/-- VCSCAN (R264). -/
def execVcscan (g c d rnd a op : Nat) (s : State) : Out := runWord .vector 1 g (columnBody true c d rnd a op) s

/-! ## Queue pops (10 R265) -/

/-- The tag a slab's format widens to. -/
def widenTag (fmt : Nat) : VTag :=
  match intFormat fmt with
  | some (_, true) => .int32
  | some (_, false) => .uint32
  | none => .fp32

/-- An element widened to 32 bits (10 R265, R270): exact; ACC48 rounded, INT48 saturated. -/
def widen (fmt code : Nat) : Half := (widenTag fmt).ofNum 0 false 0 (decodeFmt fmt code)

/-- VPOPQ (R265): a slab into rows, merged; the rows beyond the valid ones are empty. -/
def execVpopq (g d q : Nat) (s : State) : Out :=
  runWord .vector 1 g (fun s => do
    let sl ← s.headSlab q
    poisonedSlabs [sl]
    let rows := rows16.map fun l => if l < sl.nr then runsOf ((sl.vals.getD l []).map (widen sl.fmt)) else []
    return (s.dropSlabs q 1).wv 4 d (widenTag sl.fmt) rows) s

/-! ## Lane slices (10 R266, R267) -/

/-- Address of byte `o` of the context's part of slice `l` (02 R45). -/
def State.laneAt (s : State) (l o : Nat) : Nat := laneAddr s.ctx.core l (s.ctx.sliceBase + o)

/-- `n` 32-bit words from `a`. -/
def readWords (m : Memory) (a : Nat) : Nat → List Half
  | 0 => []
  | n + 1 => BitVec.ofNat 32 (memNat m a 4) :: readWords m (a + 4) n

/-- VLDL (R266): each row from its own slice; FM-08 in any row before LS-06 in any (R254). -/
def execVldl (g tag d a b : Nat) (s : State) : Out :=
  runWord .vector 1 g (fun s => do
    let n ← s.rx b
    let v := s.ctx.vAt a
    needTag v.tag.isInt
    let live := if n = 0 then [] else rows16.filter fun l => chain (v.row l) != 0
    let off l := (elemAt (v.row l) 0).toNat
    need (live.all fun l => off l % 4 == 0) (flt .FM 8)
    need (live.all fun l => off l + 4 * n.toNat ≤ s.ctx.sliceSize) (flt .LS 6)
    let s ← live.foldlM (fun s l => s.readCheck (s.laneAt l (off l)) (4 * n.toNat)) s
    let rows := rows16.map fun l =>
      if live.contains l then runsOf (readWords s.mem (s.laneAt l (off l)) n.toNat) else []
    checkRuns (fun l => chain (v.row l)) rows
    return s.wv 6 d (tagField tag) rows) s

/-- VSTL (R267): each row expanded into its slice. -/
def execVstl (g a b : Nat) (s : State) : Out :=
  runWord .vector 1 g (fun s => do
    let v := s.ctx.vAt a
    let w := s.ctx.vAt b
    let live := rows16.filter fun l => chain (v.row l) != 0
    let off l := (elemAt (w.row l) 0).toNat
    let have_ := live.filter fun l => chain (w.row l) != 0
    need (have_.all fun l => off l % 4 == 0) (flt .FM 8)
    need (have_.all fun l => off l + 4 * chain (v.row l) ≤ s.ctx.sliceSize) (flt .LS 6)
    checkPos v 0 (live.filter fun l => chain (w.row l) == 0)
    return live.foldl (fun s l => s.store (s.laneAt l (off l)) ((expandRow (v.row l)).flatMap fun x => natLe 4 x.toNat)) s) s

/-! ## The optimiser update (10 R273 to R276) -/

/-- One FP32 operation's result. -/
def r32 (x : Num) : Num := rne32 x

/-- powi (R275): repeated squaring over 16 bits of t. -/
def powi (x : Num) (t : Nat) : Nat → Num → Num
  | 0, p => p
  | n + 1, p =>
    let p := r32 (p.mul p)
    powi x t n (if t.testBit n then r32 (p.mul x) else p)

/-- The hyperparameters (R274). -/
structure Hyper where
  lr : Num
  beta1 : Num
  beta2 : Num
  eps : Num
  wd : Num
  nfskip : Bool
  nobias : Bool
  deriving DecidableEq, Repr

/-- An optimiser record (02 R66). -/
structure OptRec where
  master : Num
  mom1 : Num
  mom2 : Num
  step : Nat
  deriving DecidableEq, Repr

/-- The update of R275: the new record. -/
def optStep (h : Hyper) (r : OptRec) (g : Num) : OptRec :=
  let one := Num.ofNat 1
  let t := min (r.step + 1) 65535
  let m := r32 ((h.beta1.mul r.mom1).add (r32 ((r32 (one.add h.beta1.neg)).mul g)))
  let v := r32 ((h.beta2.mul r.mom2).add (r32 ((r32 (one.add h.beta2.neg)).mul (r32 (g.mul g)))))
  let mh := if h.nobias then m else r32 (m.div (r32 (one.add (powi h.beta1 t 16 one).neg)))
  let vh := if h.nobias then v else r32 (v.div (r32 (one.add (powi h.beta2 t 16 one).neg)))
  let u := r32 (mh.div (r32 ((r32 vh.sqrt).add h.eps)))
  let w := r32 ((h.lr.neg.mul (r32 ((h.wd.mul r.master).add u))).add r.master)
  ⟨w, m, v, t⟩

/-- The FP32 number at an address. -/
def memF32 (m : Memory) (a : Nat) : Num := fp32.decode (memNat m a 4)

/-- The record at `a`. -/
def readRec (m : Memory) (a : Nat) : OptRec := ⟨memF32 m a, memF32 m (a + 4), memF32 m (a + 8), memNat m (a + 14) 2⟩

/-- The bytes of a record, WORK rounded to BF16 under `rnd`. -/
def recBytes (rnd u : Nat) (r : OptRec) : List Byte :=
  natLe 4 (fp32.encode 0 false 0 r.master) ++ natLe 4 (fp32.encode 0 false 0 r.mom1) ++
    natLe 4 (fp32.encode 0 false 0 r.mom2) ++ natLe 2 (bf16.encode rnd false u r.master) ++ natLe 2 r.step

/-- The hyperparameter block at `a`, or FM-16 for a reserved bit. -/
def readHyper (m : Memory) (a : Nat) : Except Stop Hyper := do
  let fl := memNat m (a + 20) 4
  need (fl < 4 && memNat m (a + 24) 8 == 0) (flt .FM 16)
  return ⟨memF32 m a, memF32 m (a + 4), memF32 m (a + 8), memF32 m (a + 12), memF32 m (a + 16), fl % 2 == 1, fl / 2 == 1⟩

/-- Records updated one after another, each with its draw; a skipped record draws nothing. -/
def updateAll (h : Hyper) (rnd a : Nat) : List Num → List Nat → State → State
  | [], _, s => s
  | g :: gs, us, s =>
    if h.nfskip && (g.isNan || g.isInf) then updateAll h rnd (a + 16) gs us s
    else updateAll h rnd (a + 16) gs us.tail (s.store a (recBytes rnd (us.headD 0) (optStep h (readRec s.mem a) g)))

/-- VOPT (R273 to R276): one update per element of Vg, in flattened order; its accesses have their place in the commit order (07 R171,
R183). -/
def execVopt (g r rnd gr h : Nat) (s : State) : Out :=
  runWord .vector 1 g (fun s => do
    let ro ← s.rx r
    let ho ← s.rx h
    let v := s.ctx.vAt gr
    needTag (v.tag == .fp32)
    need (ro.toNat % 16 == 0 && ho.toNat % 32 == 0) (flt .FM 8)
    let gs := (v.rows.flatMap expandRow).map fp32Num
    let e := gs.length
    let reg := s.slotRegion false
    need (ho.toNat + 32 ≤ reg.size && (e == 0 || ro.toNat + 16 * e ≤ reg.size)) (flt .LS 3)
    let hy ← readHyper s.mem (reg.base + ho.toNat)
    let recT := if e = 0 then [] else [reg.touch ro.toNat (16 * e)]
    s.raceCore [reg.touch ho.toNat 32] recT
    let s ← s.readCheck (reg.base + ho.toNat) 32
    let s ← s.readCheck (reg.base + ro.toNat) (16 * e)
    let k := gs.countP fun x => !(hy.nfskip && (x.isNan || x.isInf))
    let (s, us) ← if rnd = 1 then s.drawC k else pure (s, [])
    return (updateAll hy rnd (reg.base + ro.toNat) gs us s).commitOrder) s
where
  fp32Num (x : Half) : Num := fp32.decode x.toNat

end Sys2Proof.Machine
end

