-- ==== Sys2Proof/Machine/Special.lean ====
section
/-! DEFINITION. Class F: special functions, exact and rounded once (10 R277 to R280); and the run registers in the MA slot, VLDR,
VSTX, VPACK, VUNPACK (10 R268 to R272; 05 R118, R136). A function's value is computed in fixed point with 400 fraction bits and cut
off, which keeps more than 200 bits below the last one a rounding looks at. -/
namespace Sys2Proof.Machine

/-- Fraction bits of the fixed-point values below. -/
abbrev fixBits : Nat := 400

/-- One in fixed point. -/
def fixOne : Int := (2 : Int) ^ fixBits

/-- floor(ln 2 · 2^400). -/
def fixLn2 : Int := 0xB17217F7D1CF79ABC9E3B39803F2F6AF40F343267298B62D8A0D175B8BAAFA2BE7B876206DEBAC98559552FB4AFA1B10ED2E

/-- floor(π/2 · 2^600). -/
def fixHalfPi600 : Int := 0x1921FB54442D18469898CC51701B839A252049C1114CF98E804177D4C76273644A29410F31C6809BBDF2A33679A748636605614DBE4BE286E9FC26ADADAA3848BC90B6AECC4BCFD8DE89885

/-- A product in fixed point. -/
def fixMul (a b : Int) : Int := a * b / (2 : Int) ^ fixBits

/-- Σ of a power series: each term is the one before times `z`, divided by a(k). -/
def series (z : Int) (a : Nat → Int) : Nat → Nat → Int → Int → Int
  | 0, _, _, acc => acc
  | n + 1, k, term, acc =>
    let t := fixMul term z / a k
    series z a n (k + 1) t (acc + t)

/-- e^r for |r| below 1. -/
def fixExp (r : Int) : Int := series r (fun k => k + 1) 110 0 fixOne fixOne

/-- cos r and sin r for |r| below 1. -/
def fixCos (r : Int) : Int :=
  series (fixMul r r) (fun k => -((2 * k + 1) * (2 * k + 2) : Nat)) 60 0 fixOne fixOne
def fixSin (r : Int) : Int :=
  series (fixMul r r) (fun k => -((2 * k + 2) * (2 * k + 3) : Nat)) 60 0 r r

/-- Σ z^(2k+1) / (2k+1), for atanh. -/
def atanhSum (z2 : Int) : Nat → Nat → Int → Int
  | 0, _, _ => 0
  | n + 1, k, p => p / (2 * k + 1 : Nat) + atanhSum z2 n (k + 1) (fixMul p z2)

/-- ln(y) for y in fixed point between 0.7 and 1.5. -/
def fixLn (y : Int) : Int :=
  let z := (y - fixOne) * fixOne / (y + fixOne)
  2 * atanhSum (fixMul z z) 90 0 z

/-- A value v · 2^(k − 400) whose last 24 bits are dropped, marked as cut. -/
def cutOff (neg : Bool) (v : Nat) (k : Int) : Num := .fin neg (v / 2 ^ 24) (k - fixBits + 24) true

/-- m · 2^e in fixed point, floor. -/
def toFix (neg : Bool) (m : Nat) (e : Int) : Int :=
  let v : Int := if 0 ≤ e + fixBits then m * 2 ^ (e + fixBits).toNat else m / 2 ^ (-(e + fixBits)).toNat
  if neg then -v else v

/-- e^x = v · 2^k in fixed point, 0.7 < v < 1.5, for x in fixed point. -/
def expParts (x : Int) : Int × Int :=
  let k := (2 * x + fixLn2) / (2 * fixLn2)
  (fixExp (x - k * fixLn2), k)

/-- A number just below 1, and one just above 0. -/
def nearOne (neg : Bool) : Num := .fin neg (2 ^ 200 - 1) (-200) true
def nearZero : Num := .fin false 1 (-1000) true

/-- |m · 2^e| ≥ 2^k. -/
def atLeastPow (m : Nat) (e k : Int) : Bool := k ≤ (m.log2 : Int) + e

/-- 1/x (10 R279). -/
def fnRcp (x : Num) : Num := (Num.ofNat 1).div x

/-- 1/√x. -/
def fnRsq : Num → Num
  | .nan => .nan
  | .inf n => if n then .nan else .zero
  | .fin n m e _ =>
    if m = 0 then .inf n
    else if n then .nan
    else
      let (m, e) := if e % 2 = 0 then (m, e) else (2 * m, e - 1)
      let r := isqrt (2 ^ 300 / m)
      .fin false r (-150 - e / 2) (r * r * m != 2 ^ 300)

/-- e^x. -/
def fnExp : Num → Num
  | .nan => .nan
  | .inf n => if n then .zero else .inf false
  | .fin n m e _ =>
    if m = 0 then .ofNat 1
    else if atLeastPow m e 9 then (if n then nearZero else .fin false 1 1000 false)
    else
      let (v, k) := expParts (toFix n m e)
      cutOff false v.toNat k

/-- 2^x; exact where x is an integer. -/
def fnExp2 : Num → Num
  | .nan => .nan
  | .inf n => if n then .zero else .inf false
  | .fin n m e _ =>
    if m = 0 then .ofNat 1
    else if atLeastPow m e 9 then (if n then nearZero else .fin false 1 1000 false)
    else
      let x := toFix n m e
      let k := x / fixOne
      let f := x % fixOne
      if f = 0 then .fin false 1 k false
      else cutOff false (fixExp (fixMul f fixLn2)).toNat k

/-- A positive m · 2^e as y · 2^k with 0.75 ≤ y < 1.5, y in fixed point. -/
def logParts (m : Nat) (e : Int) : Int × Int :=
  let l := m.log2
  let (num, k) := if 2 ^ (l + 1) * 3 ≤ m * 4 then (m, (l : Int) + 1 + e) else (2 * m, (l : Int) + e)
  ((num * 2 ^ fixBits / 2 ^ (l + 1) : Nat), k)

/-- ln x and log2 x. -/
def fnLogWith (base2 : Bool) : Num → Num
  | .nan => .nan
  | .inf n => if n then .nan else .inf false
  | .fin n m e _ =>
    if m = 0 then .inf true
    else if n then .nan
    else
      let (y, k) := logParts m e
      let t := fixLn y
      if y = fixOne && (k = 0 || base2) then .ofInt k
      else
        let v := if base2 then k * fixOne + t * fixOne / fixLn2 else k * fixLn2 + t
        cutOff (v < 0) v.natAbs 0

/-- x made smaller by less than one unit of 40 bits below its last. -/
def justBelow (n : Bool) (m : Nat) (e : Int) : Num := .fin n (m * 2 ^ 40 - 1) (e - 40) true

/-- tanh x. -/
def fnTanh : Num → Num
  | .nan => .nan
  | .inf n => .fin n 1 0 false
  | .fin n m e _ =>
    if m = 0 then .fin n 0 0 false
    else if !atLeastPow m e (-30) then justBelow n m e
    else if atLeastPow m e 6 then nearOne n
    else
      let (v, k) := expParts (2 * toFix false m e)
      let big := v * 2 ^ k.toNat
      cutOff n ((big - fixOne) * fixOne / (big + fixOne)).toNat 0

/-- 1/(1 + e^−x). -/
def fnSig : Num → Num
  | .nan => .nan
  | .inf n => if n then .zero else .ofNat 1
  | .fin n m e _ =>
    if m = 0 then .fin false 1 (-1) false
    else if atLeastPow m e 8 then (if n then nearZero else nearOne false)
    else
      let (v, k) := expParts (toFix false m e)
      let big := v * 2 ^ k.toNat
      if n then cutOff false (fixOne * fixOne * fixOne / (big + fixOne)).toNat (-fixBits)
      else cutOff false (big * fixOne / (big + fixOne)).toNat 0

/-- x reduced by quarter turns: the remainder in fixed point, between −π/4 and π/4, and the number of quarter turns mod 4. -/
def reduceAngle (m : Nat) (e : Int) : Int × Int :=
  let x : Int := m * 2 ^ (e + 600).toNat
  let q := (2 * x + fixHalfPi600) / (2 * fixHalfPi600)
  ((x - q * fixHalfPi600) / (2 : Int) ^ 200, q % 4)

/-- sin x. -/
def fnSin : Num → Num
  | .nan => .nan
  | .inf _ => .nan
  | .fin n m e _ =>
    if m = 0 then .fin n 0 0 false
    else if !atLeastPow m e (-30) then justBelow n m e
    else
      let (r, q) := reduceAngle m e
      let v := if q % 2 = 0 then fixSin r else fixCos r
      let v := if 2 ≤ q then -v else v
      cutOff (n != decide (v < 0)) v.natAbs 0

/-- cos x. -/
def fnCos : Num → Num
  | .nan => .nan
  | .inf _ => .nan
  | .fin _ m e _ =>
    if m = 0 then .ofNat 1
    else
      let (r, q) := reduceAngle m e
      let v := if q % 2 = 0 then fixCos r else fixSin r
      let v := if q = 1 || q = 2 then -v else v
      cutOff (v < 0) v.natAbs 0

/-- A class F word (10 R277, R279): one result per run, one draw per run under RSTO. -/
def fnBody (L : Nat) (f : Num → Num) (c d rnd a sat : Nat) (s : State) : Except Stop State := do
  let v := s.ctx.vAt a
  needTag (v.tag == .fp32)
  let lens := rows16.map fun l => (v.row l).length
  let (s, us) ← if rnd = 1 then s.drawC (lens.foldl (· + ·) 0) else pure (s, [])
  let rows := List.zipWith (fun rs u => (withDraws rs u).map fun p =>
    Run.mk (f32 rnd (sat == 1) p.2 (f (VTag.fp32.num p.1.val))) p.1.cnt) (rows16.map v.row) (splitAs lens us)
  return s.wv L d .fp32 (if c = 1 then rows.map mergeRuns else rows)

/-- FRCP (R279). -/
def execFrcp (g c d rnd a sat : Nat) (s : State) : Out := runWord .vector 1 g (fnBody 6 fnRcp c d rnd a sat) s

/-- FRSQ (R279). -/
def execFrsq (g c d rnd a sat : Nat) (s : State) : Out := runWord .vector 1 g (fnBody 6 fnRsq c d rnd a sat) s

/-- FSQRT (R279). -/
def execFsqrt (g c d rnd a sat : Nat) (s : State) : Out := runWord .vector 1 g (fnBody 8 Num.sqrt c d rnd a sat) s

/-- FEXP (R279). -/
def execFexp (g c d rnd a sat : Nat) (s : State) : Out := runWord .vector 1 g (fnBody 10 fnExp c d rnd a sat) s

/-- FEXP2 (R279). -/
def execFexp2 (g c d rnd a sat : Nat) (s : State) : Out := runWord .vector 1 g (fnBody 8 fnExp2 c d rnd a sat) s

/-- FLOG (R279). -/
def execFlog (g c d rnd a sat : Nat) (s : State) : Out := runWord .vector 1 g (fnBody 10 (fnLogWith false) c d rnd a sat) s

/-- FLOG2 (R279). -/
def execFlog2 (g c d rnd a sat : Nat) (s : State) : Out := runWord .vector 1 g (fnBody 8 (fnLogWith true) c d rnd a sat) s

/-- FTANH (R279). -/
def execFtanh (g c d rnd a sat : Nat) (s : State) : Out := runWord .vector 1 g (fnBody 12 fnTanh c d rnd a sat) s

/-- FSIG (R279). -/
def execFsig (g c d rnd a sat : Nat) (s : State) : Out := runWord .vector 1 g (fnBody 12 fnSig c d rnd a sat) s

/-- FSIN (R279). -/
def execFsin (g c d rnd a sat : Nat) (s : State) : Out := runWord .vector 1 g (fnBody 12 fnSin c d rnd a sat) s

/-- FCOS (R279). -/
def execFcos (g c d rnd a sat : Nat) (s : State) : Out := runWord .vector 1 g (fnBody 12 fnCos c d rnd a sat) s

/-- FRAND (R280): n unit runs in every row, each a word of channel C. -/
def execFrand (g d a : Nat) (s : State) : Out :=
  runWord .vector 1 g (fun s => do
    let n ← s.rx a
    need (n.toNat ≤ 64) (countFault 1 (min n.toNat 255) (min n.toNat 8191) 0)
    let (s, ws) ← s.wordsC (16 * n.toNat)
    let rows := (splitAs (List.replicate 16 n.toNat) ws).map fun r => r.map fun w => Run.mk (BitVec.ofNat 32 w) 1
    return s.wv 6 d .uint32 rows) s

/-! ## Run registers in the MA slot -/

/-- The formats of VLDR and VSTX (10 R269). -/
def denseFmt (f : Nat) : Bool := (2 ≤ f && f ≤ 7) || (9 ≤ f && f ≤ 13)

/-- Base and pitch of rows of elements of a format; `len` gives the bytes of a row. The footprints of the rows that are not empty,
checked in the order of 10 R254: FM-08, LS-03, FM-15. -/
def State.denseRows (s : State) (base fmt pitch : Nat) (len : Nat → Nat) : Except Stop (Region × List (Nat × Nat × Nat)) := do
  let sz := max 1 (storageBits fmt / 8)
  need (base % sz == 0 && pitch % sz == 0) (flt .FM 8)
  let reg := s.slotRegion false
  let live := (rows16.filter fun l => len l != 0).map fun l => (l, base + l * pitch, len l)
  need (live.all fun p => p.2.1 + p.2.2 ≤ reg.size) (flt .LS 3)
  need (denseFmt fmt) (flt .FM 15)
  return (reg, live)

/-- `n` elements of `sz` bytes from `a`. -/
def readElems (m : Memory) (a sz : Nat) : Nat → List Nat
  | 0 => []
  | n + 1 => memNat m a sz :: readElems m (a + sz) sz n

/-- VLDR (R270). -/
def execVldr (g d a b fmt pitch : Nat) (s : State) : Out :=
  runWord .maMain 2 g (fun s => do
    let base ← s.rx a
    let n ← s.rx b
    let sz := storageBits fmt / 8
    let (reg, live) ← s.denseRows base.toNat fmt pitch (fun _ => n.toNat * sz)
    s.raceCore (live.map fun p => reg.touch p.2.1 p.2.2) []
    need (n.toNat ≤ 4096) (countFault 3 0 (min n.toNat 8191) (min n.toNat 8191))
    let s ← live.foldlM (fun s p => s.readCheck (reg.base + p.2.1) p.2.2) s
    let row l := runsOf ((readElems s.mem (reg.base + base.toNat + l * pitch) sz n.toNat).map (widen fmt))
    let rows := rows16.map fun l => if n = 0 then [] else row l
    checkRuns (fun _ => n.toNat) rows
    return s.wv 6 d (widenTag fmt) rows) s

/-- VSTX (R271). -/
def execVstx (g a src fmt rnd sat pitch : Nat) (s : State) : Out :=
  runWord .maMain 2 g (fun s => do
    let base ← s.rx a
    let v := s.ctx.vAt src
    let sz := storageBits fmt / 8
    let (reg, live) ← s.denseRows base.toNat fmt pitch (fun l => chain (v.row l) * sz)
    s.raceCore [] (live.map fun p => reg.touch p.2.1 p.2.2)
    let counts := live.map fun p => chain (v.row p.1)
    let (s, us) ← if rnd = 1 then s.drawC (counts.foldl (· + ·) 0) else pure (s, [])
    return (List.zip live (splitAs counts us)).foldl (fun s (p, u) =>
      s.store (reg.base + p.2.1) ((withDraws (expandRow (v.row p.1)) u).flatMap fun e =>
        natLe sz (encodeFmt fmt rnd (sat == 1) e.2 (v.tag.num e.1)))) s) s

/-- The home image of a run register (05 R118 to R120). -/
def packImage (v : VReg) : List Byte :=
  let slots := rows16.flatMap fun l =>
    let rs := v.row l
    rs.flatMap (fun r => natLe 4 r.val.toNat ++ natLe 2 r.cnt) ++ List.replicate (6 * (64 - rs.length)) 0
  let heads := rows16.flatMap fun l => natLe 4 ((v.row l).length + 256 * chain (v.row l))
  slots ++ heads ++ natLe 8 v.tag.code ++ List.replicate 56 0

/-- The place of a home image: 64-byte aligned and inside the region (10 R272). -/
def State.imagePlace (s : State) (a : Nat) : Except Stop (Region × Nat) := do
  let base ← s.rx a
  need (base.toNat % 64 == 0) (flt .FM 8)
  let reg := s.slotRegion false
  need (base.toNat + 6272 ≤ reg.size) (flt .LS 3)
  return (reg, base.toNat)

/-- VPACK (R272). -/
def execVpack (g a src : Nat) (s : State) : Out :=
  runWord .maMain 1 g (fun s => do
    let (reg, o) ← s.imagePlace a
    s.raceCore [] [reg.touch o 6272]
    return s.store (reg.base + o) (packImage (s.ctx.vAt src))) s

/-- The runs of a row of an image at `a`, from slot `k` on. -/
def readSlots (m : Memory) (a : Nat) : Nat → List (Nat × Nat)
  | 0 => []
  | n + 1 => (memNat m a 4, memNat m (a + 4) 2) :: readSlots m (a + 6) n

/-- A row of an image, or none where R136 fails it. -/
def unpackRow (m : Memory) (a l : Nat) : Option (List Run) :=
  let h := memNat m (a + 6144 + 4 * l) 4
  let n := bits h 0 7
  let ch := bits h 8 13
  let rs := if n ≤ 64 then readSlots m (a + 384 * l) n else []
  if n ≤ 64 && bits h 7 1 == 0 && bits h 21 11 == 0 && ch ≤ 4096 && rs.all (fun r => 1 ≤ r.2 && r.2 ≤ 4096) &&
      ch == (rs.map (·.2)).foldl (· + ·) 0 then
    some (rs.map fun r => ⟨BitVec.ofNat 32 r.1, r.2⟩)
  else none

/-- A register word's tag. -/
def tagOfCode (w : Nat) : Option VTag :=
  if w = 0x06 then some .int32 else if w = 0x07 then some .uint32 else if w = 0x09 then some .fp32 else none

/-- VUNPACK (R272), with the checks of 05 R136 and the detail of R481. -/
def execVunpack (g d a : Nat) (s : State) : Out :=
  runWord .maMain 1 g (fun s => do
    let (reg, o) ← s.imagePlace a
    let at_ := reg.base + o
    s.raceCore [reg.touch o 6272] []
    let s ← s.readCheck at_ 6272
    let bad := rows16.filter fun l => (unpackRow s.mem at_ l).isNone
    let chainOf l := bits (memNat s.mem (at_ + 6144 + 4 * l) 4) 8 13
    match bad with
    | l :: _ => .error (rnFault 4 l (rowBits bad) 0 (chainOf l) 0 0)
    | [] =>
      match tagOfCode (memNat s.mem (at_ + 6208) 8) with
      | none => .error (rnFault 4 0 0 0 (chainOf 0) 0 0)
      | some tag =>
        need ((memRead s.mem (at_ + 6216) 56).all (· == 0)) (rnFault 4 0 0 0 (chainOf 0) 0 0)
        return s.wv 6 d tag (rows16.map fun l => (unpackRow s.mem at_ l).getD [])) s

end Sys2Proof.Machine
end

