-- ==== Sys2Proof/Machine/Types.lean ====
section
/-! DEFINITION. Type words: fields, validation, storage, unification, the elements and scales of a tile home (04 R94 to R112; 03 R80
to R82, R89). -/
namespace Sys2Proof.Machine

/-! ## Fields (04 R97 to R99) -/

def twRank (w : Word) : Nat := bits w.toNat 61 3
def twFmt (w : Word) : Nat := bits w.toNat 56 5
def twLayout (w : Word) : Nat := bits w.toNat 52 4
def twGeom (w : Word) : Nat := bits w.toNat 48 4
def twFlags (w : Word) : Nat := bits w.toNat 40 8
def twExt (w : Word) (k : Nat) : Nat := bits w.toNat (10 * k) 10
def twComp (w : Word) : Bool := w.getLsbD 40
def twStrict (w : Word) : Bool := w.getLsbD 41
def twSkip (w : Word) : Bool := w.getLsbD 42
def twView (w : Word) : Bool := w.getLsbD 43
def twPruned (w : Word) : Bool := w.getLsbD 44

/-- The extent fields in use. -/
def twExts (w : Word) : List Nat := (List.range (twRank w)).map (twExt w)

/-- A type word from its fields. -/
def mkType (rank fmt layout geom flags : Nat) (ext : List Nat) : Word :=
  word (rank * 2 ^ 61 + fmt * 2 ^ 56 + layout * 2 ^ 52 + geom * 2 ^ 48 + flags * 2 ^ 40 +
    (ext.getD 0 0 + ext.getD 1 0 * 2 ^ 10 + ext.getD 2 0 * 2 ^ 20 + ext.getD 3 0 * 2 ^ 30))

/-- The flags STRICT and SKIP. -/
def keepFlags (w : Word) : Nat := twFlags w / 2 % 4 * 2

/-- The last two entries exchanged. -/
def swapLast {α : Type} (l : List α) : List α :=
  match l.reverse with
  | a :: b :: r => (b :: a :: r).reverse
  | _ => l

/-! ## Validation (04 R101) -/

/-- An extent field in use is well formed (04 R98). -/
def extOk (e : Nat) : Bool := if e < 512 then 1 ≤ e else (e - 512) < 16

/-- The FM number of the first failure of R101, if any. -/
def typeFault (comp : Bool) (w : Word) : Option Nat :=
  let r := twRank w
  let f := twFmt w
  let g := twGeom w
  if 4 < r then some 3
  else if storageBits f = 0 then some 1
  else if 1 < twLayout w || (twLayout w == 1 && r == 1) then some 6
  else if 2 < g || (g != 0 && !scalable f) || (g == 2 && r == 1) then some 2
  else if 32 ≤ twFlags w then some 4
  else if !(twExts w).all extOk || (List.range 4).any (fun k => r ≤ k && twExt w k != 0) then some 5
  else if !comp && twComp w then some 10
  else none

/-- A type word presented as an operand; the word of an empty tile has nothing to validate. -/
def checkType (comp : Bool) (w : Word) : Except Stop Unit :=
  if w = 0 then .ok ()
  else
    match typeFault comp w with
    | some n => .error (flt .FM n)
    | none => .ok ()

/-! ## Storage (04 R100, R102; 03 R68, R81, R82) -/

/-- A resolved type, taken apart. -/
structure TLay where
  fmt : Nat
  geom : Nat
  layout : Nat
  comp : Bool
  strict : Bool
  skip : Bool
  view : Bool
  pruned : Bool
  ext : List Nat
  deriving DecidableEq, Repr

def layOf (w : Word) : TLay :=
  ⟨twFmt w, twGeom w, twLayout w, twComp w, twStrict w, twSkip w, twView w, twPruned w, twExts w⟩

/-- Logical indices or extents in stored order: TVIEW exchanges the last two. -/
def TLay.stored (t : TLay) (l : List Nat) : List Nat := if t.view then swapLast l else l

def ceilDiv (a b : Nat) : Nat := (a + b - 1) / b

/-- Row-major number of an index vector. -/
def flatIdx (ext idx : List Nat) : Nat := (List.zip ext idx).foldl (fun a p => a * p.1 + p.2) 0

/-- Stored extents with the last two rounded up to whole 32 × 32 blocks. -/
def blkExts (ext : List Nat) : List Nat :=
  match ext.reverse with
  | a :: b :: r => (32 * ceilDiv a 32 :: 32 * ceilDiv b 32 :: r).reverse
  | _ => ext

/-- Element places of the storage. -/
def TLay.places (t : TLay) : Nat :=
  let e := t.stored t.ext
  listProd (if t.layout = 1 then blkExts e else e)

/-- The place of a stored index vector (04 R100). -/
def TLay.placeOf (t : TLay) (sidx : List Nat) : Nat :=
  let e := t.stored t.ext
  if t.layout = 1 then
    let b := blkExts e
    let r := b.length
    let rows := b.getD (r - 2) 1
    let cols := b.getD (r - 1) 1
    let i := sidx.getD (r - 2) 0
    let j := sidx.getD (r - 1) 0
    flatIdx (e.take (r - 2)) (sidx.take (r - 2)) * (rows * cols) +
      (i / 32 * (cols / 32) + j / 32) * 1024 + i % 32 * 32 + j % 32
  else flatIdx e sidx

/-- Bytes of the element area. -/
def TLay.earea (t : TLay) : Nat :=
  let n := ceilDiv (t.places * storageBits t.fmt) 8
  if t.comp then 256 * ceilDiv n 256 else n

/-- The blocked axis in stored order: 1 the last extent, 2 the one before. TVIEW does nothing on a rank-1 type (log entry 117). -/
def TLay.axis (t : TLay) : Nat := if t.view && t.geom != 0 && 2 ≤ t.ext.length then 3 - t.geom else t.geom

/-- Stored elements of one block along the blocked axis: 16 on a PRUNED tile (12 R316), else 32. -/
def TLay.unit (t : TLay) : Nat := if t.pruned then 16 else 32

/-- An entry of the list at `back` places before its end, changed. -/
def mapBack (f : Nat → Nat) (back : Nat) (l : List Nat) : List Nat :=
  if l.length < back then l else l.mapIdx fun i x => if i = l.length - back then f x else x

/-- The grid of scale blocks in stored order. -/
def TLay.grid (t : TLay) : List Nat := mapBack (ceilDiv · t.unit) t.axis (t.stored t.ext)

def TLay.blocks (t : TLay) : Nat := if t.geom = 0 then 0 else listProd t.grid

/-- The scale block of a logical index vector. -/
def TLay.blockAt (t : TLay) (idx : List Nat) : Nat :=
  flatIdx t.grid (mapBack (· / t.unit) t.axis (t.stored idx))

/-- Offset of the scale area. -/
def TLay.scaleAt (t : TLay) : Nat := 64 * ceilDiv t.earea 64

/-- End of elements and scales. -/
def TLay.scaleEnd (t : TLay) : Nat := if t.geom = 0 then t.earea else t.scaleAt + t.blocks

/-- Offset of the class area. -/
def TLay.classAt (t : TLay) : Nat := 64 * ceilDiv t.scaleEnd 64

/-- End of the storage (04 R102). -/
def TLay.size (t : TLay) : Nat := if t.comp then t.classAt + 64 else t.scaleEnd

/-- Every logical index vector, in ascending element index. -/
def TLay.indices (t : TLay) : List (List Nat) := boxCoords (t.ext.map fun n => (0, n))

/-! ## Elements of a tile home -/

/-- Where an element's bits lie: byte and bit from the start of the home. -/
def TLay.bitAt (t : TLay) (idx : List Nat) : Nat × Nat :=
  let b := t.placeOf (t.stored idx) * storageBits t.fmt
  (b / 8, b % 8)

/-- The class of element block `b` of a compressed tile. -/
def TLay.classOf (t : TLay) (m : Memory) (base b : Nat) : Nat := bits (memNat m (base + t.classAt + 3 * b / 8) 2) (3 * b % 8) 3

/-- Element block `b`, expanded. -/
def TLay.block (t : TLay) (m : Memory) (base b : Nat) : Except FaultRec (List Byte) :=
  match expandBlock t.fmt (t.classOf m base b) (memRead m (base + 256 * b) 256) with
  | .ok bs => .ok bs
  | .error n => .error { cls := .CP, num := n, lines := linesOf (base + 256 * b) 256 }

/-- The fault of the first block of a compressed tile that cannot be read. -/
def TLay.badBlock (t : TLay) (m : Memory) (base : Nat) : Option FaultRec :=
  if t.comp then
    (List.range (t.earea / 256)).findSome? fun b => match t.block m base b with
      | .ok _ => none
      | .error f => some f
  else none

/-- The storage bits of an element as stored, compressed or not. -/
def TLay.rawCode (t : TLay) (m : Memory) (base : Nat) (idx : List Nat) : Nat :=
  let (byte, bit) := t.bitAt idx
  bits (memNat m (base + byte) (ceilDiv (storageBits t.fmt) 8)) bit (storageBits t.fmt)

/-- The storage bits of an element. -/
def TLay.code (t : TLay) (m : Memory) (base : Nat) (idx : List Nat) : Except FaultRec Nat :=
  if t.comp then do
    let (byte, bit) := t.bitAt idx
    let bs ← t.block m base (byte / 256)
    return bits (leNat ((bs.drop (byte % 256)).take (ceilDiv (storageBits t.fmt) 8))) bit (storageBits t.fmt)
  else .ok (t.rawCode m base idx)

/-- The SC8 code of an element's block; 127, the scale 1, where the tile has none. -/
def TLay.scale (t : TLay) (m : Memory) (base : Nat) (idx : List Nat) : Nat :=
  if t.geom = 0 then 127 else (memGet m (base + t.scaleAt + t.blockAt idx)).toNat

/-- The element's bits written as stored. -/
def State.putCode (s : State) (t : TLay) (base : Nat) (idx : List Nat) (code : Nat) : State :=
  let (byte, bit) := t.bitAt idx
  let sb := storageBits t.fmt
  let n := ceilDiv sb 8
  let old := memNat s.mem (base + byte) n
  s.store (base + byte) (natLe n (old - bits old bit sb * 2 ^ bit + code % 2 ^ sb * 2 ^ bit))

/-- The SC8 code of an element's block written. -/
def State.putScale (s : State) (t : TLay) (base : Nat) (idx : List Nat) (e : Nat) : State :=
  s.store (base + t.scaleAt + t.blockAt idx) (natLe 1 e)

/-- The class of an element block written. -/
def State.putClass (s : State) (t : TLay) (base b cls : Nat) : State :=
  let a := base + t.classAt + 3 * b / 8
  let old := memNat s.mem a 2
  let sh := 3 * b % 8
  s.store a (natLe 2 (old - bits old sh 3 * 2 ^ sh + cls * 2 ^ sh))

/-- The element blocks of a compressed tile that hold an element not among `ws`, those to be written: they are written in part. -/
def TLay.partBlocks (t : TLay) (ws : List (List Nat)) : List Nat :=
  ((t.indices.filter fun i => !ws.contains i).map fun i => (t.bitAt i).1 / 256).dedup

/-- Every element block of a compressed tile laid open as class 4; only those written in part are read (02 R55). -/
def State.openTile (s : State) (t : TLay) (base : Nat) (part : List Nat) : Except FaultRec State :=
  (List.range (t.earea / 256)).foldlM (fun s b => do
    let bs ← if part.contains b then t.block s.mem base b else pure (List.replicate 256 0)
    return (s.store (base + 256 * b) bs).putClass t base b 4) s

/-- Every element block of a compressed tile coded again (02 R55). -/
def State.closeTile (s : State) (t : TLay) (base : Nat) : State :=
  (List.range (t.earea / 256)).foldl (fun s b =>
    let (cls, st) := compressBlock t.fmt (memRead s.mem (base + 256 * b) 256)
    (s.store (base + 256 * b) st).putClass t base b cls) s

/-- The padding places of a tile hold code 0 (03 R90, 04 R100). -/
def State.padTile (s : State) (t : TLay) (base : Nat) : State :=
  if t.layout = 1 then
    let e := t.stored t.ext
    let flat : TLay := { t with view := false, ext := e }
    (boxCoords ((blkExts e).map fun n => (0, n))).foldl (fun s i =>
      if (List.zipWith (fun x n => decide (n ≤ x)) i e).any id then s.putCode flat base i 0 else s) s
  else s

/-- The lines of a tile's storage, for marks. -/
def TLay.touch (t : TLay) (cid n : Nat) : Touch := ⟨.tile cid n, 0, (t.size - 1) / 64, 0⟩

/-! ## Unification (04 R105 to R109) -/

/-- An extent as it resolves: a value, or an unbound variable. -/
inductive ExtV where
  | val (n : Nat)
  | var (v : Nat)
  deriving DecidableEq, Repr

/-- resolve of R106. -/
def State.resolveExt (s : State) (e : Nat) : ExtV :=
  if e < 512 then .val e
  else
    let v := e % 16
    match amGet s.bun.pend v with
    | some n => .val n
    | none =>
      match s.ctx.dAt v with
      | some n => .val n
      | none => .var v

/-- The variable an extent field names. -/
def extVar (e : Nat) : Option Nat := if e < 512 then none else some (e % 16)

/-- A type word with every extent replaced whose variable is bound (04 R105). -/
def State.resolveType (s : State) (w : Word) : Word :=
  mkType (twRank w) (twFmt w) (twLayout w) (twGeom w) (twFlags w)
    ((List.range 4).map fun k =>
      let e := twExt w k
      match s.resolveExt e with
      | .val n => if k < twRank w then n else e
      | .var _ => e)

/-- The first extent still symbolic, with its variable. -/
def openExt (w : Word) : Option (Nat × Nat) :=
  ((List.range (twRank w)).find? fun k => 512 ≤ twExt w k).map fun k => (k, twExt w k % 16)

/-- SH-06 unless every extent resolves; the operand's number and word as presented. -/
def State.needBound (s : State) (w : Word) (op : Nat) : Except Stop Unit :=
  match openExt (s.resolveType w) with
  | some (k, v) => .error (shFault 5 k (some v) none op 0 w 0)
  | none => .ok ()

/-- SH-08 unless the resolved type fits its home (04 R102). -/
def needFits (w : Word) (op : Nat) : Except Stop Unit :=
  need ((openExt w).isSome || twRank w == 0 || (layOf w).size ≤ 32768) (shFault 7 0 none none op 0 w 0)

/-- SH-01 for an operand that must not be empty. -/
def needFull (w : Word) (op : Nat) : Except Stop Unit := need (w != 0) (shFault 0 0 none none op 0 w 0)

/-- The smaller of the variables two fields name. -/
def lowVar : Option Nat → Option Nat → Option Nat
  | some a, some b => some (min a b)
  | some a, none => some a
  | none, b => b

/-- A binding pending in the bundle (04 R106). -/
def State.bind (s : State) (v n : Nat) : State := { s with bun := { s.bun with pend := amSet s.bun.pend v n } }

/-- unify_extent of R106: extent field `a` of operand `opa` with `b` of operand `opb`. -/
def State.unifyExt (s : State) (k a b opa opb : Nat) (ta tb : Word) : Except Stop State :=
  match s.resolveExt a, s.resolveExt b with
  | .val x, .val y =>
    if x = y then .ok s else .error (shFault 4 k (lowVar (extVar a) (extVar b)) none opa opb ta tb)
  | .var v, .val y => .ok (s.bind v y)
  | .val x, .var w => .ok (s.bind w x)
  | .var v, .var w => if v = w then .ok s else .error (shFault 6 k (some v) (some w) opa opb ta tb)

/-- The extents of two operands of equal rank, in ascending index. -/
def State.unifyExts (s : State) (opa opb : Nat) (ta tb : Word) : Except Stop State :=
  (List.range (twRank ta)).foldlM (fun s k => s.unifyExt k (twExt ta k) (twExt tb k) opa opb ta tb) s

/-- A type word written back where it resolves further (04 R105). -/
def State.writeBack (s : State) (n : Nat) : State :=
  let w := s.ctx.twAt n
  let r := s.resolveType w
  if r = w then s else s.post 1 (.tw n r)

/-! ## Quantising (03 R89) -/

/-- qmax of a scaled format. -/
def qmax (fmt : Nat) : Nat := if fmt = 0x02 then 127 else if fmt = 0x00 then 7 else if fmt = 0x0C then 64 else 16

/-- The larger of two magnitudes. -/
def magMax (x y : Num) : Num := if x.abs.lt false y.abs then y.abs else x.abs

/-- A block quantised: its SC8 code and the codes of its elements, each with its draw. -/
def quantBlock (fmt rnd : Nat) (xs : List (Num × Nat)) : Nat × List Nat :=
  if xs.any (·.1.isNan) then (255, xs.map fun _ => 0)
  else if xs.all (·.1.isZero) then (0, xs.map fun _ => 0)
  else
    let amax := xs.foldl (fun m x => magMax m x.1) .zero
    let top (e : Nat) : Num := .fin false (qmax fmt) ((e : Int) - 127) false
    let e := (((List.range 254).map (· + 1)).find? fun e => !(top e).lt false amax).getD 254
    (e, xs.map fun x => encodeFmt fmt rnd true x.2 (x.1.mul (.fin false 1 (127 - (e : Int)) false)))

/-- The value of an element: code times scale, a zero block +0, a NaN scale NaN (03 R80). -/
def TLay.value (t : TLay) (code e : Nat) : Num := if t.geom = 0 then decodeFmt t.fmt code else scaleBy e (decodeFmt t.fmt code)

end Sys2Proof.Machine
end

