-- ==== Sys2Proof/Machine/Tile.lean ====
section
/-! DEFINITION. Tile words: types, dimension variables, tile data through the core, reshape, transpose, cast, conversion, pruning,
tile images through the memory slots, and what a queued tile-engine form does when it completes (12 R302 to R317, R331, R332;
04 R94, R110, R113). -/
namespace Sys2Proof.Machine

/-! ## Types and dimension variables (12 R306 to R309) -/

/-- TSETT (R307). A word of rank 0 that is not 0 is FM-05 before its other fields are looked at (log entry 144). -/
def execTsett (g t a : Nat) (s : State) : Out :=
  runWord .eMain 1 g (fun s => do
    s.nameTiles [t]
    let w ← s.rx a
    if twRank w = 0 then need (w == 0) (flt .FM 5) else checkType true w
    needFits w 0
    return s.post 1 (.tw t w)) s

/-- TGETT (R307). -/
def execTgett (g d t : Nat) (s : State) : Out :=
  runWord .eMain 1 g (fun s => do
    s.nameTiles [t]
    return s.wx 1 d (s.ctx.twAt t)) s

/-- A value to bind: 1 to 511, else FM-19 (R309). -/
def State.dimValue (s : State) (a : Nat) : Except Stop Nat := do
  let v ← s.rx a
  need (1 ≤ v.toNat && v.toNat ≤ 511) (flt .FM 19)
  return v.toNat

/-- DBIND (R309): the binding is pending until the commit, so that a later word of the bundle sees it (04 R108). -/
def execDbind (g d a : Nat) (s : State) : Out :=
  runWord .eMain 1 g (fun s => do
    let v ← s.dimValue a
    match s.ctx.dAt d with
    | none => return s.bind d v
    | some n =>
      need (n == v) (shFault 4 0 (some d) none 0 0 0 0)
      return s) s

/-- DREBIND (R309): the variable changes at the commit, and only later bundles see it (R306; log entry 111). -/
def execDrebind (g d a : Nat) (s : State) : Out :=
  runWord .eMain 1 g (fun s => do
    let v ← s.dimValue a
    return s.post 1 (.d d (some v))) s

/-- DCLR (R309). -/
def execDclr (g m : Nat) (s : State) : Out :=
  runWord .eMain 1 g (fun s =>
    .ok ((List.range 16).foldl (fun s k => if m.testBit k then s.post 1 (.d k none) else s) s)) s

/-- DGET (R309). -/
def execDget (g d a : Nat) (s : State) : Out :=
  runWord .eMain 1 g (fun s => .ok (s.wx 1 d (word ((s.ctx.dAt a).getD 0)))) s

/-- TFLAG (R308): SET and CLR bit 0 STRICT, bit 1 SKIP. -/
def execTflag (g t clr set : Nat) (s : State) : Out :=
  runWord .eMain 1 g (fun s => do
    s.nameTiles [t]
    let w := s.ctx.twAt t
    checkType true w
    needFull w 0
    let w := (w ||| word (set * 2 ^ 41)) &&& ~~~(word (clr * 2 ^ 41))
    needFits (s.resolveType w) 0
    return s.post 1 (.tw t (s.resolveType w))) s

/-! ## Tile data through the core (12 R310, R311) -/

/-- The resolved type of a tile whose data move, `op` its operand number: SH-01, SH-06, SH-08. -/
def State.dataType (s : State) (t op : Nat) : Except Stop Word := do
  let w := s.ctx.twAt t
  needFull w op
  s.needBound w op
  let r := s.resolveType w
  needFits r op
  return r

/-- TZERO (R310). -/
def execTzero (g t : Nat) (s : State) : Out :=
  runWord .eMain 1 g (fun s => do
    s.nameTiles [t]
    checkType false (s.ctx.twAt t)
    let w ← s.dataType t 0
    let l := layOf w
    s.raceCore [] [l.touch s.me t]
    let base := tileAddr s.me t 0
    let s := s.store base (List.replicate l.earea 0)
    let s := if l.geom = 0 then s else s.store (base + l.scaleAt) (List.replicate l.blocks 0)
    return s.writeBack t) s

/-- TMOV (R310). -/
def execTmov (g d a : Nat) (s : State) : Out :=
  runWord .eMain 1 g (fun s => do
    s.nameTiles [d, a]
    checkType false (s.ctx.twAt a)
    let w ← s.dataType a 1
    if d = a then return s
    let l := layOf w
    s.raceCore [l.touch s.me a] [l.touch s.me d]
    let s ← s.readCheck (tileAddr s.me a 0) l.size
    let s := s.store (tileAddr s.me d 0) (memRead s.mem (tileAddr s.me a 0) l.size)
    return (s.writeBack a).post 1 (.tw d w)) s

/-- The area and the type of a TLDS or TSTS (R311): FM-08, FM-09, LS-03. -/
def State.imageArea (s : State) (mb : Bool) (t a order op : Nat) : Except Stop (Region × Nat × Word) := do
  s.nameTiles [t]
  let x ← s.rx a
  checkType true (s.ctx.twAt t)
  let w ← s.dataType t op
  let l := layOf w
  need (x.toNat % 64 == 0) (flt .FM 8)
  need (order == 0 || l.ext.getLastD 0 * storageBits l.fmt % 512 == 0) (flt .FM 9)
  let reg := s.slotRegion mb
  need (x.toNat + l.size ≤ reg.size) (flt .LS 3)
  return (reg, x.toNat, w)

def doTlds (mb : Bool) (g t a order : Nat) (s : State) : Out :=
  runWord (slotKindMain mb) 1 g (fun s => do
    let (reg, o, w) ← s.imageArea mb t a order 0
    let l := layOf w
    s.raceCore [reg.touch o l.size] [l.touch s.me t]
    let s ← s.readCheck (reg.base + o) l.size
    return (s.store (tileAddr s.me t 0) (memRead s.mem (reg.base + o) l.size)).writeBack t) s

def doTsts (mb : Bool) (g t a order : Nat) (s : State) : Out :=
  runWord (slotKindMain mb) 1 g (fun s => do
    let (reg, o, w) ← s.imageArea mb t a order 1
    let l := layOf w
    s.raceCore [l.touch s.me t] [reg.touch o l.size]
    let s ← s.readCheck (tileAddr s.me t 0) l.size
    return (s.store (reg.base + o) (memRead s.mem (tileAddr s.me t 0) l.size)).writeBack t) s

/-- TLDS from core scratch (R311). -/
def execTlds (g t a o : Nat) (s : State) : Out := doTlds false g t a o s

/-- TSTS to core scratch (R311). -/
def execTsts (g t a o : Nat) (s : State) : Out := doTsts false g t a o s

/-- TLDS from cluster memory (R311). -/
def execTldsCm (g t a : Nat) (s : State) : Out := doTlds true g t a 0 s

/-- TSTS to cluster memory (R311). -/
def execTstsCm (g t a : Nat) (s : State) : Out := doTsts true g t a 0 s

/-! ## Tile-engine forms (12 R305) -/

/-- Places of a core's copy engine taken: copies and tile-engine forms not yet complete (06 R149). -/
def State.placesTaken (s : State) (core : Nat) : Nat :=
  (s.ops.filter fun o => o.core == core && !o.carried &&
    (match o.kind with
     | .copy _ => true
     | .tile _ => true
     | _ => false)).length

/-- Places of a core's copy engine (06 R149, R167). -/
def copyPlacesOf (core : Nat) : Nat := if core < 384 then 128 else 32

/-- The read and write marks of touches. -/
def readMark (t : Touch) : Mark := ⟨t.space, t.lo, t.hi, false, false, t.win⟩
def writeMark (t : Touch) : Mark := ⟨t.space, t.lo, t.hi, true, false, t.win⟩

/-- A tile-engine form: tag, draws of channel E, race check, place, fork (R304); the destination types are written resolved. -/
def State.forkTile (s : State) (tag : Nat) (form : TileForm) (d a : Nat) (twD twA twE : Word) (e : Option Nat) (draws : Nat) :
    Except Stop State := do
  needFits twD 0
  let rd := [(layOf twA).touch s.me a]
  let wr := (layOf twD).touch s.me d :: (match e with
    | some e => [(layOf twE).touch s.me e]
    | none => [])
  let s ← s.raiseTag tag 1
  let (s, us) ← s.drawE draws
  s.raceEngine rd wr
  need (s.placesTaken s.ctx.core < copyPlacesOf s.ctx.core) (.block (.copyPlaces s.ctx.core))
  let s := s.addOp (some tag) (.tile ⟨form, d, a, twD, twA, twE, us⟩) (rd.map readMark ++ wr.map writeMark)
  let s := (s.writeBack a).post 1 (.tw d twD)
  return match e with
    | some e => s.post 1 (.tw e twE)
    | none => s

/-- The number of elements of a resolved type. -/
def twCount (w : Word) : Nat := listProd (twExts w)

/-- Type-only reshape (04 R110). -/
def reshapeTypeOnly (w : Word) (old new : List Nat) : Bool :=
  let plain := twLayout w == 0 && !twView w
  (plain && twGeom w == 0) ||
    (plain && twGeom w == 1 && old.getLastD 0 % 32 == 0 && new.getLastD 0 % 32 == 0) ||
    (old.reverse.take 2 == new.reverse.take 2)

/-- TRESHP's operand Xb: rank, reserved bits and extents, in the order of 04 R101 (R312; log entry 39). -/
def checkShape (x : Word) : Except Stop Unit := do
  need (twRank x ≤ 4) (flt .FM 3)
  need (bits x.toNat 40 21 == 0) (flt .FM 4)
  need (twRank x != 0) (flt .FM 5)
  checkType true x

/-- TRESHP (R312): both operands are validated, the form is chosen, then the constraints come in the order of 04 R107. SH-05 and SH-06 name Xb
as operand 0, by the word that Ta has with Xb's rank and extents (log entry 145). -/
def execTreshp (g d a b tag : Nat) (s : State) : Out :=
  runWord .eMain 2 g (fun s => do
    s.nameTiles [d, a]
    let x ← s.rx b
    let w := s.ctx.twAt a
    let n := mkType (twRank x) (twFmt w) (twLayout w) (twGeom w) (twFlags w) ((List.range 4).map (twExt x))
    let w' := s.resolveType w
    let n' := s.resolveType n
    let bound := (openExt w').isNone && (openExt n').isNone
    let engine := d != a || (bound && !reshapeTypeOnly w' (twExts w') (twExts n'))
    checkType (d == a) w
    checkShape x
    need (!(engine && twComp w)) (flt .FM 10)
    needFull w 1
    need (!engine || twGeom w == 0) (shFault 2 0 none none 1 0 w 0)
    need (!bound || twCount w' == twCount n') (shFault 4 0 none none 1 0 w n)
    s.needBound w 1
    s.needBound n 0
    needFits w' 1
    if !engine then
      needFits n' 0
      return s.post 1 (.tw d n')
    else
      s.forkTile tag .reshape d a (mkType (twRank n') (twFmt n') 0 0 (twFlags n' &&& 0xF7) (twExts n')) w' 0 none 0) s

/-- GEOM 1 and 2 exchanged (03 R81). -/
def swapGeom (g : Nat) : Nat := if g = 0 then 0 else 3 - g

/-- TTRANS (R313). -/
def execTtrans (g d a tag : Nat) (s : State) : Out :=
  runWord .eMain 2 g (fun s => do
    s.nameTiles [d, a]
    let w := s.ctx.twAt a
    checkType (d == a) w
    need (2 ≤ twRank w) (shFault 0 0 none none 1 0 w 0)
    let ext := swapLast (twExts w)
    if d = a then
      let n := s.resolveType (mkType (twRank w) (twFmt w) (twLayout w) (swapGeom (twGeom w)) (twFlags w ^^^ 8) ext)
      needFits n 0
      return s.post 1 (.tw d n)
    else
      s.needBound w 1
      let w' := s.resolveType w
      needFits w' 1
      s.forkTile tag .transpose d a
        (mkType (twRank w) (twFmt w) 0 (swapGeom (twGeom w)) (twFlags w &&& 0xF7) (swapLast (twExts w'))) w' 0 none 0) s

/-- Whether a reinterpreting cast keeps the bits (04 R110). -/
def castOk (w : Word) (fmt : Nat) : Bool :=
  let odd (f : Nat) : Bool := f == 0x0D || f == 0x0F || f == 0x10
  storageBits (twFmt w) == storageBits fmt && twGeom w == 0 && !odd (twFmt w) && !odd fmt

/-- TCAST (R314). -/
def execTcast (g d a tag fmt : Nat) (s : State) : Out :=
  runWord .eMain 2 g (fun s => do
    s.nameTiles [d, a]
    let w := s.ctx.twAt a
    checkType (d == a) w
    needFull w 1
    need (castOk w fmt) (shFault 1 0 none none 1 0 w 0)
    if d = a then
      let n := s.resolveType (mkType (twRank w) fmt (twLayout w) 0 (twFlags w) (twExts w))
      needFits n 0
      return s.post 1 (.tw d n)
    else
      s.needBound w 1
      let w' := s.resolveType w
      needFits w' 1
      s.forkTile tag .cast d a (mkType (twRank w) fmt 0 0 (twFlags w &&& 0xF7) (twExts w')) w' 0 none 0) s

def isFloat (f : Nat) : Bool := f == 0x09 || f == 0x0A || f == 0x0B

/-- A converting form (R315): `okS` and `okT` the formats, `okG` the source's geometries, `geom` that of the target, of `geoms`. -/
def convBody (form : TileForm) (rnd d a tag fmt geom : Nat) (okS okT okG : Nat → Bool) (geoms : List Nat) (s : State) :
    Except Stop State := do
  s.nameTiles [d, a]
  let w := s.ctx.twAt a
  checkType false w
  needFull w 1
  need (okS (twFmt w)) (shFault 1 0 none none 1 0 w 0)
  need (okT fmt) (shFault 1 0 none none 0 0 0 0)
  need (okG (twGeom w)) (shFault 2 0 none none 1 0 w 0)
  need (geoms.contains geom) (shFault 2 0 none none 0 0 0 0)
  need (geom != 2 || 2 ≤ twRank w) (shFault 2 0 none none 1 0 w 0)
  s.needBound w 1
  let w' := s.resolveType w
  needFits w' 1
  s.forkTile tag form d a (mkType (twRank w) fmt 0 geom (keepFlags w) (twExts w')) w' 0 none (if rnd = 1 then twCount w' else 0)

/-- TCVT (R315). -/
def execTcvt (g d a tag fmt rnd sat : Nat) (s : State) : Out :=
  runWord .eMain 2 g (convBody (.convert rnd sat) rnd d a tag fmt 0 (· ≤ 0x0E) (· ≤ 0x0E) (· == 0) [0]) s

/-- TQNT (R315). -/
def execTqnt (g d a tag fmt geom rnd : Nat) (s : State) : Out :=
  runWord .eMain 2 g (convBody (.quantise rnd) rnd d a tag fmt geom isFloat scalable (· == 0) [1, 2]) s

/-- TDQNT (R315). -/
def execTdqnt (g d a tag fmt rnd sat : Nat) (s : State) : Out :=
  runWord .eMain 2 g (convBody (.dequantise rnd sat) rnd d a tag fmt 0 scalable isFloat (· != 0) [0]) s

/-- The formats TCMPR prunes (R316). -/
def prunable (f : Nat) : Bool := scalable f || f == 0x0A || f == 0x0B

/-- TCMPR (R316). -/
def execTcmpr (g d a e tag : Nat) (s : State) : Out :=
  runWord .eMain 2 g (fun s => do
    s.nameTiles [d, e, a]
    let w := s.ctx.twAt a
    checkType false w
    need (twRank w == 2) (shFault 0 0 none none 1 0 w 0)
    need (prunable (twFmt w)) (shFault 1 0 none none 1 0 w 0)
    need (twGeom w ≤ 1) (shFault 2 0 none none 1 0 w 0)
    let w' := s.resolveType w
    let k := twExt w' 1
    need (512 ≤ k || (k % 8 == 0 && k ≤ 256)) (shFault 4 1 (extVar (twExt w 1)) none 1 0 w 0)
    s.needBound w 1
    needFits w' 1
    let n := twExt w' 0
    let twE := mkType 2 0x10 0 0 0 [n, k / 8]
    needFits twE 0
    s.forkTile tag (.prune e) d a (mkType 2 (twFmt w) 0 (twGeom w) (keepFlags w + 16) [n, k / 2]) w' twE (some e) 0) s

/-! ## What a tile-engine form writes (12 R312 to R317) -/

/-- The elements of a tile: storage bits and SC8 code, in ascending element index. -/
def tileElems (m : Memory) (base : Nat) (t : TLay) : List (Nat × Nat) :=
  t.indices.map fun i => (t.rawCode m base i, t.scale m base i)

/-- A LINEAR tile's element area from its codes. -/
def State.putElems (s : State) (base : Nat) (t : TLay) (codes : List Nat) : State :=
  s.store base (packRow (storageBits t.fmt) 0 codes)

/-- The scale area from the codes of the blocks in order. -/
def State.putScales (s : State) (base : Nat) (t : TLay) (es : List Nat) : State :=
  if t.geom = 0 then s else s.store (base + t.scaleAt) (es.map (BitVec.ofNat 8))

/-- The elements of block `b` of `t`, given with their index vectors. -/
def ofBlock {α : Type} (t : TLay) (b : Nat) (xs : List (List Nat × α)) : List (List Nat × α) :=
  xs.filter fun x => t.blockAt x.1 == b

/-- Quantised: the codes in element order and the scales in block order (03 R89). -/
def quantAll (t : TLay) (rnd : Nat) (xs : List (List Nat × (Num × Nat))) : List Nat × List Nat :=
  let bs := (List.range t.blocks).map fun b =>
    let es := ofBlock t b xs
    let q := quantBlock t.fmt rnd (es.map (·.2))
    (q.1, List.zip (es.map (·.1)) q.2)
  let all := bs.flatMap (·.2)
  (xs.map fun x => ((all.find? fun e => e.1 == x.1).map (·.2)).getD 0, bs.map (·.1))

/-- The four kept offsets of a group of eight: greatest magnitude, ties toward the lower position (12 R317). -/
def keepFour (xs : List Num) : List Nat :=
  let mag (x : Num) : Num := if x.isNan then .inf false else x.abs
  let ms := xs.map mag
  (List.range 8).filter fun j =>
    ((List.range 8).filter fun i =>
      let a := ms.getD i .zero
      let b := ms.getD j .zero
      b.lt false a || (!a.lt false b && i < j)).length < 4

/-- The groups of eight of a list. -/
def groups8 {α : Type} : Nat → List α → List (List α)
  | 0, _ => []
  | n + 1, l => l.take 8 :: groups8 n (l.drop 8)

/-- The metadata element of four offsets (03 R68). -/
def metaCode (js : List Nat) : Nat := js.foldr (fun j a => j + 8 * a) 0

/-- What form `c` of context `cid` writes. -/
def State.tileEffect (s : State) (cid : Nat) (c : TileCmd) : State :=
  let a := layOf c.twA
  let d := layOf c.twD
  let from_ := tileAddr cid c.a 0
  let base := tileAddr cid c.d 0
  let es := tileElems s.mem from_ a
  match c.form with
  | .reshape => s.putElems base d (es.map fun e => containerBits d.fmt e.1)
  | .cast => s.putElems base d (es.map (·.1))
  | .transpose =>
    let s' := s.putElems base d (d.indices.map fun i => containerBits d.fmt (a.rawCode s.mem from_ (swapLast i)))
    if d.geom = 0 then s'
    else d.indices.foldl (fun r i => r.putScale d base i (a.scale s.mem from_ (swapLast i))) s'
  | .convert rnd sat =>
    s.putElems base d ((withDraws es c.draws).map fun e => encodeFmt d.fmt rnd (sat == 1) e.2 (decodeFmt a.fmt e.1.1))
  | .dequantise rnd sat =>
    s.putElems base d ((withDraws es c.draws).map fun e => encodeFmt d.fmt rnd (sat == 1) e.2 (a.value e.1.1 e.1.2))
  | .quantise rnd =>
    let xs := List.zip d.indices ((withDraws es c.draws).map fun e => (decodeFmt a.fmt e.1.1, e.2))
    let (codes, sc) := quantAll d rnd xs
    (s.putElems base d codes).putScales base d sc
  | .prune e =>
    let gs := groups8 (es.length / 8) es
    let kept := gs.map fun g => (g, keepFour (g.map fun x => a.value x.1 x.2))
    let s' := s.putElems base d (kept.flatMap fun p => p.2.map fun j => containerBits d.fmt (p.1.getD j (0, 0)).1)
    let s' := s'.putScales base d
      ((boxCoords (d.grid.map fun n => (0, n))).map fun i => a.scale s.mem from_ [i.getD 0 0, 32 * i.getD 1 0])
    s'.putElems (tileAddr cid e 0) (layOf c.twE) (kept.map fun p => metaCode p.2)

end Sys2Proof.Machine
end

