-- ==== Sys2Proof/Machine/Caches.lean ====
section
/-! DEFINITION. The register caches of a core: lines filled from homes, used, written back, gated; REGWB; what a word's reads of its
registers meet before it performs (01 R38 to R41; 13 R357; 23 R474 to R476, R480). -/
namespace Sys2Proof.Machine

/-! ## Lines (01 R38) -/

/-- The lines of a core's tile cache, or of its run cache. -/
def CoreSt.cache (k : CoreSt) (tile : Bool) : AMap CacheLine := if tile then k.tiles else k.runs

def CoreSt.setCache (k : CoreSt) (tile : Bool) (m : AMap CacheLine) : CoreSt :=
  if tile then { k with tiles := m } else { k with runs := m }

/-- How many lines a cache has (00 R2). -/
def cacheSize (tile : Bool) : Nat := if tile then 16 else 32

/-- A line that holds nothing. -/
def CacheLine.empty : CacheLine := ⟨none, false, 0, .operating⟩

def CoreSt.line (k : CoreSt) (tile : Bool) (n : Nat) : CacheLine := (amGet (k.cache tile) n).getD .empty

def State.setLine (s : State) (tile : Bool) (core n : Nat) (l : CacheLine) : State :=
  let k := s.coreAt core
  s.setCore core (k.setCache tile (amSet (k.cache tile) n l))

/-- The line that holds a register of a context. -/
def CoreSt.lineOf (k : CoreSt) (tile : Bool) (r : Nat × Nat) : Option Nat :=
  ((k.cache tile).find? fun e => e.2.holds == some r).map (·.1)

/-- The line that a fill takes: the lowest empty one, else the least recently used, but for those that hold a register which the bundle
names (18 R402; log entry 127). -/
def CoreSt.victim (k : CoreSt) (tile : Bool) (named : List (Bool × Nat × Nat)) : Nat :=
  let age (n : Nat) : Nat := let l := k.line tile n
    if l.holds.isNone then 0 else l.used + 1
  let free := (List.range (cacheSize tile)).filter fun n => !(k.line tile n).holds.any fun r => named.contains (tile, r)
  free.foldl (fun b n => if age n < age b then n else b) (free.headD 0)

/-- The home of a register: its address and its bytes (04 R94, 05 R117). -/
def homeOf (tile : Bool) (cid n : Nat) : Nat × Nat := if tile then (tileAddr cid n 0, 32768) else (runAddr cid n 0, 6272)

/-- The errors that soft errors have left in what a cache line holds, by line of 64 bytes (23 R475). -/
def State.cacheErrors (s : State) (tile : Bool) (core n : Nat) : List (Nat × List Nat) :=
  let b := cacheCopy core (if tile then n else 16 + n) 0
  if s.latent.isEmpty then [] else s.latent.filter fun e => b ≤ e.1 && e.1 < b + 512

/-- A read of what a cache line holds finds its errors: corrected, or its home line is poisoned. -/
def State.readCached (s : State) (tile : Bool) (core n : Nat) : State :=
  (s.cacheErrors tile core n).foldl (fun s e => s.settleLine e.1) s

/-- What a cache line held is overwritten or gone, its errors with it. -/
def State.dropCached (s : State) (tile : Bool) (core n : Nat) : State :=
  let es := s.cacheErrors tile core n
  if es.isEmpty then s else { s with latent := s.latent.filter fun e => !es.contains e }

/-- A dirty line goes home and is clean. A tile's contents stand in its home already; a run register's image is stored (05 R118). -/
def State.writeLine (s : State) (tile : Bool) (core n : Nat) : State :=
  let l := (s.coreAt core).line tile n
  match l.holds, l.dirty with
  | some (cid, r), true =>
    let s := s.actAs (unitOfCore core) (s.ctxAt cid).tid
    let s := if tile then s else s.store (runAddr cid r 0) (packImage ((s.ctxAt cid).vAt r))
    (s.readCached tile core n).setLine tile core n { l with dirty := false }
  | _, _ => s

/-- The cache numbers of a core's lines. -/
def CoreSt.listed (k : CoreSt) (tile : Bool) : List Nat := (k.cache tile).map (·.1)

/-- Every dirty line of a team on a core goes home; the lines hold nothing of the team any more (01 R25, R31, R38). -/
def State.flushCore (s : State) (core tid : Nat) : State :=
  let out (m : AMap CacheLine) : AMap CacheLine := m.map fun e =>
    (e.1, if e.2.holds.any fun r => (s.ctxAt r.1).tid == tid then { e.2 with holds := none } else e.2)
  let s := [true, false].foldl (fun s tile => ((s.coreAt core).listed tile).foldl (fun s n => s.writeLine tile core n) s) s
  let k := s.coreAt core
  if k.tiles.isEmpty && k.runs.isEmpty then s else s.setCore core { k with tiles := out k.tiles, runs := out k.runs }

/-- The same on every core of the team. -/
def State.flushTeam (s : State) (tid : Nat) : State := (s.taskAt tid).cores.foldl (fun s c => s.flushCore c tid) s

/-- Tiles that an engine has written into their homes are held by no line. -/
def State.dropLines (s : State) (ms : List Mark) : State :=
  ms.foldl (fun s m =>
    match m.space with
    | .tile cid n =>
      let core := (s.ctxAt cid).core
      match m.write, (s.coreAt core).lineOf true (cid, n) with
      | true, some k => s.setLine true core k { (s.coreAt core).line true k with holds := none, dirty := false }
      | _, _ => s
    | _ => s) s

/-! ## What a word uses (01 R38; 23 R476, R480) -/

/-- The word moves a tile's data through the core. -/
def movesTile : Instr → Bool
  | .tlds .. | .tsts .. | .tldsCm .. | .tstsCm .. | .tzero .. | .tmov .. => true
  | _ => false

/-- The cached registers that a word uses: whether a tile, the number, whether it is written. -/
def cachedUse (rrb : BitVec 4) (i : Instr) : List (Bool × Nat × Bool) :=
  let u := regUse rrb i
  let of (wr : Bool) (rs : List RegName) : List (Bool × Nat × Bool) := rs.filterMap fun r =>
    if r.1 = 2 then some (false, r.2, wr) else if r.1 = 3 ∧ movesTile i then some (true, r.2, wr) else none
  of false u.1 ++ of true u.2

/-- The register takes part in parity: X, P and CSR registers do, numbered as soft errors number them (23 R480). -/
def parityOf (r : RegName) : Option Nat :=
  if r = (0, 0) ∨ r = (1, 0) then none
  else if r.1 = 0 then some r.2 else if r.1 = 1 then some (64 + r.2) else if r.1 = 6 then some (80 + r.2) else none

/-- The guard of a word is the first register it reads. -/
def guardOf (i : Instr) : Nat := ((regUse 0 i).1.headD (1, 0)).2

/-- What a word reads beside the registers it names: RRB behind a rotating name; what LCLOSE steps; the return address (09 R222,
R240; 13 R355). What draws noise reads is checked where it draws (`State.needParity`). -/
def hiddenReads (i : Instr) : List RegName :=
  let u := regUse 0 i
  (if (u.1 ++ u.2).any fun r => r.1 == 0 && 48 ≤ r.2 then [(6, 0x010)] else []) ++
    match i with
    | .lclose .. => [(6, 0x010), (6, 0x011), (6, 0x012)] ++ (List.range 8).map fun j => (1, 8 + j)
    | .tret _ => [(6, 0x002)]
    | _ => []

/-- A read of the register meets wrong parity. -/
def Ctx.wrongParity (c : Ctx) (r : RegName) : Bool := (parityOf r).any c.damaged.contains

/-- The context in issue as its next bundle reads it. -/
def State.reader (s : State) : Ctx := s.ctx.retire s.ctx.bidx

/-- What reading its registers raises: AC-04 for wrong parity, of the guard first; AC-02 for the fill of a line from a home that is
poisoned or fails its check word, and for a read of a line with an error that cannot be corrected. A squashed word reads its guard
only. -/
def State.readFault (s : State) (i : Instr) : Option FaultRec :=
  let c := s.reader
  if c.wrongParity (1, guardOf i) then some { cls := .AC, num := 4 }
  else if !c.pAt (guardOf i) then none
  else if ((regUse c.rrb i).1 ++ hiddenReads i).any c.wrongParity then some { cls := .AC, num := 4 }
  else if s.sound then none
  else (cachedUse c.rrb i).findSome? fun u =>
    match (s.coreAt c.core).lineOf u.1 (s.me, u.2.1) with
    | some n =>
      if u.2.2 then none
      else ((s.cacheErrors u.1 c.core n).find? fun e => (codeWords e.1 e.2).any fun b => !correctable e.1 b).map fun e =>
        { cls := .AC, num := 2, aux := e.1, part := List.range 8 }
    | none =>
      let h := homeOf u.1 s.me u.2.1
      match s.fillCheck h.1 h.2 with
      | .error (.fault f) => some f
      | _ => none

/-- A register of the context in issue is used: its line wakes, or one is filled from the home, the line it takes written back first.
A tile that is written is written at once; a run register is when its result retires (08 R205), and its line is dirty from then on. -/
def State.useLine (s : State) (core : Nat) (named : List (Bool × Nat × Nat)) (u : Bool × Nat × Bool) : State :=
  let k := s.coreAt core
  let wr := u.1 && u.2.2
  match k.lineOf u.1 (s.me, u.2.1) with
  | some n =>
    let s := if wr then s.dropCached u.1 core n else if u.2.2 then s else s.readCached u.1 core n
    let l := k.line u.1 n
    s.setLine u.1 core n { l with dirty := l.dirty || wr, used := s.cycle, power := .operating }
  | none =>
    let n := k.victim u.1 named
    let s := (s.writeLine u.1 core n).dropCached u.1 core n
    let h := homeOf u.1 s.me u.2.1
    let s := if s.sound then s else (linesOf h.1 h.2).foldl State.settleLine s
    s.setLine u.1 core n ⟨some (s.me, u.2.1), wr, s.cycle, .operating⟩

/-- The lines that a word of a bundle uses, as it issues; `named` holds the registers that the bundle names. -/
def State.useLines (s : State) (named : List (Bool × Nat × Nat)) (i : Instr) : State :=
  let c := s.reader
  let us := cachedUse c.rrb i
  if us.isEmpty || !c.pAt (guardOf i) || (s.readFault i).isSome then s
  else us.foldl (fun s u => s.useLine c.core named u) (s.actAs (unitOfCore c.core) c.tid)

/-- The cached registers of the context in issue that words name. -/
def State.namedBy (s : State) (is : List Instr) : List (Bool × Nat × Nat) :=
  is.flatMap fun i => (cachedUse s.reader.rrb i).map fun u => (u.1, s.me, u.2.1)

/-- The run registers that results write as the context's next bundle issues: those due, or all in flight where a TRET waits for its
handler's own (08 R205; 13 R355). -/
def Ctx.landing (c : Ctx) (all : Bool) : List Nat :=
  c.inflight.filterMap fun f => match f.res with
    | .v n _ => if all ∨ f.point ≤ c.bidx then some n else none
    | _ => none

/-- Their lines are dirty; one that was evicted or gated in between is taken again (01 R38, R41). -/
def State.landRuns (s : State) (all : Bool) : State :=
  let c := s.ctx
  (c.landing all).foldl (fun s n =>
    let k := s.coreAt c.core
    let l := (k.lineOf false (s.me, n)).getD (k.victim false [])
    let s := if (k.line false l).holds = some (s.me, n) then s else s.writeLine false c.core l
    (s.dropCached false c.core l).setLine false c.core l ⟨some (s.me, n), true, s.cycle, .operating⟩) s

/-! ## REGWB (13 R357) -/

/-- Bit k of a mask names Tk, bit 16 + k names Vk. -/
def State.writeNamed (s : State) (core cid : Nat) (m : Word) : State :=
  (List.range 32).foldl (fun s k =>
    if m.getLsbD k then
      let tile : Bool := decide (k < 16)
      match (s.coreAt core).lineOf tile (cid, k % 16) with
      | some n => s.writeLine tile core n
      | none => s
    else s) s

/-- REGWB (R357): dirty lines go home, with no architectural effect; a tile it names beyond the task's count is FM-07 (04 R94), a pending
one stalls. -/
def execRegwb (g a : Nat) (s : State) : Out :=
  runWord .control 1 g (fun s => do
    let x ← s.rx a
    need ((List.range 16).all fun k => !x.getLsbD k || k < s.task.tiles) (flt .FM 7)
    let ws := ((List.range 16).filter (x.getLsbD ·)).flatMap s.tileWriters
    need ws.isEmpty (.stallOn ws)
    s.joinFault fun t => s.ctx.tileStall.contains t.op
    return s.writeNamed s.ctx.core s.me x) s

/-! ## Power states of lines (01 R39, R40) -/

/-- The line as its cache and number. -/
def lineId : LineId → Bool × Nat
  | .tile k => (true, k)
  | .run k => (false, k)

/-- CACHE_LINE_POWER_STATE (R39): a line in use keeps its state; a dirty line is written back before it is gated, and a gated one loses
its contents, which the home holds. -/
def execCacheLinePowerState (core : Nat) (line : LineId) (st : LinePower) (s : State) : Out :=
  let (tile, n) := lineId line
  let l := (s.coreAt core).line tile n
  if core < 384 && n < cacheSize tile && (l.used < s.cycle || l.holds.isNone || st == .refreshing || st == .operating) then
    let s := if st = .gated then s.writeLine tile core n else s
    let l := (s.coreAt core).line tile n
    .next (s.setLine tile core n { l with power := st, holds := if st = .gated then none else l.holds })
  else notNow "CACHE_LINE_POWER_STATE"

end Sys2Proof.Machine
end

