-- ==== Sys2Proof/Machine/CopyPlan.lean ====
section
/-! DEFINITION. A copy's geometry: the engine registers, its two sides, the place of every index vector, the footprints, and the
faults of the registers and formats (06 R150 to R159; 12 R327, R328). -/
namespace Sys2Proof.Machine

/-- CE.MODE (06 R151). -/
structure CopyMode where
  kind : Nat
  rank : Nat
  dfmt : Nat
  rnd : Nat
  sat : Bool
  atop : Nat
  sdim : Nat
  ddim : Nat
  fill : Bool
  raw : Bool
  follow : Bool
  k : Nat
  ofmt : Nat
  rest : Nat
  deriving DecidableEq, Repr

def copyMode (w : Word) : CopyMode :=
  let m := w.toNat
  ⟨bits m 0 3, bits m 3 4, bits m 7 5, bits m 12 2, w.getLsbD 14, bits m 15 3, bits m 18 3, bits m 21 3, w.getLsbD 24,
    w.getLsbD 25, w.getLsbD 26, bits m 27 6 + 1, bits m 33 5, bits m 38 26⟩

/-- A CE.SRC or CE.DST register: its KIND and its window or tile number (06 R150). -/
def sideKind (w : Word) : Nat := bits w.toNat 0 2
def sideWindow (w : Word) : Nat := bits w.toNat 2 12
def sideTile (w : Word) : Nat := bits w.toNat 2 4

/-- A side of a copy. -/
inductive Side where
  | chip (reg : Region)
  | win (d : WinDesc)
  | tile (n base : Nat) (t : TLay)
  deriving DecidableEq, Repr

/-- A copy with its sides: per dimension ORG and STEP, the bases, the companion scale windows, the element formats, the leading
box dimensions that a tile side drops. -/
structure CopyPlan where
  m : CopyMode
  box : List Nat
  src : Side
  dst : Side
  sdims : List Word
  ddims : List Word
  sbase : Word
  dbase : Word
  sscale : Option WinDesc
  dscale : Option WinDesc
  sfmt : Nat
  dfmt : Nat
  fillWord : Nat
  deriving DecidableEq, Repr

/-- Where an index vector lies on a side: masked coordinates, a byte address with its region offset, window coordinates, a tile's
element. -/
inductive CopyPlace where
  | masked (cs : List Nat)
  | chip (addr : Nat) (off : Int)
  | win (cs : List Nat)
  | tile (idx : List Nat)
  deriving DecidableEq, Repr

def CopyPlace.isMasked : CopyPlace → Bool
  | .masked _ => true
  | _ => false

/-- ORG and STEP of a dimension register. -/
def dimOrg (w : Word) : Nat := bits w.toNat 0 32
def dimStep (w : Word) : Nat := bits w.toNat 32 16

/-- pos of R152. -/
def placeOn (side : Side) (dims : List Word) (base : Word) (bdim : Nat) (i : List Nat) : CopyPlace :=
  match side with
  | .chip reg =>
    let off := (List.zip dims i).foldl (fun o p => o + codeInt 32 (dimOrg p.1) * (p.2 : Int)) base.toInt
    .chip (reg.base + off.toNat) off
  | .win d =>
    let cs := (List.zip dims i).mapIdx fun k p =>
      (dimOrg p.1 + dimStep p.1 * p.2 + (if k = bdim then base.toNat else 0)) % 2 ^ 64
    if (List.zipWith (fun c e => decide (c < e)) cs d.ext).all id then .win cs else .masked cs
  | .tile _ _ t => .tile (i.drop (i.length - t.ext.length))

/-- The source place of an index vector. -/
def CopyPlan.from_ (p : CopyPlan) (i : List Nat) : CopyPlace := placeOn p.src p.sdims p.sbase p.m.sdim i

/-- The destination place: a transposing copy exchanges the last two indices (06 R153). -/
def CopyPlan.to_ (p : CopyPlan) (i : List Nat) : CopyPlace :=
  placeOn p.dst p.ddims p.dbase p.m.ddim (if p.m.kind = 3 then swapLast i else i)

/-- Every index vector, row-major. -/
def CopyPlan.indices (p : CopyPlan) : List (List Nat) := boxCoords (p.box.map fun n => (0, n))

/-- The element rows: index vectors without their last index. -/
def CopyPlan.rows (p : CopyPlan) : List (List Nat) := boxCoords ((p.box.dropLast).map fun n => (0, n))

/-- The destination places of a copy with their sizes in bytes (of an on-chip place). A top-k copy writes 2k window elements, or 8k
bytes at a row's place (06 R155). -/
def CopyPlan.targets (p : CopyPlan) : List (CopyPlace × Nat) :=
  if p.m.kind = 7 then
    if p.box.getLastD 0 = 0 then []
    else
      match p.dst with
      | .win _ => p.rows.flatMap fun r => (List.range (2 * p.m.k)).map fun j => (p.to_ (r ++ [j]), 4)
      | _ => p.rows.map fun r => (p.to_ (r ++ [0]), 8 * p.m.k)
  else p.indices.map fun i => (p.to_ i, storageBits p.dfmt / 8)

/-- Those that it writes: a masked source leaves its place alone, but for a fill (06 R151, R152). -/
def CopyPlan.writes (p : CopyPlan) : List (CopyPlace × Nat) :=
  if p.m.kind = 7 then p.targets
  else (p.indices.filter fun i => p.m.fill || !(p.from_ i).isMasked).map fun i => (p.to_ i, storageBits p.dfmt / 8)

def CopyPlan.sources (p : CopyPlan) : List (CopyPlace × Nat) := p.indices.map fun i => (p.from_ i, storageBits p.sfmt / 8)

/-! ## Footprints -/

/-- Rising keys cut into stretches of neighbours. -/
def stretches : List Nat → List (Nat × Nat)
  | [] => []
  | k :: ks =>
    match stretches ks with
    | (lo, hi) :: r => if lo = k + 1 then (k, hi) :: r else (k, k) :: (lo, hi) :: r
    | [] => [(k, k)]

/-- Distinct numbers in rising order. -/
def risingSet (ks : List Nat) : List Nat := (ks.foldl (fun m k => amSet m k ()) ([] : AMap Unit)).map (·.1)

/-- The scale coordinates of a window element: the blocked one divided by 32 (03 R82). -/
def scaleCoords (d : WinDesc) (cs : List Nat) : List Nat := mapBack (· / 32) d.geom cs

/-- Coordinates within the window's tiles, those beyond its extents included. -/
def WinDesc.inTiles (d : WinDesc) (cs : List Nat) : Bool :=
  (List.zipWith (fun c el => decide (c / 2 ^ el.2 < ceilShift el.1 el.2)) cs (List.zip d.ext d.tlog)).all id

/-- The window coordinates of places, masked ones included where the window has a tile for them (07 R177). -/
def touchCoords (d : WinDesc) (ps : List (CopyPlace × Nat)) : List (List Nat) :=
  ps.filterMap fun p => match p.1 with
    | .win cs => some cs
    | .masked cs => if d.inTiles cs then some cs else none
    | _ => none

/-- The touches of one side: lines on chip, blocks of frames in a window and its companion, a tile's storage (07 R177). -/
def State.sideTouch (s : State) (cid : Nat) (side : Side) (scale : Option WinDesc) (ps : List (CopyPlace × Nat)) : List Touch :=
  match side with
  | .chip reg =>
    let ls := ps.flatMap fun p => match p.1 with
      | .chip _ off => (List.range ((off.toNat + p.2 - 1) / 64 - off.toNat / 64 + 1)).map (off.toNat / 64 + ·)
      | _ => []
    (stretches (risingSet ls)).map fun r => ⟨reg.space, r.1, r.2, 0⟩
  | .win d =>
    let css := touchCoords d ps
    let blocks (d : WinDesc) (css : List (List Nat)) : List Touch :=
      let ks := (css.flatMap (s.winTouch d)).map fun t => (match t.space with | .frame _ f => f | _ => 0) * 256 + t.lo
      (stretches (risingSet ks)).flatMap fun r =>
        (List.range (r.2 / 256 - r.1 / 256 + 1)).map fun j =>
          let f := r.1 / 256 + j
          ⟨.frame d.span f, if f = r.1 / 256 then r.1 % 256 else 0, if f = r.2 / 256 then r.2 % 256 else 255, d.num⟩
    blocks d css ++ (match scale with
      | some sc => blocks sc (css.map (scaleCoords d))
      | none => [])
  | .tile n _ t => if ps.isEmpty then [] else [t.touch cid n]

/-- The bits that places hold of memory: an element's, a place's on chip; none of a compressed block that is coded anew. -/
def State.placeBits (s : State) (raw : Bool) (side : Side) (p : CopyPlace × Nat) : List (Nat × Nat) :=
  match side, p.1 with
  | .chip _, .chip a _ => [(8 * a, 8 * p.2)]
  | .win d, .win cs =>
    if d.compressed && !raw then []
    else
      match s.winAt d cs with
      | .ok (_, base, byte, bit) => [(8 * (base + byte) + bit, storageBits d.fmt)]
      | .error _ => []
  | .tile _ base t, .tile idx =>
    if t.comp && !raw then []
    else
      let (byte, bit) := t.bitAt idx
      [(8 * (base + byte) + bit, storageBits t.fmt)]
  | _, _ => []

/-- The memory lines of an element of a window: its own, or those of its compressed block. -/
def State.elemLines (s : State) (d : WinDesc) (cs : List Nat) : List Nat :=
  match s.winAt d cs with
  | .ok (_, base, byte, _) => if d.compressed then linesOf (base + byte / 256 * 256) 256 else linesOf (base + byte) 1
  | .error _ => []

/-- The memory lines behind a side's places, its scales included, for check words and poison (23 R474, R476). -/
def State.sideLines (s : State) (side : Side) (scale : Option WinDesc) (ps : List (CopyPlace × Nat)) : List Nat :=
  match side with
  | .chip _ => ps.flatMap fun p => match p.1 with
      | .chip a _ => linesOf a p.2
      | _ => []
  | .win d => ps.flatMap fun p => match p.1 with
      | .win cs => s.elemLines d cs ++ (match scale with
        | some sc => s.elemLines sc (scaleCoords d cs)
        | none => [])
      | _ => []
  | .tile _ base t => if ps.isEmpty then [] else linesOf base t.size

/-- The offsets of an on-chip side: the lowest byte and one past the highest. -/
def chipSpan (ps : List (CopyPlace × Nat)) : Option (Int × Int) :=
  ps.foldl (fun a p => match p.1 with
    | .chip _ off =>
      match a with
      | none => some (off, off + p.2)
      | some (lo, hi) => some (min lo off, max hi (off + p.2))
    | _ => a) none

/-- The lowest and highest coordinate in each dimension that is touched. -/
def winBox (ps : List (CopyPlace × Nat)) : Option (List (Nat × Nat)) :=
  ps.foldl (fun a p => match p.1 with
    | .win cs =>
      match a with
      | none => some (cs.map fun c => (c, c))
      | some b => some (List.zipWith (fun r c => (min r.1 c, max r.2 c)) b cs)
    | _ => a) none

/-- Whether source and destination overlap in one space, window or tile (06 R154). -/
def CopyPlan.overlaps (p : CopyPlan) : Bool :=
  match p.src, p.dst with
  | .chip a, .chip b =>
    a.space == b.space && (match chipSpan p.sources, chipSpan p.targets with
      | some (l1, h1), some (l2, h2) => l1 < h2 && l2 < h1
      | _, _ => false)
  | .win a, .win b =>
    a.num == b.num && (match winBox p.sources, winBox p.targets with
      | some x, some y => (List.zipWith (fun (r q : Nat × Nat) => decide (r.1 ≤ q.2 && q.1 ≤ r.2)) x y).all id
      | _, _ => false)
  | .tile a _ _, .tile b _ _ => a == b
  | _, _ => false

/-! ## Faults of the registers and formats (06 R159) -/

def isWin : Side → Bool
  | .win _ => true
  | _ => false

def isTile : Side → Bool
  | .tile .. => true
  | _ => false

def isChip : Side → Bool
  | .chip _ => true
  | _ => false

/-- The window of a side. -/
def Side.window : Side → Option WinDesc
  | .win d => some d
  | _ => none

/-- A reserved field is set in the pending set, all of which the copy consumes (06 R150, R151). -/
def reservedSet (ce : List Word) (rest : Nat) : Bool :=
  let r (k : Nat) : Nat := (ce.getD k 0).toNat
  let dims (b n : Nat) : Bool := (List.range 8).any fun k => 2 ^ n ≤ r (b + k)
  rest != 0 || 2 ^ 14 ≤ r 1 || 2 ^ 14 ≤ r 2 || bits (r 3) 13 3 != 0 || 2 ^ 29 ≤ r 3 || dims 4 48 || dims 12 48 || dims 20 32 ||
    2 ^ 32 ≤ r 28

/-- CP-02 (06 R151 to R153, R159). `swin` and `dwin` are the ranks of window sides. -/
def badGeometry (ce : List Word) (m : CopyMode) (swin dwin : Option Nat) (stile dtile : Bool) : Bool :=
  let dims (b : Nat) : List Word := (ce.drop b).take m.rank
  let box := (dims 20).map fun w => bits w.toNat 0 32
  let noStep (b : Nat) : Bool := (dims b).any fun w => dimStep w == 0
  m.rank == 0 || 8 < m.rank || swin.any (· != m.rank) || dwin.any (· != m.rank) ||
    ((stile || dtile) && box.any (· == 0)) || (swin.isSome && m.kind != 1 && noStep 4) || (dwin.isSome && noStep 12) ||
    (m.kind == 3 && m.rank < 2) || (swin.isSome && m.rank ≤ m.sdim) || (dwin.isSome && m.rank ≤ m.ddim) || m.rnd == 3 ||
    reservedSet ce m.rest || 2 < m.atop

/-- CP-04 (06 R159, 12 R330): `lookup` on a lookup core. The kinds are those of the side registers. -/
def badSides (m : CopyMode) (sk dk : Nat) (scomp dcomp lookup : Bool) : Bool :=
  (m.kind == 6 && (dk != 2 || sk == 2)) || (m.kind == 7 && dk == 3) ||
    ((m.kind == 4 || m.kind == 5) && scomp == dcomp) || (lookup && (sk % 2 == 1 || dk % 2 == 1))

/-- CP-03 (06 R153, R157, R159; 12 R327). -/
def badFormats (m : CopyMode) (sk dk sfmt dfmt : Nat) : Bool :=
  let chip (k : Nat) : Bool := k ≤ 1
  let byteFmt (f : Nat) : Bool := 8 ≤ storageBits f
  (chip sk && !byteFmt m.ofmt) || (chip dk && !byteFmt (if m.kind = 2 then m.dfmt else m.ofmt)) ||
    (match m.kind with
     | 2 => dfmt != m.dfmt || 0x0E < m.dfmt || 0x0E < sfmt
     | 6 => m.ofmt != dfmt || sfmt != dfmt || !(dfmt == 0x06 || dfmt == 0x07 || isFloat dfmt)
     | 7 => dk == 2 && dfmt != 0x07
     | _ => storageBits sfmt != storageBits dfmt)

/-- CP-10: a scaled window side needs a companion of matching extents (03 R82). -/
def badScale (d : Option WinDesc) (sc : Option WinDesc) : Bool :=
  match d with
  | none => false
  | some d =>
    d.geom != 0 && (match sc with
      | none => true
      | some c => c.fmt != 0x0F || c.ext != mapBack (ceilDiv · 32) d.geom d.ext)

end Sys2Proof.Machine
end

