-- ==== Sys2Proof/Machine/Copy.lean ====
section
/-! DEFINITION. Engine registers and COPY: the checks at issue in the order of 12 R328, the fork, and what a copy writes when it
completes (06 R149 to R159; 12 R326 to R330). -/
namespace Sys2Proof.Machine

/-! ## Engine registers (12 R326) -/

/-- CEW (R326). -/
def execCew (g x a : Nat) (s : State) : Out :=
  runWord .eBoth 1 g (fun s => do
    let v ← s.rx a
    return if x < 30 then s.post 1 (.ce x v) else s) s

/-- CEWI (R326). -/
def execCewi (g x : Nat) (imm : Imm) (s : State) : Out :=
  runWord .eBoth (immLen imm) g (fun s => .ok (if x < 30 then s.post 1 (.ce x (imm.value 12)) else s)) s

/-- CER (R326). -/
def execCer (g d x : Nat) (s : State) : Out :=
  runWord .eBoth 1 g (fun s => .ok (s.wx 1 d (s.ctx.ceAt x))) s

/-- CERST (R326). -/
def execCerst (g : Nat) (s : State) : Out :=
  runWord .eBoth 1 g (fun s => .ok ((List.range 30).foldl (fun s k => s.post 1 (.ce k 0)) s)) s

/-! ## The follow-on word (12 R329) -/

/-- A follow-on command as its word names it: tag, queue it drains to, the tiles it names. -/
structure Follow where
  instr : Instr
  tag : Nat
  tiles : List Nat
  deriving DecidableEq, Repr

/-- CE.FOLLOW decoded; none raises CP-06. -/
def followOf (w : Word) : Option Follow :=
  match decodeWords [bits w.toNat 0 31 + 2 ^ 31, bits w.toNat 32 32] with
  | .ok (.mlds 0 a tag) => some ⟨.mlds 0 a tag, tag, [a]⟩
  | .ok (.mmul 0 q a start c tag fmt rnd sat) =>
    some ⟨.mmul 0 q a start c tag fmt rnd sat, tag, a :: (if start = 1 then [c] else [])⟩
  | .ok (.mmulS 0 q a start c tag fmt rnd sat m) =>
    some ⟨.mmulS 0 q a start c tag fmt rnd sat m, tag, a :: m :: (if start = 1 then [c] else [])⟩
  | _ => none

/-- How a multiply starts (12 R303). -/
def startOf (start : Nat) : MStart := if start = 0 then .zero else if start = 1 then .addend else .cont

/-- The matrix command of a follow-on word with the type words its tiles have; ROW0 and MROWS are 0 (12 R325). -/
def followCmd (i : Instr) (tw : Nat → Word) (draws : List Nat) : MCmd :=
  match i with
  | .mlds _ a _ => .mlds a (tw a)
  | .mmul _ q a start c _ fmt rnd sat =>
    .mmul ⟨a, tw a, startOf start, c, tw c, none, 0, 0, 0, some ⟨q, fmt, rnd, sat, draws⟩⟩
  | .mmulS _ q a start c _ fmt rnd sat m =>
    .mmul ⟨a, tw a, startOf start, c, tw c, some m, tw m, 0, 0, some ⟨q, fmt, rnd, sat, draws⟩⟩
  | _ => .mswap

/-- The RND of a draining follow-on. -/
def followRnd : Instr → Nat
  | .mmul _ _ _ _ _ _ _ rnd _ => rnd
  | .mmulS _ _ _ _ _ _ _ rnd _ _ => rnd
  | _ => 0

/-! ## Unifying a tile side with the box (04 R111) -/

/-- Leading box dimensions of extent 1 dropped until `r` remain. -/
def dropOnes (r : Nat) : List Nat → List Nat
  | 1 :: b => if r < b.length + 1 then dropOnes r b else 1 :: b
  | b => b

/-- An extent as a type word carries it; one above 511 as 0 (log entry 124). -/
def boxExt (n : Nat) : Nat := if n ≤ 511 then n else 0

/-- The tile's type unified with the box (R111): `dst` says whether the tile is the destination (operand 0) or the source
(operand 1); `cmp` whether format and geometry are compared. The state with what it binds, and the tile's type resolved. -/
def State.unifyBox (s : State) (dst : Bool) (t fmt geom : Nat) (box : List Nat) (cmp : Bool) : Except Stop (State × Word) := do
  let w := s.ctx.twAt t
  let ot := if dst then 0 else 1
  let r := twRank w
  let b := dropOnes (if r = 0 then 4 else r) box
  let tb := mkType b.length fmt 0 geom 0 (b.map boxExt)
  let clash (field k : Nat) (v : Option Nat) : Stop :=
    if dst then shFault field k v none 0 1 w tb else shFault field k v none 0 1 tb w
  let alone (field k : Nat) (v : Option Nat) : Stop := shFault field k v none ot 0 w 0
  need (b.length ≤ 4 && r ≤ b.length && (dst || r != 0)) (alone 0 0 none)
  if r = 0 then
    match b.findIdx? (511 < ·) with
    | some k => .error (alone 4 k none)
    | none => return (s, tb)
  else
    need (r == b.length) (clash 0 0 none)
    need (!cmp || twFmt w == fmt) (clash 1 0 none)
    need (!cmp || twGeom w == geom) (clash 2 0 none)
    let s ← (List.range r).foldlM (fun s k =>
      if 511 < b.getD k 0 then .error (alone 4 k none)
      else if dst then s.unifyExt k (twExt w k) (twExt tb k) 0 1 w tb
      else s.unifyExt k (twExt tb k) (twExt w k) 0 1 tb w) s
    return (s, s.resolveType w)

/-! ## The plan of a copy -/

/-- A side from its register, for a team on a core; `tw` is a tile's latched type. None where a window is not well formed. -/
def State.sideOf (s : State) (p tid cid core : Nat) (w tw : Word) : Option Side :=
  match sideKind w with
  | 0 => some (.chip (s.scratchOf tid core))
  | 1 => some (.chip (s.clusterOf tid))
  | 2 => (s.window p (sideWindow w)).map .win
  | _ => some (.tile (sideTile w) (tileAddr cid (sideTile w) 0) (layOf tw))

/-- The companion scale window of a scaled window side: CE.SCALE names it when its VALID bit is set. -/
def State.companion (s : State) (p : Nat) (side : Side) (sc : Word) (lo : Nat) : Option WinDesc :=
  match side with
  | .win d => if d.geom != 0 && sc.getLsbD (lo + 12) then s.window p (bits sc.toNat lo 12) else none
  | _ => none

/-- The companion window that is named but not well formed. -/
def State.companionBad (s : State) (p : Nat) (side : Side) (sc : Word) (lo : Nat) : Bool :=
  match side with
  | .win d => d.geom != 0 && sc.getLsbD (lo + 12) && (s.window p (bits sc.toNat lo 12)).isNone
  | _ => false

/-- The element format of a side: a window's, a tile's, or that of the mode (12 R327). -/
def sideFmt (side : Side) (chip : Nat) : Nat :=
  match side with
  | .chip _ => chip
  | .win d => d.fmt
  | .tile _ _ t => t.fmt

/-- The plan of a queued copy. -/
def State.copyPlan (s : State) (p tid cid core : Nat) (c : CopyCmd) : Option CopyPlan :=
  let m := copyMode (c.ce.getD 0 0)
  match s.sideOf p tid cid core (c.ce.getD 1 0) c.twSrc, s.sideOf p tid cid core (c.ce.getD 2 0) c.twDst with
  | some src, some dst =>
    some { m := m, box := ((c.ce.drop 20).take m.rank).map (fun w => bits w.toNat 0 32), src := src, dst := dst,
           sdims := (c.ce.drop 4).take m.rank, ddims := (c.ce.drop 12).take m.rank, sbase := c.srcBase, dbase := c.dstBase,
           sscale := s.companion p src (c.ce.getD 3 0) 0, dscale := s.companion p dst (c.ce.getD 3 0) 16,
           sfmt := sideFmt src m.ofmt, dfmt := sideFmt dst (if m.kind = 2 then m.dfmt else m.ofmt),
           fillWord := bits (c.ce.getD 28 0).toNat 0 32 }
  | _, _ => none

/-- The leases of a copy over its whole boxes, scales included: the first fault in the order of 02 R60. -/
def State.copyLeases (s : State) (tid : Nat) (p : CopyPlan) : Option Nat :=
  let of (side : Side) (sc : Option WinDesc) (rd wr : Bool) (ps : List (CopyPlace × Nat)) : List Nat :=
    match side with
    | .win d =>
      let css := ps.filterMap fun q => match q.1 with
        | .win cs => some cs
        | _ => none
      (s.leaseCheck tid d rd wr css).toList ++
        (match sc with
         | some c => (s.leaseCheck tid c rd wr (css.map (scaleCoords d))).toList
         | none => [])
    | _ => []
  let fs := of p.src p.sscale true false p.sources ++ of p.dst p.dscale false true p.targets
  if fs.contains 1 then some 1 else if fs.contains 4 then some 4 else if fs.contains 2 then some 2 else none

/-- The touches of both sides: on-chip places and tile homes, and windows. -/
def State.copyTouches (s : State) (cid : Nat) (p : CopyPlan) : List Touch × List Touch :=
  (s.sideTouch cid p.src p.sscale p.sources, s.sideTouch cid p.dst p.dscale p.targets)

/-- Converted elements: neither masked at the source nor at the destination (06 R161). -/
def CopyPlan.conversions (p : CopyPlan) : Nat :=
  (p.indices.filter fun i => !(p.from_ i).isMasked && !(p.to_ i).isMasked).length

/-- The faults of the registers in the order of R328 step 5. -/
def copyFaults (ce : List Word) (m : CopyMode) (src dst : Side) (sfmt dfmt : Nat) (ss ds : Option WinDesc) (lookup : Bool)
    (tiles : Nat) : Except Stop Unit := do
  let sk := sideKind (ce.getD 1 0)
  let dk := sideKind (ce.getD 2 0)
  let comp : Side → Bool := fun x => x.window.any (·.compressed)
  need (!badGeometry ce m (src.window.map (·.rank)) (dst.window.map (·.rank)) (isTile src) (isTile dst)) (flt .CP 2)
  need (!badSides m sk dk (comp src) (comp dst) lookup) (flt .CP 4)
  need (!badFormats m sk dk sfmt dfmt) (flt .CP 3)
  need (m.kind != 7 || (bits (ce.getD (19 + m.rank) 0).toNat 0 32 ≤ 4096 && isFloat sfmt)) (flt .CP 5)
  need (!badScale src.window ss && !badScale dst.window ds) (flt .CP 10)
  need (!m.follow || (!lookup && (match followOf (ce.getD 29 0) with
    | some f => f.tiles.all (· < tiles)
    | none => false))) (flt .CP 6)

/-- The type word a tile has once the copy commits: the destination tile's new word, else the register's, resolved. -/
def State.latched (s : State) (dst : Option Nat) (twDst : Word) (t : Nat) : Word :=
  if dst = some t then twDst else s.resolveType (s.ctx.twAt t)

/-- Draws of a follow-on drain under RSTO, taken at the copy's commit (06 R161). -/
def State.followDraws (s : State) (i : Instr) (tw : Nat → Word) : Nat :=
  if followRnd i = 1 then
    let n := twExt (s.coreAt s.ctx.core).arr.planTw 0
    let rows (w : Word) : Nat := if twExt w 0 < 512 then twExt w 0 else 0
    match i with
    | .mmul _ _ a _ _ _ _ _ _ => rows (tw a) * n
    | .mmulS _ _ a _ _ _ _ _ _ _ => rows (tw a) * n
    | _ => 0
  else 0

/-- The tag and the draws of a follow-on, taken with its copy's (12 R329). -/
def State.claimFollow (s : State) (tw : Nat → Word) : Option Follow → Except Stop (State × List Nat)
  | none => .ok (s, [])
  | some f => do
    let s ← s.raiseTag f.tag 1
    s.drawE (s.followDraws f.instr tw)

/-- Queues the follow-on of a copy with its read marks (12 R329). -/
def State.forkFollow (s : State) (f : Follow) (tw : Nat → Word) (us : List Nat) : State :=
  let marks := f.tiles.map fun t => readMark ⟨.tile s.me t, 0, 511, 0⟩
  let s := s.addOp (some f.tag) (.matrix (followCmd f.instr tw us) ⟨0, false, [], none, false⟩) marks
  { s with ops := s.ops.map fun o => if o.id + 1 = s.nextOp then { o with carried := true } else o }

/-- COPY (R327 to R330). Of two tile sides the source is unified first (log entry 125). The tile that a transposing copy loads is unified
with the box as it is written, its last two extents exchanged (log entry 141). Of the tile that a top-k copy reads only rank and extents are
compared: its window holds pairs, not its elements (log entry 141). -/
def copyBody (tag a b : Nat) (s : State) : Except Stop State := do
  let c := s.ctx
  let lookup : Bool := 384 ≤ c.core
  let ce := (List.range 32).map c.ceAt
  let m := copyMode (ce.getD 0 0)
  let rs := ce.getD 1 0
  let rd := ce.getD 2 0
  let ts := if !lookup && sideKind rs = 3 then some (sideTile rs) else none
  let td := if !lookup && sideKind rd = 3 then some (sideTile rd) else none
  let sb ← s.rx a
  let db ← s.rx b
  s.nameTiles (ts.toList ++ td.toList)
  let wS := (ts.map c.twAt).getD 0
  let wD := (td.map c.twAt).getD 0
  checkType true wS
  checkType true wD
  let p := s.task.p
  match s.sideOf p c.tid s.me c.core rs wS, s.sideOf p c.tid s.me c.core rd wD with
  | some src, some dst =>
    need (!s.companionBad p src (ce.getD 3 0) 0 && !s.companionBad p dst (ce.getD 3 0) 16) (flt .LS 1)
    let sfmt := sideFmt src m.ofmt
    let dfmt := if isTile dst && wD = 0 then (if m.kind = 2 then m.dfmt else sfmt)
      else sideFmt dst (if m.kind = 2 then m.dfmt else m.ofmt)
    copyFaults ce m src dst sfmt dfmt (s.companion p src (ce.getD 3 0) 0) (s.companion p dst (ce.getD 3 0) 16) lookup s.task.tiles
    let box := ((ce.drop 20).take m.rank).map fun w => bits w.toNat 0 32
    let geomOf (x : Side) : Nat := match x with
      | .win d => d.geom
      | .tile _ _ t => t.geom
      | .chip _ => 0
    let (s, twS) ← match ts with
      | none => pure (s, 0)
      | some t =>
        match dst with
        | .win d => s.unifyBox false t d.fmt d.geom box (m.kind != 2 && m.kind != 7)
        | _ => s.unifyBox false t (twFmt wS) (twGeom wS) box false
    let (s, twD) ← match td with
      | none => pure (s, 0)
      | some t =>
        let bx := if m.kind = 3 then swapLast box else box
        if m.kind = 2 && twRank wD = 0 then s.unifyBox true t m.dfmt 0 bx false
        else s.unifyBox true t (sideFmt src m.ofmt) (geomOf src) bx (m.kind != 2)
    if td.isSome then needFits twD 0
    if ts.isSome then needFits twS 1
    let cmd : CopyCmd := { ce := ce, srcBase := sb, dstBase := db, twSrc := twS, twDst := twD, draws := [], follow := none }
    match s.copyPlan p c.tid s.me c.core cmd with
    | none => .error (flt .LS 1)
    | some pl =>
      let inside (x : Side) (ps : List (CopyPlace × Nat)) : Bool := match x, chipSpan ps with
        | .chip reg, some (lo, hi) => 0 ≤ lo && hi ≤ reg.size
        | _, _ => true
      need (inside pl.src pl.sources && inside pl.dst pl.targets) (flt .LS 3)
      match s.copyLeases c.tid pl with
      | some k => .error (flt .LS k)
      | none =>
        need (m.kind == 0 || !pl.overlaps) (flt .CP 1)
        let (tr, tw) := s.copyTouches s.me pl
        let onChip := fun (t : Touch) => match t.space with
          | .frame .. => false
          | _ => true
        let fol := if m.follow then followOf (ce.getD 29 0) else none
        let folTiles := match fol with
          | some f => (f.tiles.filter fun t => td != some t).map fun t => (⟨.tile s.me t, 0, 511, 0⟩ : Touch)
          | none => []
        let s ← s.raiseTag tag 1
        let (s, us) ← s.drawE (if m.kind = 2 && m.rnd = 1 then pl.conversions else 0)
        let (s, fus) ← s.claimFollow (s.latched td twD) fol
        s.raceEngine (tr.filter onChip ++ folTiles) (tw.filter onChip)
        need (s.placesTaken c.core < copyPlacesOf c.core) (.block (.copyPlaces c.core))
        let s := match ts with
          | some t => s.writeBack t
          | none => s
        let s := match td with
          | some t => s.post 1 (.tw t twD)
          | none => s
        let wmark (t : Touch) : Mark := if m.kind = 6 && !onChip t then { writeMark t with atomic := true } else writeMark t
        let s := s.addOp (some tag) (.copy { cmd with draws := us, follow := fol.map fun _ => s.nextOp + 1 })
          (tr.map readMark ++ tw.map wmark)
        return match fol with
        | some f => s.forkFollow f (s.latched td twD) fus
        | none => s
  | _, _ => .error (flt .LS 1)

/-- COPY (R327). -/
def execCopy (g tag a b : Nat) (s : State) : Out := runWord .eBoth 1 g (copyBody tag a b) s

/-! ## What a copy writes (06 R152 to R158) -/

/-- The compressed block that holds a place: its format, class and address. -/
def State.blockOf (s : State) (side : Side) (p : CopyPlace) : Option (Nat × Nat × Nat) :=
  match side, p with
  | .win d, .win cs =>
    if d.compressed then
      match s.winAt d cs with
      | .ok (tile, base, byte, _) => some (d.fmt, s.blockClass d tile (byte / 256), base + 256 * (byte / 256))
      | .error _ => none
    else none
  | .tile _ base t, .tile idx =>
    if t.comp then
      let b := (t.bitAt idx).1 / 256
      some (t.fmt, t.classOf s.mem base b, base + 256 * b)
    else none
  | _, _ => none

/-- The class of the compressed block that holds a place, for a raw copy. -/
def State.placeClass (s : State) (side : Side) (p : CopyPlace) : Option Nat := (s.blockOf side p).map (·.2.1)

/-- The storage bits at a place. A raw copy takes a window's or tile's stored bits unexpanded; a block of class 5 to 7 is CP-07 all
the same (02 R55, 06 R159). -/
def State.placeCode (s : State) (raw : Bool) (side : Side) (fmt : Nat) (p : CopyPlace) : Except FaultRec Nat :=
  if raw && (s.placeClass side p).any (4 < ·) then .error { cls := .CP, num := 7 }
  else
    match side, p with
    | .chip _, .chip a _ => .ok (memNat s.mem a (storageBits fmt / 8))
    | .win d, .win cs => if raw then s.winRead { d with compressed := false } cs else s.winRead d cs
    | .tile _ base t, .tile idx => if raw then .ok (t.rawCode s.mem base idx) else t.code s.mem base idx
    | _, _ => .ok 0

/-- The SC8 code for a place; 127 where its side has no scales. -/
def State.placeScale (s : State) (side : Side) (sc : Option WinDesc) (p : CopyPlace) : Except FaultRec Nat :=
  match side, p with
  | .win d, .win cs =>
    match sc with
    | some c => s.winRead c (scaleCoords d cs)
    | none => .ok 127
  | .tile _ base t, .tile idx => .ok (t.scale s.mem base idx)
  | _, _ => .ok 127

/-- The geometry of a side's elements. -/
def sideGeom : Side → Nat
  | .win d => d.geom
  | .tile _ _ t => t.geom
  | .chip _ => 0

def State.putPlaceClass (s : State) (side : Side) (p : CopyPlace) (cls : Nat) : State :=
  match side, p with
  | .win d, .win cs =>
    if d.compressed then
      let (tile, elem) := d.locate cs
      s.setBlockClass d tile (elem * storageBits d.fmt / 8 / 256) cls
    else s
  | .tile _ base t, .tile idx => if t.comp then s.putClass t base ((t.bitAt idx).1 / 256) cls else s
  | _, _ => s

/-- What is written at one place: a fill, raw bits; or an element with its scale, its class for a raw copy. -/
structure Moved where
  to_ : CopyPlace
  fill : Bool
  code : Nat
  scale : Nat
  cls : Option Nat
  deriving DecidableEq, Repr

/-- Every source element read, in order; masked sources become fills or nothing, masked destinations nothing (06 R151, R152). A
transposing copy writes the bits of a container that hold no code as 03 R68 has them; a plain copy moves them unchanged (R153). -/
def State.gather (s : State) (p : CopyPlan) : List (List Nat) → Except FaultRec (List Moved)
  | [] => .ok []
  | i :: is => do
    let src := p.from_ i
    let dst := p.to_ i
    let rest ← s.gather p is
    if dst.isMasked then return rest
    else if src.isMasked then
      return if p.m.fill then ⟨dst, true, p.fillWord % 2 ^ min 32 (storageBits p.dfmt), 127, none⟩ :: rest else rest
    else
      let code ← s.placeCode p.m.raw p.src p.sfmt src
      let e ← s.placeScale p.src p.sscale src
      let code := if p.m.kind = 3 then containerBits p.dfmt code else code
      return ⟨dst, false, code, e, if p.m.raw then s.placeClass p.src src else none⟩ :: rest

/-- The value of a moved element. -/
def CopyPlan.valueOf (p : CopyPlan) (x : Moved) : Num :=
  if sideGeom p.src = 0 then decodeFmt p.sfmt x.code else scaleBy x.scale (decodeFmt p.sfmt x.code)

/-- The scale block of a destination place. -/
def blockKey (side : Side) (p : CopyPlace) : List Nat :=
  match side, p with
  | .win d, .win cs => scaleCoords d cs
  | .tile _ _ t, .tile idx => [t.blockAt idx]
  | _, _ => []

/-- A list without later equals. -/
def distinct {α : Type} [DecidableEq α] : List α → List α
  | [] => []
  | x :: xs => x :: (distinct xs).filter (· != x)

/-- Converted elements, fills kept (06 R153): plain conversion, or quantised by destination block, of which the elements written alone
choose the scale (log entry 123). -/
def CopyPlan.convert (p : CopyPlan) (us : List Nat) (xs : List Moved) : List Moved :=
  let live := xs.filter (!·.fill)
  let pairs := withDraws live us
  if sideGeom p.dst = 0 then
    xs.filter (·.fill) ++ pairs.map fun q => { q.1 with code := encodeFmt p.dfmt p.m.rnd p.m.sat q.2 (p.valueOf q.1) }
  else
    xs.filter (·.fill) ++ (distinct (live.map fun x => blockKey p.dst x.to_)).flatMap fun key =>
      let es := pairs.filter fun q => blockKey p.dst q.1.to_ == key
      let (e, cs) := quantBlock p.dfmt p.m.rnd (es.map fun q => (p.valueOf q.1, q.2))
      (List.zip es cs).map fun q => { q.1.1 with code := q.2, scale := e }

/-- The blocks of a compressed window in which coordinates lie, each with how many of them it holds. -/
def blockCounts (d : WinDesc) (css : List (List Nat)) : List ((Nat × Nat) × Nat) :=
  let ks := css.map fun cs =>
    let (tile, elem) := d.locate cs
    (tile, elem * storageBits d.fmt / 8 / 256)
  (distinct ks).map fun k => (k, ks.count k)

/-- The blocks laid open as class 4; a block that is written in part is read and expanded first, one written whole is not read
(02 R55). -/
def State.openBlocks (s : State) (d : WinDesc) (ks : List ((Nat × Nat) × Nat)) : Except FaultRec State :=
  ks.foldlM (fun s k =>
    match (s.tileFrame d k.1.1).bind (s.winPlace d) with
    | none => .error noFrame
    | some base => do
      let bs ← if 2048 ≤ k.2 * storageBits d.fmt then pure (List.replicate 256 0) else s.readBlock d k.1.1 base k.1.2
      return (s.setBlockClass d k.1.1 k.1.2 4).store (base + 256 * k.1.2) bs) s

/-- The blocks coded again, with their classes (02 R55). -/
def State.closeBlocks (s : State) (d : WinDesc) (ks : List ((Nat × Nat) × Nat)) : State :=
  ks.foldl (fun s k =>
    match (s.tileFrame d k.1.1).bind (s.winPlace d) with
    | none => s
    | some base =>
      let (cls, st) := compressBlock d.fmt (memRead s.mem (base + 256 * k.1.2) 256)
      (s.setBlockClass d k.1.1 k.1.2 cls).store (base + 256 * k.1.2) st) s

/-- Elements of a window written: in a compressed one the blocks are opened and coded again, but by a raw copy. -/
def State.putWindow (s : State) (raw : Bool) (d : WinDesc) (xs : List (List Nat × Nat)) : Except FaultRec State := do
  let plain := { d with compressed := false }
  let ks := if d.compressed && !raw then blockCounts d (xs.map (·.1)) else []
  let s ← s.openBlocks d ks
  let s ← xs.foldlM (fun s x => s.winWrite plain x.1 x.2) s
  return s.closeBlocks d ks

/-- Elements of a tile home written, with the padding places at 0. -/
def State.putTile (s : State) (raw : Bool) (t : TLay) (base : Nat) (xs : List (List Nat × Nat)) : Except FaultRec State := do
  let put (s : State) : State := xs.foldl (fun s x => s.putCode t base x.1 x.2) s
  if !t.comp then return put (s.padTile t base)
  else if raw then return put s
  else
    let s ← s.openTile t base (t.partBlocks (xs.map (·.1)))
    return (put (s.padTile t base)).closeTile t base

/-- Elements written at places of a side. -/
def State.putSide (s : State) (raw : Bool) (side : Side) (fmt : Nat) (xs : List (CopyPlace × Nat)) : Except FaultRec State :=
  match side with
  | .chip _ => .ok (xs.foldl (fun s x => match x.1 with
      | .chip a _ => s.store a (natLe (storageBits fmt / 8) x.2)
      | _ => s) s)
  | .win d => s.putWindow raw d (xs.filterMap fun x => match x.1 with
      | .win cs => some (cs, x.2)
      | _ => none)
  | .tile _ base t => s.putTile raw t base (xs.filterMap fun x => match x.1 with
      | .tile idx => some (idx, x.2)
      | _ => none)

/-- The scales of the elements written, each block's once. -/
def State.putSideScales (s : State) (side : Side) (sc : Option WinDesc) (xs : List (CopyPlace × Nat)) : Except FaultRec State :=
  match side with
  | .chip _ => .ok s
  | .win d =>
    match sc with
    | none => .ok s
    | some c =>
      let es := xs.filterMap fun x => match x.1 with
        | .win cs => some (scaleCoords d cs, x.2)
        | _ => none
      s.putWindow false c ((distinct (es.map (·.1))).map fun k => (k, ((es.reverse.find? fun e => e.1 == k).map (·.2)).getD 0))
  | .tile _ base t => .ok (xs.foldl (fun s x => match x.1 with
      | .tile idx => if t.geom = 0 then s else s.putScale t base idx x.2
      | _ => s) s)

/-- max or min of R129 on values. -/
def pickNum (larger : Bool) (x y : Num) : Num :=
  if x.isNan || y.isNan then .nan else if larger then (if x.lt true y then y else x) else (if y.lt true x then y else x)

/-- One element combined into memory (06 R157): ATOP 0 add, 1 max, 2 min. -/
def combine (fmt atop old new : Nat) : Nat :=
  let x := decodeFmt fmt old
  let y := decodeFmt fmt new
  match atop with
  | 0 => if fmt = 0x06 || fmt = 0x07 then (old + new) % 2 ^ 32 else encodeFmt fmt 0 false 0 (x.add y)
  | 1 => encodeFmt fmt 0 false 0 (pickNum true x y)
  | _ => encodeFmt fmt 0 false 0 (pickNum false x y)

/-- Every element of an atomic copy combined into its window, one after another. -/
def State.combineAll (s : State) (p : CopyPlan) (xs : List Moved) : Except FaultRec State :=
  xs.foldlM (fun s x =>
    match p.dst, x.to_ with
    | .win d, .win cs => do
      let old ← s.winRead d cs
      s.winWrite d cs (if x.fill then x.code else combine p.dfmt p.m.atop old x.code)
    | _, _ => .ok s) s

/-- A candidate of a top-k row: value and index. -/
abbrev Cand := Num × Nat

/-- x ranks before y: greater value, NaN below every number (06 R155); equal ranks keep the order of their indices. -/
def before (x y : Cand) : Bool := !x.1.isNan && (y.1.isNan || y.1.lt false x.1)

/-- Insertion after everything that does not rank below. -/
def insertCand (x : Cand) : List Cand → List Cand
  | [] => [x]
  | y :: ys => if before x y then x :: y :: ys else y :: insertCand x ys

/-- The 2k words of a row: value and index of the k best, then −Inf and all ones. -/
def topPairs (k : Nat) (cs : List Cand) : List Nat :=
  let best := (cs.foldl (fun l c => insertCand c l) []).take k
  best.flatMap (fun c => [fp32.encode 0 false 0 c.1, c.2]) ++ (List.replicate (k - best.length) [0xFF800000, 0xFFFFFFFF]).flatten

/-- The places of a row's words: window elements, or bytes that follow one another (06 R155). -/
def CopyPlan.pairPlaces (p : CopyPlan) (row ws : List Nat) : List (CopyPlace × Nat) :=
  match p.dst with
  | .win _ => ws.mapIdx fun j w => (p.to_ (row ++ [j]), w)
  | _ =>
    match p.to_ (row ++ [0]) with
    | .chip a o => ws.mapIdx fun j w => (.chip (a + 4 * j) (o + 4 * j), w)
    | _ => []

/-- What a top-k copy writes for its rows: every row is read first. -/
def State.topk (s : State) (p : CopyPlan) (rows : List (List Nat)) : Except FaultRec (List (CopyPlace × Nat)) := do
  let n := p.box.getLastD 0
  if n = 0 then return []
  let out ← rows.mapM fun r => do
    let cs ← (List.range n).filterMapM fun j =>
      let pl := p.from_ (r ++ [j])
      if pl.isMasked then .ok none
      else do
        let c ← s.placeCode false p.src p.sfmt pl
        return some (decodeFmt p.sfmt c, j)
    return p.pairPlaces r (topPairs p.m.k cs)
  return out.flatten

/-- The index vectors of element rows. -/
def CopyPlan.rowIndices (p : CopyPlan) (rows : List (List Nat)) : List (List Nat) :=
  if p.box.isEmpty then [] else rows.flatMap fun r => (List.range (p.box.getLastD 0)).map fun j => r ++ [j]

/-- Of index vectors, those whose elements a converting copy converts (06 R161). -/
def CopyPlan.converted (p : CopyPlan) (is : List (List Nat)) : List (List Nat) :=
  is.filter fun i => !(p.from_ i).isMasked && !(p.to_ i).isMasked

/-- The effect of element rows `lo` to `hi − 1` of a copy at one instant (07 R176); the draws of the rows before are spent. -/
def State.copyRows (s : State) (p : CopyPlan) (us : List Nat) (lo hi : Nat) : Except FaultRec State := do
  let rows := (p.rows.drop lo).take (hi - lo)
  if p.m.kind = 7 then
    let xs ← s.topk p rows
    s.putSide false p.dst 0x07 xs
  else
    let xs ← s.gather p (p.rowIndices rows)
    if p.m.kind = 6 then s.combineAll p xs
    else
      let spent := (p.converted (p.rowIndices (p.rows.take lo))).length
      let xs := if p.m.kind = 2 then p.convert (us.drop spent) xs else xs
      let s ← s.putSide p.m.raw p.dst p.dfmt (xs.map fun x => (x.to_, x.code))
      let s ← if sideGeom p.dst != 0 && (p.m.kind == 2 || sideGeom p.src != 0) then
          s.putSideScales p.dst p.dscale ((xs.filter (!·.fill)).map fun x => (x.to_, x.scale))
        else pure s
      return xs.foldl (fun s x => match x.cls with
        | some k => s.putPlaceClass p.dst x.to_ k
        | none => s) s

/-- The effect of a copy from the row it has reached. -/
def State.copyEffect (s : State) (p : CopyPlan) (us : List Nat) (from_ : Nat) : Except FaultRec State :=
  s.copyRows p us from_ p.rows.length

/-- The lines of the blocks of a side that cannot be decoded, or have no class (02 R55, 03 R93). -/
def State.malformed (s : State) (raw : Bool) (side : Side) (ps : List CopyPlace) : List Nat :=
  (ps.flatMap fun p => match s.blockOf side p with
    | some (f, c, a) =>
      match expandBlock f c (memRead s.mem a 256) with
      | .ok _ => []
      | .error n => if raw && n = 8 then [] else linesOf a 256
    | none => []).dedup

/-- Of coordinates that are written, those in blocks of a compressed window that are written in part, and so read (02 R55). -/
def partCoords (d : WinDesc) (css : List (List Nat)) : List (List Nat) :=
  if !d.compressed then []
  else
    let part := (blockCounts d css).filter fun k => k.2 * storageBits d.fmt < 2048
    css.filter fun cs =>
      let (tile, elem) := d.locate cs
      part.any fun k => k.1 == (tile, elem * storageBits d.fmt / 8 / 256)

/-- The places of its destination that a copy reads: all that an atomic one combines into; of another, those of blocks that it writes in
part (02 R55, 06 R157). -/
def CopyPlan.readBack (p : CopyPlan) : List (CopyPlace × Nat) :=
  let winOf (x : CopyPlace × Nat) : Option (List Nat) := match x.1 with
    | .win cs => some cs
    | _ => none
  if p.m.kind = 6 then p.writes
  else if p.m.raw then []
  else
    match p.dst with
    | .win d => (partCoords d (p.writes.filterMap winOf)).map fun cs => (.win cs, 0)
    | .tile _ _ t =>
      if t.comp then
        let part := t.partBlocks (p.writes.filterMap fun x => match x.1 with
          | .tile idx => some idx
          | _ => none)
        p.writes.filter fun x => match x.1 with
          | .tile idx => part.contains ((t.bitAt idx).1 / 256)
          | _ => false
      else []
    | .chip _ => []

/-- The lines that a copy reads and is to verify (23 R474): its source, what it reads of its destination, and of a compressed companion
window the blocks that it writes in part. -/
def State.copyIns (s : State) (p : CopyPlan) : List Nat :=
  s.sideLines p.src p.sscale p.sources ++
    (match p.dst with
     | .tile _ base t => p.readBack.flatMap fun x => match x.1 with
       | .tile idx => linesOf (base + (t.bitAt idx).1 / 256 * 256) 256
       | _ => []
     | d => s.sideLines d none p.readBack) ++
    (match p.dscale with
     | some c => (partCoords c (p.writes.filterMap fun x => match x.1 with
       | .win cs => some (scaleCoords c cs)
       | _ => none).dedup).flatMap (s.elemLines c)
     | none => [])

/-- A copy at its completion: input lines verified, the effect, poison carried to the destination lines with AC-03 (23 R474,
R476); a line that it writes whole is fresh. A fault found while reading leaves everything unwritten; a block that cannot be read is
poisoned (02 R55, 03 R93). -/
def State.copyDone (s : State) (p : CopyPlan) (us : List Nat) (from_ : Nat) : State × Option FaultRec :=
  let ins := s.copyIns p
  let outs := s.sideLines p.dst p.dscale p.targets
  let (s, bad) := (s.l2Touch false false ins).verify ins
  match (s.overwrite (p.writes.flatMap (s.placeBits p.m.raw p.dst))).copyEffect p us from_ with
  | .error f =>
    let (s, f) := s.spoil f
    if f.cls = .CP then
      (s.poisonLines (s.malformed p.m.raw p.src (p.sources.map (·.1)) ++ s.malformed false p.dst (p.readBack.map (·.1))), some f)
    else (s, some f)
  | .ok r =>
    let r := r.l2Touch false true outs
    if bad then (r.poisonLines outs, some { cls := .AC, num := 3 }) else (r, none)

/-! ## A copy at a halt (06 R158) -/

/-- Row `k` begins at a boundary where the engine stops: every row, but for a transposing copy the rows of its 32 × 32 tiles. -/
def CopyPlan.boundary (p : CopyPlan) (k : Nat) : Nat :=
  if p.m.kind = 3 && k < p.rows.length then k - (p.rows.getD k []).getLastD 0 % 32 else k

/-- Whether rows of the copy can land apart from the others: not where a later row's source lies under an earlier one's destination,
where a scale block spans rows, or where a tile is compressed as a whole (log entry 126). -/
def CopyPlan.divisible (p : CopyPlan) : Bool :=
  !p.overlaps && !(p.m.kind == 2 && sideGeom p.dst == 2) &&
    (match p.dst with
     | .tile _ _ t => !t.comp
     | _ => true)

/-- The rows that have landed when a copy halts: a free number of those left, up to a boundary; none where its inputs are not sound
(log entry 126). -/
def State.haltCopy (s : State) (p : CopyPlan) (c : CopyCmd) : State × CopyCmd :=
  let n := p.rows.length
  let k := max c.rows (p.boundary (c.rows + Config.freeRows s.freeCtr % (n - c.rows + 1)))
  let clean : Bool := (s.copyIns p).all fun l =>
    !s.poison.contains l && (amGet s.badSeal l).isNone && (amGet s.latent l).isNone
  let stay := { s with freeCtr := s.freeCtr + 1 }
  if !p.divisible || !clean then (stay, c)
  else
    match stay.copyRows p c.draws c.rows k with
    | .ok r => (r.l2Touch false true (s.sideLines p.dst p.dscale p.targets), { c with rows := k })
    | .error _ => (stay, c)

end Sys2Proof.Machine
end

