-- ==== Sys2Proof/Machine/Matrix.lean ====
section
/-! DEFINITION. The matrix array: MLDS to MDRAIN, MXW and MXR at issue, and what the array does with its commands (06 R139 to R148;
12 R318 to R325; 03 R83 to R88; 23 R477). -/
namespace Sys2Proof.Machine

/-! ## The planned state and the checks at entry (12 R318 to R324) -/

/-- The formats of weights and activations (R320). -/
def matrixFmt (f : Nat) : Bool := f ≤ 3 || (9 ≤ f && f ≤ 13)

/-- INT48 accumulation (03 R87). -/
def intAccum (a w : Word) : Bool := twFmt a ≤ 3 && twFmt w ≤ 3 && twGeom a == 0 && twGeom w == 0

/-- The formats of an addend (R321). -/
def addendFmt (int : Bool) (f : Nat) : Bool := if int then f == 0x06 || f == 0x08 else f == 0x09 || f == 0x06 || f == 0x0E

/-- Logical K of a plane (R320). -/
def logicalK (w : Word) : Nat := if twPruned w then 2 * twExt w 1 else twExt w 1

/-- Extent `k` of a word against a number that comes from the variable `vb`, if any: it binds an unbound variable at issue (`live`); at
the entry of a follow-on nothing is bound and a symbolic extent is left to SH-06 (12 R329). A clash names the lower of the variables
(04 R106). -/
def State.fixExt (s : State) (live : Bool) (w : Word) (k n op opb : Nat) (tb : Word) (vb : Option Nat := none) : Except Stop State :=
  let e := twExt w k
  if 512 ≤ e && !live then .ok s
  else
    match s.resolveExt e with
    | .val x => if x = n then .ok s else .error (shFault 4 k (lowVar (extVar e) vb) none op opb w tb)
    | .var v => .ok (if 1 ≤ n && n ≤ 511 then s.bind v n else s)

/-- A word resolved at issue; at the entry of a follow-on it stands as latched. -/
def State.typed (s : State) (live : Bool) (w : Word) : Word := if live then s.resolveType w else w

/-- SH-06 for an extent still symbolic. -/
def boundOr (w asPresented : Word) (op : Nat) : Except Stop Unit :=
  match openExt w with
  | some (k, v) => .error (shFault 5 k (some v) none op 0 asPresented 0)
  | none => .ok ()

/-- The typing rule of MLDS (R320). -/
def State.checkMlds (s : State) (live : Bool) (w : Word) : Except Stop Unit := do
  need (twRank w == 2) (shFault 0 0 none none 1 0 w 0)
  need (matrixFmt (twFmt w)) (shFault 1 0 none none 1 0 w 0)
  let r := s.typed live w
  need (512 ≤ twExt r 0 || twExt r 0 ≤ 128) (shFault 4 0 (extVar (twExt w 0)) none 1 0 w 0)
  need (512 ≤ twExt r 1 || (twExt r 1 ≤ 128 && (!twPruned w || twExt r 1 % 4 == 0)))
    (shFault 4 1 (extVar (twExt w 1)) none 1 0 w 0)
  boundOr r w 1
  needFits r 1

/-- A multiply's M, N and accumulation kind. -/
structure MulDims where
  m : Nat
  n : Nat
  int : Bool
  deriving DecidableEq, Repr

/-- M where it is known: MROWS, or what extent 0 of the activation, as it resolves now, leaves beyond ROW0 (R321). -/
def State.mulRows (s : State) (live : Bool) (c : MulSpec) : Option Nat :=
  if c.m != 0 then some c.m
  else
    let e := twExt (s.typed live c.twA) 0
    if e < 512 then some (e - c.row0) else none

/-- The constraints of R321 on row counts, as far as M and extent 0 of the activation are known: ROW0 + M ≤ extent 0 of Ta, extent 0 of
Tc = M. A clash of the addend with a row count that MX.ROWS gives names no second operand (04 R109); with M taken from the activation it
names the activation, operand 1 (15 R369; log entry 134). -/
def State.checkRowCounts (s : State) (live : Bool) (c : MulSpec) : Except Stop State := do
  let e := twExt (s.typed live c.twA) 0
  need (512 ≤ e || c.m == 0 || c.row0 + c.m ≤ e) (shFault 4 0 (extVar (twExt c.twA 0)) none 1 0 c.twA 0)
  match s.mulRows live c, c.start with
  | some m, .addend =>
    if c.m != 0 then s.fixExt live c.twC 0 m 3 0 0 else s.fixExt live c.twC 0 m 3 1 c.twA (extVar (twExt c.twA 0))
  | _, _ => return s

/-- The typing rule of the multiplies (R321) against the planned state: the state with what it binds, M, N and the kind. The constraints
on row counts are met again when the others have bound their variables: extent 0 of the activation may be bound by then. -/
def State.checkMul (s : State) (live : Bool) (arr : ArrayState) (c : MulSpec) : Except Stop (State × MulDims) := do
  let ta := c.twA
  let pl := arr.planTw
  let addend := c.start == .addend
  let cont := c.start == .cont
  let tc := c.twC
  let tm := c.twM
  need (twPruned pl == c.tm.isSome) (flt .FM 20)
  need (twRank ta == 2) (shFault 0 0 none none 1 0 ta 0)
  need (twRank pl == 2) (shFault 0 0 none none 2 0 pl 0)
  need (!addend || twRank tc == 2) (shFault 0 0 none none 3 0 tc 0)
  need (c.tm.isNone || twRank tm == 2) (shFault 0 0 none none 4 0 tm 0)
  let int := intAccum ta pl
  need (matrixFmt (twFmt ta)) (shFault 1 0 none none 1 0 ta 0)
  need (matrixFmt (twFmt pl)) (shFault 1 0 none none 2 0 pl 0)
  need (!addend || addendFmt int (twFmt tc)) (shFault 1 0 none none 3 0 tc 0)
  need (c.tm.isNone || twFmt tm == 0x10) (shFault 1 0 none none 4 0 tm 0)
  need (c.drain.all fun d => d.fmt ≤ 0x0E) (shFault 1 0 none none 0 0 0 0)
  need (!addend || twGeom tc == 0) (shFault 2 0 none none 3 0 tc 0)
  need (c.tm.isNone || twGeom tm == 0) (shFault 2 0 none none 4 0 tm 0)
  need (c.tm.isNone || (twLayout tm == 0 && !twView tm)) (shFault 3 0 none none 4 0 tm 0)
  let k := logicalK pl
  let n := twExt pl 0
  let s ← s.checkRowCounts live c
  let s ← if c.tm.isSome then s.fixExt live tm 0 n 4 2 pl else pure s
  let s ← s.fixExt live ta 1 k 1 2 pl
  let s ← if addend then s.fixExt live tc 1 n 3 2 pl else pure s
  let s ← if c.tm.isSome then s.fixExt live tm 1 (k / 8) 4 2 pl else pure s
  let s ← s.checkRowCounts live c
  let known := (s.mulRows live c).isSome
  let m := (s.mulRows live c).getD 0
  let limit : Bool := 1 ≤ m && m ≤ 511 && (c.drain.isSome && !cont || m ≤ 128)
  let mvar := if c.m != 0 then none else extVar (twExt ta 0)
  need (!known || limit) (shFault 4 0 mvar none 1 0 ta 0)
  need (!known || !cont || !arr.planValid || m == arr.planM) (shFault 4 0 mvar none 1 0 ta 0)
  need (!cont || !arr.planValid || n == arr.planN) (shFault 4 1 none none 2 0 pl 0)
  boundOr (s.typed live ta) ta 1
  if addend then boundOr (s.typed live tc) tc 3
  if c.tm.isSome then boundOr (s.typed live tm) tm 4
  needFits (s.typed live ta) 1
  if addend then needFits (s.typed live tc) 3
  if c.tm.isSome then needFits (s.typed live tm) 4
  need (!cont || (arr.planValid && int == arr.planInt)) (flt .QU 3)
  return (s, ⟨m, n, int⟩)

/-- The first row and group of metadata that is not strictly ascending (R323). -/
def badMeta (m : Memory) (base : Nat) (t : TLay) (n g : Nat) : Option (Nat × Nat) :=
  (boxCoords [(0, n), (0, g)]).findSome? fun i =>
    let c := t.rawCode m base i
    let j (k : Nat) : Nat := bits c (3 * k) 3
    if j 0 < j 1 && j 1 < j 2 && j 2 < j 3 then none else some (i.getD 0 0, i.getD 1 0)

/-- MD-01 with what MX.MDINFO receives (R325). -/
def checkMeta (m : Memory) (base : Nat) (t : TLay) (n g : Nat) : Except Stop Unit :=
  match badMeta m base t n g with
  | some (r, q) => .error (.fault { cls := .MD, num := 1, aux := r + 512 * q + 16384 })
  | none => .ok ()

/-- What a command does to the planned state as it enters the queue (R318, R322, R324). -/
def ArrayState.plan (a : ArrayState) (c : MCmd) (d : MulDims) : ArrayState :=
  match c with
  | .mlds _ tw => { a with planShadow := tw }
  | .mswap => { a with planTw := a.planShadow, planShadow := a.planTw }
  | .mmul c =>
    if c.drain.isSome then { a with planValid := false }
    else { a with planValid := true, planM := d.m, planN := d.n, planInt := d.int }
  | .mdrain _ => { a with planValid := false }

/-- A command at the end of the matrix queue (06 R140). -/
def State.enqueue (s : State) (core op : Nat) (c : MCmd) (d : MulDims) : State :=
  s.modArr core fun a => { a.plan c d with mq := a.mq ++ [op] }

/-- Room for a command of team `tid` itself: a place among 16, and no held follow-on of the team before it (06 R140, 12 R319). -/
def State.matrixRoom (s : State) (tid core : Nat) : Bool :=
  (s.coreAt core).arr.mq.length < 16 &&
    (s.coreAt core).held.all fun id => !(s.ops.any fun o => o.id == id && o.tid == tid)

/-- The common end of a matrix command's issue: tag, draws, races, room, fork (12 R304, R305). -/
def State.forkMatrix (s : State) (tag : Nat) (c : List Nat → MCmd) (d : MulDims) (rd : List Touch) (draws : Nat) :
    Except Stop State := do
  let s ← s.raiseTag tag 1
  let (s, us) ← s.drawE draws
  s.raceEngine rd []
  let core := s.ctx.core
  need (s.matrixRoom s.ctx.tid core) (.block (.matrixQueue core))
  let op := s.nextOp
  let s := s.addOp (some tag) (.matrix (c us) ⟨0, false, [], none, false⟩) (rd.map readMark)
  return s.enqueue core op (c us) d

/-! ## The words (12 R320 to R325) -/

/-- MLDS (R320). -/
def execMlds (g a tag : Nat) (s : State) : Out :=
  runWord .eMain 2 g (fun s => do
    s.nameTiles [a]
    let w := s.ctx.twAt a
    checkType true w
    s.checkMlds true w
    let r := s.resolveType w
    let s ← s.forkMatrix tag (fun _ => .mlds a r) ⟨0, 0, false⟩ [(layOf r).touch s.me a] 0
    return s.writeBack a) s

/-- MSWAP (R320). -/
def execMswap (g tag : Nat) (s : State) : Out :=
  runWord .eMain 1 g (fun s => s.forkMatrix tag (fun _ => .mswap) ⟨0, 0, false⟩ [] 0) s

/-- The words that a multiply presents are validated in the order of its operands (04 R101); a COMPRESSED addend or metadata tile is
FM-10 (log entry 37). -/
def checkMulTypes (ta tc tm : Word) : Except Stop Unit := do
  checkType true ta
  checkType false tc
  checkType false tm

/-- The MMUL family at issue (R321 to R323): the first rows from MX.ROWS. -/
def mulBody (a start c : Nat) (tm : Option Nat) (drain : Option DrainSpec) (tag : Nat) (s : State) : Except Stop State := do
  let tcs := if start = 1 then [c] else []
  s.nameTiles (a :: tcs ++ tm.toList)
  let x := s.ctx
  let twC := if start = 1 then x.twAt c else 0
  let twM := match tm with
    | some t => x.twAt t
    | none => 0
  checkMulTypes (x.twAt a) twC twM
  let spec : MulSpec := ⟨a, x.twAt a, startOf start, c, twC, tm, twM,
    bits x.mxRows.toNat 0 9, bits x.mxRows.toNat 9 9, drain⟩
  let arr := (s.coreAt x.core).arr
  let (s, d) ← s.checkMul true arr spec
  let spec := { spec with twA := s.resolveType spec.twA, twC := s.resolveType spec.twC, twM := s.resolveType spec.twM, m := d.m }
  let s ← match tm with
    | none => pure s
    | some t => do
      let l := layOf spec.twM
      let s ← s.readCheck (tileAddr s.me t 0) l.size
      checkMeta s.mem (tileAddr s.me t 0) l d.n (logicalK arr.planTw / 8)
      pure s
  let rd := (layOf spec.twA).touch s.me a :: (if start = 1 then [(layOf spec.twC).touch s.me c] else []) ++
    (match tm with
     | some t => [(layOf spec.twM).touch s.me t]
     | none => [])
  let n := match drain with
    | some q => if q.rnd = 1 then d.m * d.n else 0
    | none => 0
  let s ← s.forkMatrix tag (fun us => .mmul { spec with drain := drain.map fun q => { q with draws := us } }) d rd n
  return (a :: tcs ++ tm.toList).foldl State.writeBack s

/-- MMUL (R322). -/
def execMmul (g q a start c tag fmt rnd sat : Nat) (s : State) : Out :=
  runWord .eMain 2 g (mulBody a start c none (some ⟨q, fmt, rnd, sat, []⟩) tag) s

/-- MMULN (R322). -/
def execMmuln (g a start c tag : Nat) (s : State) : Out := runWord .eMain 2 g (mulBody a start c none none tag) s

/-- MMUL.S (R322, R323). -/
def execMmulS (g q a start c tag fmt rnd sat m : Nat) (s : State) : Out :=
  runWord .eMain 2 g (mulBody a start c (some m) (some ⟨q, fmt, rnd, sat, []⟩) tag) s

/-- MMULN.S (R322, R323). -/
def execMmulnS (g a start c tag m : Nat) (s : State) : Out := runWord .eMain 2 g (mulBody a start c (some m) none tag) s

/-- MDRAIN (R324). -/
def execMdrain (g q tag fmt rnd sat : Nat) (s : State) : Out :=
  runWord .eMain 2 g (fun s => do
    need (fmt ≤ 0x0E) (shFault 1 0 none none 0 0 0 0)
    let arr := (s.coreAt s.ctx.core).arr
    need arr.planValid (flt .QU 3)
    s.forkMatrix tag (fun us => .mdrain ⟨q, fmt, rnd, sat, us⟩) ⟨arr.planM, arr.planN, arr.planInt⟩ []
      (if rnd = 1 then arr.planM * arr.planN else 0)) s

/-- MXW (R325). -/
def execMxw (g x a : Nat) (s : State) : Out :=
  runWord .eMain 1 g (fun s => do
    let v ← s.rx a
    return if x = 0 then s.post 1 (.mx 0 v) else s) s

/-- The MX registers (R325). -/
def State.mxReg (s : State) (x : Nat) : Word :=
  let a := (s.coreAt s.ctx.core).arr
  match x with
  | 0 => s.ctx.mxRows
  | 1 => a.planTw
  | 2 => a.planShadow
  | 3 => word (a.planM + 512 * a.planN + 131072 * a.planValid.toNat + 262144 * a.planInt.toNat)
  | 4 => s.ctx.mxMd
  | _ => 0

/-- MXR (R325). -/
def execMxr (g d x : Nat) (s : State) : Out := runWord .eMain 1 g (fun s => .ok (s.wx 1 d (s.mxReg x))) s

/-! ## Operations in progress -/

def State.opAt (s : State) (id : Nat) : Option Op := s.ops.find? fun o => o.id == id

def State.modOp (s : State) (id : Nat) (f : Op → Op) : State := { s with ops := s.ops.map fun o => if o.id = id then f o else o }

/-- FCMD of an operation (09 R250). -/
def fcmdOf (o : Op) : Word := word (o.addr % 2 ^ 32 + 2 ^ 32 * o.tag.getD 0 + 2 ^ 38 * (o.core % 8))

/-- An engine fault, kept at the operation's tag for its join (00 R9). -/
def State.opFault (s : State) (o : Op) (f : FaultRec) : State :=
  let t := s.taskAt o.tid
  s.setTask o.tid { t with tagFaults := t.tagFaults ++ [⟨o.id, o.core, o.tag.getD 0, { f with fcmd := fcmdOf o }⟩] }

/-- The queue that a matrix command drains to. -/
def MCmd.queue : MCmd → Option Nat
  | .mmul c => c.drain.map (·.q)
  | .mdrain d => some d.q
  | _ => none

def OpKind.queue : OpKind → Option Nat
  | .matrix c _ => c.queue
  | _ => none

/-- What a completed operation comes after is kept for its joins (07 R175, R183). -/
def State.keepDone (s : State) (o : Op) : State :=
  match o.tag with
  | none => s
  | some tag =>
    if (s.undone o.before).isEmpty || (amGet s.tasks o.tid).isNone then s
    else
      let t := s.taskAt o.tid
      let old := t.done.filter fun d => !(s.undone d.before).isEmpty
      s.setTask o.tid { t with done := ⟨o.id, o.core, tag, o.kind.queue, s.undone o.before⟩ :: old }

/-- An operation completes: its marks go with it, its tag's count falls (02 R63). A cached tile that it has written is filled anew. -/
def State.finishOp (s : State) (o : Op) : State :=
  let s := { (s.dropLines o.marks).keepDone o with ops := s.ops.filter fun p => p.id != o.id }
  match o.tag with
  | some t => s.lowerTag o.tid o.core t
  | none => s

def State.failOp (s : State) (o : Op) (f : FaultRec) : State := (s.opFault o f).finishOp o

/-- The same where there may be no fault. -/
def State.endOp (s : State) (o : Op) (f : Option FaultRec) : State :=
  match f with
  | some f => s.failOp o f
  | none => s.finishOp o

/-- A matrix command leaves its queue and completes. -/
def State.endMatrix (s : State) (o : Op) (f : Option FaultRec) : State :=
  (s.modArr o.core fun a => { a with mq := a.mq.filter (· != o.id) }).endOp o f

/-! ## Sums (03 R83 to R87) -/

/-- An element as the array meets it: decoded value, its scale block with the SC8 code, whether SKIP makes its block a zero block. -/
structure Elem where
  x : Num
  e : Nat
  z : Bool
  b : Nat
  deriving DecidableEq, Repr

/-- SKIP groups of `u` elements: a group of zeros is a zero block (03 R84). -/
def skipGroups (u : Nat) : Nat → List Elem → List Elem
  | 0, l => l
  | _, [] => []
  | fuel + 1, l =>
    let g := l.take u
    (if g.all (·.x.isZero) then g.map fun e => { e with z := true } else g) ++ skipGroups u fuel (l.drop u)

/-- Row `r` of a rank-2 tile, along its last extent. -/
def TLay.rowElems (t : TLay) (m : Memory) (base r : Nat) : Except FaultRec (List Elem) := do
  let es ← (List.range (t.ext.getD 1 0)).mapM fun k => do
    let c ← t.code m base [r, k]
    return Elem.mk (decodeFmt t.fmt c) (t.scale m base [r, k]) false (if t.geom = 0 then 0 else t.blockAt [r, k])
  return if t.skip && t.geom = 0 then skipGroups t.unit es.length es else es

/-- The product of a pair (03 R83): the first row that applies. Elements without a scale have code 127. -/
def pairProduct (strict : Bool) (a w : Elem) : Num :=
  if a.e = 255 || w.e = 255 then .nan
  else if strict then (scaleBy a.e a.x).mul (scaleBy w.e w.x)
  else if a.e = 0 || w.e = 0 || a.z || w.z then .zero
  else (scaleBy a.e a.x).mul (scaleBy w.e w.x)

/-- Terms grouped into parts: neighbours of one key (03 R85). -/
def partsOf : List ((Nat × Nat × Nat) × Num) → List (List Num)
  | [] => []
  | (k, x) :: l =>
    match l, partsOf l with
    | (k', _) :: _, p :: ps => if k = k' then (x :: p) :: ps else [x] :: p :: ps
    | _, ps => [x] :: ps

/-- The parts of a dot product: weights with their logical positions against an activation row. Each pair of blocks is a part of its
own within a segment (03 R85, R86). -/
def dotParts (strict : Bool) (act : List Elem) (ws : List (Nat × Elem)) : List (List Num) :=
  partsOf (ws.map fun p =>
    let a := act.getD p.1 ⟨.zero, 127, false, 0⟩
    ((p.1 / 16, a.b, p.2.b), pairProduct strict a p.2))

/-- A finite number as an integer. -/
def Num.toInt : Num → Int
  | .fin n m e _ => signedAt n m e 0
  | _ => 0

/-- An accumulator in ACC48 (R85): `none` is EMPTY. -/
def dotFloat (parts : List (List Num)) (start : Option Num) : Num :=
  (parts.foldl (fun (acc : Option Num) p =>
    let v := rneAcc (exactSum p)
    match acc with
    | none => some v
    | some a => some (rneAcc (a.add v))) start).getD .zero

/-- An accumulator in INT48, and whether an addition saturated (R77, R87); `sat` says so of its starting value. -/
def dotInt (parts : List (List Num)) (start : Int) (sat : Bool) : Int × Bool :=
  parts.foldl (fun (a : Int × Bool) p =>
    let (lo, hi) := intRange 48 true
    let v := a.1 + (exactSum p).toInt
    (max lo (min hi v), a.2 || v < lo || hi < v)) (start, sat)

/-- A 48-bit code of an accumulator, and back. -/
def accCode (int : Bool) (x : Num) : BitVec 48 :=
  BitVec.ofNat 48 (if int then intCode 48 x.toInt else acc48.encode 0 false 0 x)
def accNum (int : Bool) (c : BitVec 48) : Num := if int then .ofInt c.toInt else acc48.decode c.toNat

/-- The weights of plane row `n` with their logical positions: all of them, or those the metadata keeps (R323). The image is the array's:
a block of it that cannot be read has no lines in memory. -/
def planeRow (pl : Plane) (tm : Option (Memory × Nat × TLay)) (n : Nat) : Except FaultRec (List (Nat × Elem)) := do
  let t := layOf pl.tw
  let es ← match t.rowElems pl.img 0 n with
    | .ok es => pure es
    | .error f => .error { f with lines := [] }
  match tm with
  | none => return es.mapIdx fun k e => (k, e)
  | some (m, base, l) =>
    return es.mapIdx fun j e => (8 * (j / 4) + bits (l.rawCode m base [n, j / 4]) (3 * (j % 4)) 3, e)

/-! ## Check columns (06 R148; 23 R477) -/

/-- A weight with its block's scale. -/
def Elem.weight (e : Elem) : Num := if e.e = 255 then .nan else if e.e = 0 || e.z then .zero else scaleBy e.e e.x

/-- The accumulator that holds a number: exact in INT48, rounded in ACC48. -/
def accRound (int : Bool) (x : Num) : BitVec 48 := accCode int (if int then x else rneAcc x)

/-- The check columns: at each contraction position that has weights, their sum and the sum of their magnitudes. -/
def checkCols (int : Bool) (ws : List (List (Nat × Elem))) : List (Nat × BitVec 48 × BitVec 48) :=
  (risingSet (ws.flatMap fun w => w.map (·.1))).map fun k =>
    let xs := ws.flatMap fun w => (w.filter fun p => p.1 == k).map fun p => p.2.weight
    (k, accRound int (exactSum xs), accRound int (exactSum (xs.map Num.abs)))

/-- Whether the weights of a plane are integers without a scale. -/
def planeInt (w : Word) : Bool := twFmt w ≤ 3 && twGeom w == 0

/-- The check columns that a plane has once it is loaded; a PRUNED one has none before its metadata come (log entry 13). -/
def planeChk (tw : Word) (img : Memory) : List (BitVec 48 × BitVec 48) :=
  if twPruned tw then []
  else
    match (List.range (twExt tw 0)).mapM (planeRow { tw := tw, img := img } none) with
    | .ok ws => (checkCols (planeInt tw) ws).map (·.2)
    | .error _ => []

/-- The check columns that a command uses. -/
def Plane.cols (pl : Plane) (ws : List (List (Nat × Elem))) : List (Nat × BitVec 48 × BitVec 48) :=
  if twPruned pl.tw then checkCols (planeInt pl.tw) ws else pl.chk.mapIdx fun k c => (k, c)

/-- A check column as the weights of one more row; `f` selects it. -/
def asWeights (int : Bool) (f : BitVec 48 × BitVec 48 → BitVec 48) (cols : List (Nat × BitVec 48 × BitVec 48)) : List (Nat × Elem) :=
  cols.map fun c => (c.1, ⟨accNum int (f c.2), 127, false, 0⟩)

/-- A chunk of a multiply: its accumulators, which of them saturated, its check results. -/
structure Chunk where
  acc : List (List (BitVec 48))
  sat : List (List Bool)
  chk : List (BitVec 48 × BitVec 48)
  deriving DecidableEq, Repr

/-- A dot product with its starting value and the flag of it: code and flag. -/
def dotAcc (int : Bool) (parts : List (List Num)) (start : Option Num) (sat : Bool) : BitVec 48 × Bool :=
  if int then
    let (v, sat) := dotInt parts ((start.getD .zero).toInt) sat
    (accCode true (.ofInt v), sat)
  else (accCode false (dotFloat parts start), false)

/-- The accumulators with the flipped bits of soft errors. -/
def flipAcc (acc : List (List (BitVec 48))) (fs : List (Nat × Nat × Nat)) : List (List (BitVec 48)) :=
  fs.foldl (fun a f => a.modify f.1 fun r => r.modify f.2.1 fun c => c ^^^ BitVec.ofNat 48 (2 ^ f.2.2)) acc

/-- The base store of a chunk of `mr` rows (06 R143): the starting values and their check results. A continuation starts from the
accumulators as they stand, with what soft errors have done to them; an addend is converted exactly. -/
def State.startChunk (s : State) (cid : Nat) (arr : ArrayState) (c : MulSpec) (first mr : Nat) : ArrayState :=
  let int := intAccum c.twA arr.cur.tw
  let n := twExt arr.cur.tw 0
  match c.start with
  | .cont => { arr with base := flipAcc arr.acc arr.flips, baseInt := arr.accInt, baseSat := arr.accSat, baseChk := arr.chk, flips := [] }
  | .zero => { arr with base := List.replicate mr (List.replicate n (accRound int .zero)), baseInt := int,
                        baseSat := List.replicate mr (List.replicate n false),
                        baseChk := List.replicate mr (accRound int .zero, accRound int .zero), flips := [] }
  | .addend =>
    let tc := layOf c.twC
    let rows := (List.range mr).map fun r => (List.range n).map fun j =>
      decodeFmt tc.fmt (tc.rawCode s.mem (tileAddr cid c.tc 0) [first + r, j])
    { arr with base := rows.map fun r => r.map (accRound int), baseInt := int, baseSat := List.replicate mr (List.replicate n false),
               baseChk := rows.map fun r => (accRound int (exactSum r), accRound int (exactSum (r.map Num.abs))), flips := [] }

/-- Rows of the activation against the current plane, from the base store; `first` numbers the chunk's first row among the M rows
(R322, 06 R143). The check results are formed as the data are, C1 with the activation's magnitudes (23 R477; log entry 13). -/
def State.chunkSums (s : State) (cid : Nat) (arr : ArrayState) (c : MulSpec) (first mr : Nat) : Except FaultRec Chunk := do
  let pl := arr.cur
  let ta := layOf c.twA
  let int := intAccum c.twA pl.tw
  let strict := twStrict c.twA || twStrict pl.tw
  let tm := c.tm.map fun t => (s.mem, tileAddr cid t 0, layOf c.twM)
  let ws ← (List.range (twExt pl.tw 0)).mapM (planeRow pl tm)
  let cols := pl.cols ws
  let rows ← (List.range mr).mapM fun r => do
    let act ← ta.rowElems s.mem (tileAddr cid c.ta 0) (c.row0 + first + r)
    let from_ (x : BitVec 48) : Option Num := if c.start = .zero then none else some (accNum arr.baseInt x)
    let cells := ws.mapIdx fun j w => dotAcc int (dotParts strict act w) (from_ ((arr.base.getD r []).getD j 0))
      ((arr.baseSat.getD r []).getD j false)
    let size := act.map fun e => { e with x := e.x.abs }
    let c0 := dotAcc int (dotParts strict act (asWeights (planeInt pl.tw) (·.1) cols)) (from_ (arr.baseChk.getD r (0, 0)).1) false
    let c1 := dotAcc int (dotParts strict size (asWeights (planeInt pl.tw) (·.2) cols)) (from_ (arr.baseChk.getD r (0, 0)).2) false
    return (cells, c0.1, c1.1)
  return ⟨rows.map (·.1.map (·.1)), rows.map (·.1.map (·.2)), rows.map (·.2)⟩

/-! ## Drains (06 R145 to R148, 03 R88) -/

/-- The places of the slabs of `mr` × `n` accumulators in order of pushing. -/
def slabPlaces (mr n : Nat) : List (Nat × Nat) :=
  (List.range (ceilDiv mr 16)).flatMap fun g => (List.range (ceilDiv n 64)).map fun h => (g, h)

/-- A slab of accumulators. -/
def slabOf {α : Type} (acc : List (List α)) (mr n : Nat) (p : Nat × Nat) : List (List α) :=
  ((acc.drop (16 * p.1)).take (min 16 (mr - 16 * p.1))).map fun r => (r.drop (64 * p.2)).take (min 64 (n - 64 * p.2))

/-- One accumulator converted: without a draw left, RSTO rounds under RNE (06 R161). -/
def drainCode (d : DrainSpec) (u : Option Nat) (x : Num) : Nat :=
  match u with
  | some u => encodeFmt d.fmt d.rnd (d.sat == 1) u x
  | none => encodeFmt d.fmt (if d.rnd = 1 then 0 else d.rnd) (d.sat == 1) 0 x

/-- Slabs from accumulators; `us` are the draws from here on. -/
def slabsFrom (d : DrainSpec) : List (List (List Num)) → List Nat → List Slab
  | [], _ => []
  | rows :: rest, us =>
    let nr := rows.length
    let nc := (rows.headD []).length
    let conv := (rows.zipIdx).map fun r => (r.1.zipIdx).map fun x => drainCode d (us[r.2 * nc + x.2]?) x.1
    { fmt := d.fmt, nr := nr, nc := nc, vals := conv } :: slabsFrom d rest (us.drop (nr * nc))

/-- NaN or an infinity. -/
def Num.odd (x : Num) : Bool := x.isNan || x.isInf

/-- A row that passes its check uncompared: the row or a check result holds NaN or Inf, or an accumulator saturated (23 R477). -/
def rowSkips (int : Bool) (r : List (BitVec 48)) (sat : List Bool) (chk : BitVec 48 × BitVec 48) : Bool :=
  sat.any id || (!int && (chk.1 :: chk.2 :: r).any fun c => (acc48.decode c.toNat).odd)

/-- A row fails its check: the exact sum of its accumulators against C0, within the bound that C1 gives (23 R477). -/
def rowFails (int : Bool) (r : List (BitVec 48)) (chk : BitVec 48 × BitVec 48) : Bool :=
  let diff := (exactSum (r.map (accNum int))).add (accNum int chk.1).neg
  if int then !diff.isZero
  else (((acc48.decode chk.2.toNat).mul (.fin false 1 (-28) false)).add (.fin false 1 (-240) false)).lt false diff.abs

/-- The check of the rows about to be drained: whether one fails, and how many pass uncompared. -/
def checkRows (int : Bool) (acc : List (List (BitVec 48))) (sat : List (List Bool)) (chk : List (BitVec 48 × BitVec 48)) : Bool × Nat :=
  let rows := (acc.zipIdx).map fun r => (r.1, sat.getD r.2 [], chk.getD r.2 (0, 0))
  (rows.any fun r => !rowSkips int r.1 r.2.1 r.2.2 && rowFails int r.1 r.2.2, (rows.filter fun r => rowSkips int r.1 r.2.1 r.2.2).length)

/-- A count of the error registers raised (23 R479). -/
def State.countError (s : State) (idx n : Nat) : State :=
  { s with elog := { s.elog with counts := s.elog.counts.set idx ((s.elog.counts.getD idx 0 + n) % 2 ^ 64) } }

/-- Queue `q` of a core changed. -/
def State.modQueue (s : State) (core q : Nat) (f : RQueue → RQueue) : State :=
  s.modArr core fun a => { a with queues := a.queues.set q (f (a.queues.getD q .empty)) }

/-- The accumulators of `mr` rows turned into slabs, with the status bits of the queue (06 R147). -/
def State.drainAcc (s : State) (o : Op) (d : DrainSpec) (int : Bool) (acc : List (List (BitVec 48))) (sat : List (List Bool))
    (mr n used : Nat) : State × List Slab :=
  let nums := acc.map fun r => r.map (accNum int)
  let slabs := slabsFrom d ((slabPlaces mr n).map (slabOf nums mr n)) (d.draws.drop used)
  let all := nums.flatten
  let nan := !int && all.any Num.isNan
  let st := (sat.flatten).any id || all.any (drainSaturates d.fmt d.rnd (d.sat == 1))
  (s.modQueue o.core d.q fun r => { r with nan := r.nan || nan, sat := r.sat || st }, slabs)

/-- How a check of the rows to be drained ends (06 R148). -/
inductive CheckEnd where
  | passed | replay | failed
  deriving DecidableEq, Repr

/-- What a check leads to (06 R148; 23 R477): the first failure of a chunk replays it; a pass after a replay is RETRIED, with KIND 6; a
failure after one is KIND 7. Rows that passed uncompared are counted, once for a chunk: where it is replayed, by the replay's check (log
entry 13). -/
def State.afterCheck (s : State) (o : Op) (q : Nat) (retried : Bool) (chk : Bool × Nat) : State × CheckEnd :=
  if chk.1 && !retried then (s, .replay)
  else
    let s := s.countError 7 chk.2
    if chk.1 then (s.logUnplaced 7, .failed)
    else if retried then ((s.logUnplaced 6).modQueue o.core q fun r => { r with retried := true }, .passed) else (s, .passed)

/-! ## The array's steps -/
/-- A command has ended its use of the array (06 R140). -/
def endedUse (s : State) (id : Nat) : Bool :=
  match s.opAt id with
  | some o => (match o.kind with
    | .matrix _ g => g.streamed
    | _ => true)
  | none => true

def isMlds (s : State) (id : Nat) : Bool :=
  match s.opAt id with
  | some o => (match o.kind with
    | .matrix (.mlds ..) _ => true
    | _ => false)
  | none => false

def isMswap (s : State) (id : Nat) : Bool :=
  match s.opAt id with
  | some o => (match o.kind with
    | .matrix .mswap _ => true
    | _ => false)
  | none => false

/-- Whether a command may start, given those ahead of it (06 R140). -/
def mayStart (s : State) (ahead : List Nat) (id : Nat) : Bool :=
  if isMlds s id then ahead.all fun a => !isMlds s a && !isMswap s a
  else if isMswap s id then ahead.all (endedUse s)
  else ahead.all fun a => isMlds s a || endedUse s a

/-- The first command of the queue that satisfies `p` with those ahead of it. -/
def findCmd (p : List Nat → Nat → Bool) : List Nat → List Nat → Option Nat
  | _, [] => none
  | ahead, id :: ids => if p ahead id then some id else findCmd p (ahead ++ [id]) ids

/-- A drain that waits for room records when the wait began (06 R146); `now` where a push has just ended every earlier wait. -/
def State.noteWait (s : State) (now : Bool) (id : Nat) : State :=
  s.modOp id fun o => match o.kind with
    | .matrix c g =>
      let full : Bool := 16 ≤ ((s.coreAt o.core).arr.queues.getD (c.queue.getD 0) .empty).slabs.length
      let since := if now then s.cycle else g.waitSince.getD s.cycle
      { o with kind := .matrix c { g with waitSince := if full && !g.slabs.isEmpty then some since else none } }
    | _ => o

/-- A drain whose slabs have all been pushed: counted once, and complete when nothing more streams (06 R147). -/
def State.settleDrain (s : State) (id : Nat) : State :=
  match s.opAt id with
  | some o =>
    match o.kind with
    | .matrix c g =>
      match c.queue with
      | some q =>
        if g.streamed && g.slabs.isEmpty then
          (s.modQueue o.core q fun r => { r with drains := r.drains + 1 }).endMatrix o none
        else s.noteWait false id
      | none => s
    | _ => s
  | none => s

/-- A step of a matrix command acts with its core's unit. -/
def State.actMatrix (s : State) (core id : Nat) : State :=
  match s.opAt id with
  | some o => s.actFor o
  | none => s.actAs (unitOfCore core) 0

/-- An operation reads a poisoned line: AC-03 at its join, once (23 R476). -/
def State.poisonedOp (s : State) (o : Op) (bad : Bool) : State :=
  if bad && !((s.taskAt o.tid).tagFaults.any fun t => t.op == o.id) then s.opFault o { cls := .AC, num := 3 } else s

/-- MDRAIN reads the accumulators (R324), with what soft errors have flipped in them since their chunk began: checked, drained, or
replayed once. The replay streams the chunk again from the base store and gives the bits of an undisturbed one (06 R144, R148): those flips
are undone. What the base store took over from earlier accumulators, their flips among it, stays. -/
def State.drainLeft (s : State) (o : Op) (d : DrainSpec) (g : MProg) : State :=
  let arr := (s.coreAt o.core).arr
  let acc := flipAcc arr.acc arr.flips
  match s.afterCheck o d.q g.retried (checkRows arr.accInt acc arr.accSat arr.chk) with
  | (s, .failed) => s.endMatrix o (some { cls := .AC, num := 1 })
  | (s, .replay) =>
    (s.modArr o.core fun a => { a with flips := [] }).modOp o.id fun o => { o with kind := .matrix (.mdrain d) { g with retried := true } }
  | (s, .passed) =>
    let (s, slabs) := s.drainAcc o d arr.accInt acc arr.accSat acc.length (acc.headD []).length 0
    let slabs := slabs.map fun x => { x with bad := arr.accBad }
    ((s.poisonedOp o arr.accBad).modOp o.id fun o => { o with kind := .matrix (.mdrain d) ⟨0, true, slabs, none, false⟩ }).settleDrain o.id

/-- A chunk of a multiply starts: the array copies its starting values into the base store (06 R143). -/
def State.beginChunk (s : State) (o : Op) (c : MulSpec) (chunk : Nat) : State :=
  s.modArr o.core fun a => s.startChunk o.cid a c (128 * chunk) (min 128 (c.m - 128 * chunk))

/-- MATRIX_COMMAND_START (06 R140): the next command that may start does. An MDRAIN reads its accumulators at once. -/
def execMatrixCommandStart (core : Nat) (s : State) : Out :=
  let arr := (s.coreAt core).arr
  let ok (ahead : List Nat) (id : Nat) : Bool := (s.opAt id).any (!·.started) && !isMswap s id && mayStart s ahead id
  match findCmd ok [] arr.mq with
  | none => notNow "MATRIX_COMMAND_START"
  | some id =>
    match s.opAt id with
    | none => notNow "MATRIX_COMMAND_START"
    | some o =>
      let s := (s.actMatrix core id).modOp id fun o => { o with started := true }
      match o.kind with
      | .matrix (.mdrain d) g => .next (s.drainLeft o d g)
      | .matrix (.mmul c) g => .next (s.beginChunk o c g.chunk)
      | _ => .next s

/-- MLDS_LOAD_COMPLETE (06 R141): the shadow plane takes the tile's image and type. A block of a COMPRESSED tile that cannot be read is
poisoned, with the fault of a copy that reads it (03 R93; log entry 142). -/
def execMldsLoadComplete (core : Nat) (s : State) : Out :=
  let arr := (s.coreAt core).arr
  match findCmd (fun _ id => isMlds s id && (s.opAt id).any (·.started)) [] arr.mq with
  | none => notNow "MLDS_LOAD_COMPLETE"
  | some id =>
    match s.opAt id with
    | none => notNow "MLDS_LOAD_COMPLETE"
    | some o =>
      match o.kind with
      | .matrix (.mlds t tw) _ =>
        let base := tileAddr o.cid t 0
        let n := (layOf tw).size
        let (s, bad) := (s.actMatrix core id).verify (linesOf base n)
        let img := memWrite [] 0 (memRead s.mem base n)
        let s := s.modArr core fun a => { a with shadow := ⟨tw, img, planeChk tw img, bad⟩ }
        match (layOf tw).badBlock s.mem base with
        | some f =>
          let (s, f) := s.spoil f
          .next (s.endMatrix o (some f))
        | none => .next (s.endMatrix o (if bad then some { cls := .AC, num := 3 } else none))
      | _ => notNow "MLDS_LOAD_COMPLETE"

/-- MSWAP_TAKES_EFFECT (06 R140, R141). -/
def execMswapTakesEffect (core : Nat) (s : State) : Out :=
  let arr := (s.coreAt core).arr
  match findCmd (fun ahead id => isMswap s id && mayStart s ahead id) [] arr.mq with
  | none => notNow "MSWAP_TAKES_EFFECT"
  | some id =>
    match s.opAt id with
    | none => notNow "MSWAP_TAKES_EFFECT"
    | some o => .next ((s.modArr core fun a => { a with cur := a.shadow, shadow := a.cur }).endMatrix o none)

/-- A multiply whose chunk can end: started, still streaming, its earlier slabs pushed; or an MDRAIN whose replay can. -/
def streaming (s : State) (id : Nat) : Bool :=
  match s.opAt id with
  | some o => o.started && (match o.kind with
    | .matrix (.mmul _) g => !g.streamed && g.slabs.isEmpty
    | .matrix (.mdrain _) g => !g.streamed
    | _ => false)
  | none => false

/-- Half array cycles that a row of a format takes (06 R142). -/
def rowCost (f : Nat) : Nat := if f ≤ 1 || f = 0x0D then 1 else if f ≤ 3 || f = 0x0C then 2 else if f = 0x09 then 16 else 4

/-- The array after a chunk whose sums stay in it, with what soft errors have flipped meanwhile, or are drained. -/
def ArrayState.sumsDone (a : ArrayState) (k : Chunk) (int bad : Bool) (flips : List (Nat × Nat × Nat)) : ArrayState :=
  { a with acc := k.acc, accInt := int, accSat := k.sat, chk := k.chk, flips := flips, accBad := bad }

/-- The chunk of a multiply ends (06 R143, R144, R148; 23 R476, R477): its sums stay, or are drained after their check; then the next one
starts. A block of a COMPRESSED activation that cannot be read is poisoned and ends the command with the fault of a copy that reads it (03
R93; log entry 142). -/
def State.chunkEnds (s : State) (o : Op) (c : MulSpec) (g : MProg) : State :=
  let core := o.core
  let arr := (s.coreAt core).arr
  let first := 128 * g.chunk
  let mr := min 128 (c.m - first)
  let n := twExt arr.cur.tw 0
  let int := intAccum c.twA arr.cur.tw
  let home (t : Nat) (tw : Word) : List Nat := linesOf (tileAddr o.cid t 0) (layOf tw).size
  let lines := home c.ta c.twA ++ (if c.start = .addend then home c.tc c.twC else []) ++
    (match c.tm with
     | some t => home t c.twM
     | none => [])
  let (s, bad) := s.verify lines
  match s.chunkSums o.cid arr c first mr with
  | .error f =>
    let (s, f) := s.spoil f
    s.endMatrix o (some f)
  | .ok k =>
    let bad := bad || arr.cur.bad || (c.start == .cont && arr.accBad)
    let s := s.telemetry (s.taskAt o.tid).p 1 (ceilDiv (mr * max (rowCost (twFmt c.twA)) (rowCost (twFmt arr.cur.tw))) 2)
    let s := s.poisonedOp o bad
    match c.drain with
    | none => (s.modArr core fun a => a.sumsDone k int bad (a.flips.filter fun f => f.1 < mr && f.2.1 < n)).endMatrix o none
    | some d =>
      let flips := arr.flips.filter fun f => f.1 < mr && f.2.1 < n
      let acc := flipAcc k.acc flips
      match s.afterCheck o d.q g.retried (checkRows int acc k.sat k.chk) with
      | (s, .failed) => s.endMatrix o (some { cls := .AC, num := 1 })
      | (s, .replay) =>
        (s.modArr core fun a => { a with flips := [] }).modOp o.id fun o => { o with kind := .matrix (.mmul c) { g with retried := true } }
      | (s, .passed) =>
        let (s, slabs) := s.drainAcc o d int acc k.sat mr n (first * n)
        let slabs := slabs.map fun x => { x with bad := bad }
        let s := s.modArr core fun a => a.sumsDone k int bad []
        let s := if first + mr < c.m then s.beginChunk o c (g.chunk + 1) else s
        (s.modOp o.id fun o => { o with kind := .matrix (.mmul c) ⟨g.chunk + 1, decide (c.m ≤ first + mr), slabs, none, false⟩ }).settleDrain o.id

/-- MMUL_CHUNK_END (06 R143, R144, R148): a chunk has streamed, or been replayed. -/
def execMmulChunkEnd (core : Nat) (s : State) : Out :=
  match findCmd (fun _ id => streaming s id) [] (s.coreAt core).arr.mq with
  | none => notNow "MMUL_CHUNK_END"
  | some id =>
    match s.opAt id with
    | none => notNow "MMUL_CHUNK_END"
    | some o =>
      match o.kind with
      | .matrix (.mmul c) g => .next ((s.actFor o).chunkEnds o c g)
      | .matrix (.mdrain d) g => .next ((s.actFor o).drainLeft o d g)
      | _ => notNow "MMUL_CHUNK_END"

/-- The oldest command of the core's array with a slab to push, with its queue. -/
def pushing (s : State) (core : Nat) : Option (Op × MCmd × MProg × Nat) :=
  (s.coreAt core).arr.mq.findSome? fun id =>
    match s.opAt id with
    | some o => (match o.kind with
      | .matrix c g => if g.slabs.isEmpty then none else some (o, c, g, c.queue.getD 0)
      | _ => none)
    | none => none

/-- SLAB_PUSH (06 R145, R146): the push ends every wait; those that find their queue full begin anew. -/
def execSlabPush (core : Nat) (s : State) : Out :=
  match pushing s core with
  | none => notNow "SLAB_PUSH"
  | some (o, c, g, q) =>
    match g.slabs with
    | [] => notNow "SLAB_PUSH"
    | sl :: rest =>
      if ((s.coreAt core).arr.queues.getD q .empty).slabs.length < 16 then
        let s := s.modQueue core q fun r => { r with slabs := r.slabs ++ [sl] }
        let s := s.modOp o.id fun o => { o with kind := .matrix c { g with slabs := rest, waitSince := none } }
        .next (((s.coreAt core).arr.mq.foldl (State.noteWait · true) s).settleDrain o.id)
      else notNow "SLAB_PUSH"

/-- DRAIN_WAIT_TIMEOUT (06 R146): more than 65,536 reference cycles of waiting end the command with QU-01. -/
def execDrainWaitTimeout (core : Nat) (s : State) : Out :=
  match pushing s core with
  | none => notNow "DRAIN_WAIT_TIMEOUT"
  | some (o, _, g, q) =>
    match g.waitSince with
    | none => notNow "DRAIN_WAIT_TIMEOUT"
    | some c =>
      if 65536 < s.cycle - c && 16 ≤ ((s.coreAt core).arr.queues.getD q .empty).slabs.length then
        .next (s.endMatrix o (some { cls := .QU, num := 1 }))
      else notNow "DRAIN_WAIT_TIMEOUT"

/-- The checks of a follow-on as it enters the queue (12 R329): its latched words validated, then its typing rule and its metadata. -/
def State.checkFollow (s : State) (o : Op) (arr : ArrayState) (c : MCmd) : Except Stop MulDims :=
  match c with
  | .mlds _ tw => do
    checkType true tw
    s.checkMlds false tw
    return ⟨0, 0, false⟩
  | .mmul c => do
    checkMulTypes c.twA c.twC c.twM
    let (_, d) ← s.checkMul false arr c
    match c.tm with
    | some t => checkMeta s.mem (tileAddr o.cid t 0) (layOf c.twM) d.n (logicalK arr.planTw / 8)
    | none => .ok ()
    return d
  | _ => .ok ⟨0, 0, false⟩

/-- FOLLOW_ON_ENTRY (06 R156, 12 R319, R329): the oldest held follow-on of an active team, which is not on its way to shadow storage (01
R25), enters the queue, checked against the planned state; one that fails executes nothing and completes with its fault. -/
def execFollowOnEntry (core : Nat) (s : State) : Out :=
  let k := s.coreAt core
  let moving (tid : Nat) : Bool := match (s.taskAt tid).state with
    | .stabling _ => true
    | _ => false
  let active (tid : Nat) : Bool := !moving tid && k.slots.any fun c => c.any fun c => (s.ctxAt c).tid == tid
  match k.held.findSome? fun id => (s.opAt id).bind fun o => if active o.tid then some o else none with
  | none => notNow "FOLLOW_ON_ENTRY"
  | some o =>
    if 16 ≤ k.arr.mq.length then notNow "FOLLOW_ON_ENTRY"
    else
      let s := s.setCore core { k with held := k.held.filter (· != o.id) }
      match o.kind with
      | .matrix c g =>
        match s.checkFollow o k.arr c with
        | .error (.fault f) => .next (s.failOp o f)
        | .error _ => .next (s.finishOp o)
        | .ok d =>
          let c := match c with
            | .mmul x => .mmul { x with m := d.m }
            | c => c
          .next ((s.modOp o.id fun o => { o with kind := .matrix c g }).enqueue core o.id c d)
      | _ => notNow "FOLLOW_ON_ENTRY"

end Sys2Proof.Machine
end

