-- ==== Sys2Proof/Machine/Engine.lean ====
section
/-! DEFINITION. What the engine words of file 13 share: control blocks, boxes of windows, the checks a command meets when it starts
(02 R60; 07 R178, R179; 13 R334; 23 R474, R476). -/
namespace Sys2Proof.Machine

/-! ## Control blocks (13 R334) -/

/-- A control block read at the commit: its bytes and the lines it touches (R334). The race check follows the form's own checks. -/
structure Block64 where
  bytes : List Byte
  touch : Touch
  addr : Nat
  deriving DecidableEq, Repr

/-- The control block at [Xa]: FM-08, LS-03. -/
def State.controlBlock (s : State) (a : Nat) : Except Stop Block64 := do
  let x ← s.rx a
  let reg := s.slotRegion false
  let o ← reg.check x.toInt 64 64
  return ⟨memRead s.mem (reg.base + o) 64, reg.touch o 64, reg.base + o⟩

/-- The load that a control block stands for, a core access like any other: RC-01, AC-02, its place in the commit order (07 R171). -/
def State.loadBlock (s : State) (b : Block64) : Except Stop State := do
  s.raceCore [b.touch] []
  return (← s.readCheck b.addr 64).commitOrder

/-- Field of `n` bytes at byte `o` of a block. -/
def fieldAt (b : List Byte) (o n : Nat) : Nat := leNat ((b.drop o).take n)

/-- Reserved bytes `lo` to `hi` are 0. -/
def zeroBytes (b : List Byte) (lo hi : Nat) : Bool := ((b.drop lo).take (hi + 1 - lo)).all (· == 0)

/-- A window that a form uses: LS-01 unless it is well formed (R334). -/
def State.formWindow (s : State) (p n : Nat) : Except Stop WinDesc :=
  match s.window p n with
  | some d => .ok d
  | none => .error (flt .LS 1)

/-- A shape fault of a window: operand `op` in the order of the form's block supplies TYPEA (04 R109). -/
def winShape (field ext op : Nat) (d : WinDesc) : Stop := shFault field ext none none op 0 d.tw 0

/-- Rank and format of a window (SH-01, SH-02). -/
def shapeOf (d : WinDesc) (op rank : Nat) (fmts : Nat → Bool) : Except Stop Unit := do
  need (d.rank == rank) (winShape 0 0 op d)
  need (fmts d.fmt) (winShape 1 0 op d)

/-! ## Boxes -/

/-- A box of a window: elements `org` to `org + n − 1` of a rank-1 window, or those rows of a rank-2 window. -/
structure Box where
  d : WinDesc
  org : Nat
  n : Nat
  wr : Bool
  deriving DecidableEq, Repr

/-- The columns from `c` on, `k` of them. -/
def Box.coordsOf (b : Box) (c k : Nat) : List (List Nat) :=
  if b.d.rank = 1 then boxCoords [(b.org, b.n)] else boxCoords [(b.org, b.n), (c, k)]

/-- Its coordinates, whole rows. -/
def Box.coords (b : Box) : List (List Nat) := b.coordsOf 0 (b.d.ext.getD 1 0)

/-- The box lies within the window's extent 0 (13 R483). -/
def Box.fits (b : Box) : Bool := b.n == 0 || b.org + b.n ≤ b.d.ext.getD 0 0

/-- Window coordinates as places of a copy side. -/
def winPlaces (css : List (List Nat)) : List (CopyPlace × Nat) := css.map fun cs => (.win cs, 0)

/-- The marks of coordinates of a window that lie within its extents. -/
def State.coordMarks (s : State) (d : WinDesc) (wr : Bool) (css : List (List Nat)) : List Mark :=
  let inside := css.filter fun cs => (List.zipWith (fun c e => decide (c < e)) cs d.ext).all id
  (s.sideTouch 0 (.win d) none (winPlaces inside)).map (if wr then writeMark else readMark)

def State.boxMarks (s : State) (b : Box) : List Mark :=
  s.coordMarks b.d b.wr { b with n := min b.n (b.d.ext.getD 0 0 - b.org) }.coords

/-- The memory lines of coordinates of a window. -/
def State.coordLines (s : State) (d : WinDesc) (css : List (List Nat)) : List Nat := s.sideLines (.win d) none (winPlaces css)

/-- The bits of coordinates of a window. -/
def State.coordBits (s : State) (d : WinDesc) (css : List (List Nat)) : List (Nat × Nat) :=
  (winPlaces css).flatMap (s.placeBits false (.win d))

/-- The leases of a list of boxes, taken in order (02 R60). -/
def State.boxLeases (s : State) (tid : Nat) : List Box → Option Nat
  | [] => none
  | b :: bs =>
    match s.leaseCheck tid b.d (!b.wr) b.wr b.coords with
    | some k => some k
    | none => s.boxLeases tid bs

/-! ## A command that starts (07 R178, R179; 02 R60) -/

/-- RC-04 of marks against those of some operations: a window block in common, one of the two writing, not both atomic. -/
def raceWith (ms : List Mark) (ops : List Op) : Option FaultRec :=
  let others := ops.flatMap fun x => x.marks.map fun m => (m, x.tag.getD 0, x.core)
  (ms.findSome? fun m =>
    match m.space with
    | .frame .. =>
      meet (fun x => (x.write || m.write) && !(x.atomic && m.atomic)) ⟨m.space, m.lo, m.hi, m.win⟩ others
    | _ => none).map (rcFault 4)

/-- RC-04: a window block of the operation meets a mark of another of its task that issued before it; the later one takes it. A DSEND
also takes the one that it met at its commit. -/
def State.windowRace (s : State) (o : Op) : Option FaultRec :=
  (match o.kind with
   | .dsend _ _ _ _ _ race => race
   | _ => none).orElse fun _ => raceWith o.marks (s.ops.filter fun x => x.tid == o.tid && x.id < o.id)

/-- The copies of the task in issue whose rows have landed in part at a halt (06 R158). -/
def State.halfLanded (s : State) : List Op :=
  s.ops.filter fun o => o.tid == s.ctx.tid && (match o.kind with
    | .copy c => 0 < c.rows
    | _ => false)

/-- A lease fault found when a command starts ends its task at once, the record naming the command (00 R9, 02 R60). -/
def State.leaseEnd (s : State) (o : Op) (n : Nat) : State :=
  (s.finishOp o).endTask o.tid { cls := .LS, num := n, join := true, fcmd := fcmdOf o }

/-- How a command fails as it starts: a lease fault, or a fault for its join. -/
inductive StartFail where
  | lease (n : Nat)
  | join (f : FaultRec)
  deriving DecidableEq, Repr

def State.startFailed (s : State) (o : Op) : StartFail → State
  | .lease n => s.leaseEnd o n
  | .join f => s.failOp o f

/-- A check made as a command starts. -/
def needJoin (ok : Bool) (f : FaultRec) : Except StartFail Unit := if ok then .ok () else .error (.join f)

def State.leaseStart (s : State) (tid : Nat) (bs : List Box) : Except StartFail Unit :=
  match s.boxLeases tid bs with
  | some k => .error (.lease k)
  | none => .ok ()

/-- An effect at its completion: the input lines verified, the effect, their poison carried to the outputs with AC-03 (23 R474,
R476); the lines that its writes, the stretches of bits `bits`, cover whole are fresh. A fault found on the way leaves everything
unwritten; a block that could not be read is poisoned (03 R93; log entry 142). -/
def State.withPoison (s : State) (ins outs : List Nat) (bits : List (Nat × Nat)) (f : State → Except FaultRec State) :
    State × Option FaultRec :=
  let (s, bad) := (s.l2Touch false false ins).verify ins
  match f (s.overwrite bits) with
  | .error e =>
    let (s, e) := s.spoil e
    (s, some e)
  | .ok r =>
    let r := r.l2Touch false true outs
    if bad then (r.poisonLines outs, some { cls := .AC, num := 3 }) else (r, none)

/-- Elements of a rank-1 window from `org`. -/
def State.getVec (s : State) (d : WinDesc) (org n : Nat) : Except FaultRec (List Nat) :=
  (List.range n).mapM fun i => s.winRead d [org + i]

/-- `k` elements of a row of a rank-2 window. -/
def State.getRow (s : State) (d : WinDesc) (row k : Nat) : Except FaultRec (List Nat) :=
  (List.range k).mapM fun c => s.winRead d [row, c]

/-- Elements written one after another from `org` of a rank-1 window. -/
def State.putVec (s : State) (d : WinDesc) (org : Nat) : List Nat → Except FaultRec State
  | [] => .ok s
  | v :: vs => do
    let s ← s.winWrite d [org] v
    s.putVec d (org + 1) vs

/-- One row of a rank-2 window written from column `c`. -/
def State.putRow (s : State) (d : WinDesc) (row c : Nat) : List Nat → Except FaultRec State
  | [] => .ok s
  | v :: vs => do
    let s ← s.winWrite d [row, c] v
    s.putRow d row (c + 1) vs

/-- Rows written one after another. -/
def State.putRows (s : State) (d : WinDesc) (row : Nat) : List (List Nat) → Except FaultRec State
  | [] => .ok s
  | r :: rs => do
    let s ← s.putRow d row 0 r
    s.putRows d (row + 1) rs

end Sys2Proof.Machine
end

