-- ==== Sys2Proof/Machine/Digest.lean ====
section
/-! DEFINITION. What the verification of firmware images computes: SHAKE256 (FIPS 202) and ML-DSA-65 verification (FIPS 204), the
standards that 00 R2 names (21 R454; log entry 129). -/
namespace Sys2Proof.Machine

/-! ## Keccak, its constants derived as FIPS 202 derives them -/

/-- Lane (x, y) of a state of 25 lanes. -/
def lane (a : List Word) (x y : Nat) : Word := a.getD (x % 5 + 5 * (y % 5)) 0

/-- A state given lane by lane. -/
def lanes (f : Nat → Nat → Word) : List Word := (List.range 25).map fun i => f (i % 5) (i / 5)

/-- Where the walk over the lanes stands after `t` of its 24 steps from (1, 0). -/
def laneWalk (t : Nat) : Nat × Nat := (List.range t).foldl (fun p _ => (p.2, (2 * p.1 + 3 * p.2) % 5)) (1, 0)

/-- The rotations of the lanes, by x + 5y: step `t` of the walk turns its lane by the triangular number of t + 1. -/
def laneTurns : List Nat :=
  (List.range 24).foldl (fun l t => l.set ((laneWalk t).1 + 5 * (laneWalk t).2) ((t + 1) * (t + 2) / 2 % 64)) (List.replicate 25 0)

/-- The register of eight bits that yields the round constants, after `t` steps from 1. -/
def roundRegister (t : Nat) : Nat :=
  (List.range (t % 255)).foldl (fun r _ => if r < 128 then 2 * r else (2 * r - 256) ^^^ 0x71) 1

/-- The constant of round `r`: bit 2^j − 1 is the register's lowest after j + 7r steps. -/
def roundConstant (r : Nat) : Word :=
  word (((List.range 7).map fun j => if (roundRegister (j + 7 * r)).testBit 0 then 2 ^ (2 ^ j - 1) else 0).sum)

/-- One round with its constant. -/
def keccakRound (turns : List Nat) (a : List Word) (rc : Word) : List Word :=
  let sums := (List.range 5).map fun x => ((List.range 5).map (lane a x)).foldl BitVec.xor 0
  let mixed := lanes fun x y => (lane a x y).xor ((lane sums (x + 4) 0).xor ((lane sums (x + 1) 0).rotateLeft 1))
  let moved := lanes fun x y => let k := (x + 3 * y) % 5
    (lane mixed k x).rotateLeft (turns.getD (k + 5 * x) 0)
  (lanes fun x y => (lane moved x y).xor ((lane moved (x + 1) y).not.and (lane moved (x + 2) y))).mapIdx fun i w =>
    if i = 0 then w.xor rc else w

/-- The constants of the 24 rounds. -/
def roundConstants : List Word := (List.range 24).map roundConstant

def keccak (a : List Word) : List Word := roundConstants.foldl (keccakRound laneTurns) a

/-- Message blocks of `rate` bytes absorbed; `fuel` bounds them. -/
def absorb (rate : Nat) : Nat → List Word → List Byte → List Word
  | 0, a, _ => a
  | fuel + 1, a, m =>
    if m.isEmpty then a
    else absorb rate fuel (keccak (a.mapIdx fun i w => w ^^^ if 8 * i < rate then word (fieldAt m (8 * i) 8) else 0)) (m.drop rate)

/-- Output blocks. -/
def squeeze (rate : Nat) : Nat → List Word → List Byte
  | 0, _ => []
  | n + 1, a => (a.flatMap fun w => natLe 8 w.toNat).take rate ++ squeeze rate n (keccak a)

/-- `n` bytes of the extendable output of a message: rate 136 is SHAKE256, rate 168 SHAKE128. -/
def shake (rate : Nat) (m : List Byte) (n : Nat) : List Byte :=
  let pad := rate - m.length % rate
  let m := m ++ if pad = 1 then [0x9F] else 0x1F :: List.replicate (pad - 2) 0 ++ [0x80]
  (squeeze rate (n / rate + 1) (absorb rate (m.length / rate) (List.replicate 25 0) m)).take n

def shake256 (m : List Byte) (n : Nat) : List Byte := shake 136 m n

/-! ## Polynomials modulo 8,380,417 -/

def mlQ : Nat := 8380417

/-- The powers of the root 1,753 of unity of order 512. -/
def rootPowers : List Nat := (List.range 511).foldl (fun l _ => (l.headD 1 * 1753 % mlQ) :: l) [1] |>.reverse

/-- The eight bits of a number in reverse. -/
def reverse8 (k : Nat) : Nat := (List.range 8).foldl (fun a i => 2 * a + k / 2 ^ i % 2) 0

def addQ (a b : List Nat) : List Nat := List.zipWith (fun x y => (x + y) % mlQ) a b

def subQ (a b : List Nat) : List Nat := List.zipWith (fun x y => (x + mlQ - y) % mlQ) a b

def mulQ (a b : List Nat) : List Nat := List.zipWith (fun x y => x * y % mlQ) a b

def scaleQ (z : Nat) (a : List Nat) : List Nat := a.map fun x => z * x % mlQ

/-- The number-theoretic transform of 2 ^ `d` coefficients, node `k` of its tree. -/
def ntt (ps : List Nat) : Nat → Nat → List Nat → List Nat
  | 0, _, w => w
  | d + 1, k, w =>
    let t := scaleQ (ps.getD (reverse8 k) 0) (w.drop (2 ^ d))
    let lo := w.take (2 ^ d)
    ntt ps d (2 * k) (addQ lo t) ++ ntt ps d (2 * k + 1) (subQ lo t)

/-- Its inverse, but for the factor 1/256. -/
def inverseNtt (ps : List Nat) : Nat → Nat → List Nat → List Nat
  | 0, _, w => w
  | d + 1, k, w =>
    let lo := inverseNtt ps d (2 * k) (w.take (2 ^ d))
    let hi := inverseNtt ps d (2 * k + 1) (w.drop (2 ^ d))
    addQ lo hi ++ scaleQ (ps.getD (512 - reverse8 k) 0) (subQ lo hi)

/-- A polynomial of the public matrix, in transformed form: the first 256 candidates below the modulus. -/
def matrixPoly (rho : List Byte) (r s : Nat) : List Nat :=
  let b := shake 168 (rho ++ natLe 1 s ++ natLe 1 r) 1344
  ((List.range 448).filterMap fun k =>
    let v := fieldAt b (3 * k) 3 % 2 ^ 23
    if v < mlQ then some v else none).take 256

/-- The challenge: 49 coefficients 1 or −1 placed by a stream of bytes. -/
def challenge (seed : List Byte) : List Nat :=
  let b := shake256 seed 544
  let signs := fieldAt b 0 8
  ((b.drop 8).foldl (fun (r : List Nat × Nat) j =>
    let (c, i) := r
    if 256 ≤ i ∨ i < j.toNat then r
    else ((c.set i (c.getD j.toNat 0)).set j.toNat (if signs.testBit (i - 207) then mlQ - 1 else 1), i + 1))
    (List.replicate 256 0, 207)).1

/-! ## ML-DSA-65 -/

/-- The hints of six polynomials from 55 positions and six bounds; none where they are not in order. -/
def unpackHints (y : List Byte) : Option (List (List Nat)) :=
  let ends := (List.range 6).map fun i => (y.getD (55 + i) 0).toNat
  let starts := 0 :: ends
  let rising : List Nat → Bool := fun l => (List.zipWith (fun a b => decide (a < b)) l (l.drop 1)).all id
  let slices := (List.zip starts ends).map fun r => ((y.take 55).drop r.1 |>.take (r.2 - r.1)).map (·.toNat)
  if (List.zip starts ends).all (fun r => decide (r.1 ≤ r.2 ∧ r.2 ≤ 55)) && slices.all rising &&
      ((y.take 55).drop (ends.getLastD 0)).all (· == 0) then some slices
  else none

/-- The high part of a coefficient as its hint corrects it. -/
def useHint (hint : Bool) (r : Nat) : Nat :=
  let g := 523776
  let low : Int := if r % g ≤ g / 2 then (r % g : Nat) else (r % g : Nat) - (g : Int)
  let top : Bool := (r : Int) - low == (mlQ - 1 : Nat)
  let high : Nat := if top then 0 else ((r : Int) - low).toNat / g
  let low := if top then low - 1 else low
  if !hint then high else if 0 < low then (high + 1) % 16 else (high + 15) % 16

/-- An ML-DSA-65 signature in pure form with an empty context verifies. -/
def mlDsaVerify (key msg sig : List Byte) : Bool :=
  let ps := rootPowers
  let zs := (List.range 5).map fun i => let v := fieldAt sig (48 + 640 * i) 640
    (List.range 256).map fun k => bits v (20 * k) 20
  let small : Bool := zs.all fun z => z.all fun v => 196 < v && v < 2 ^ 20 - 196
  let zt := zs.map fun z => ntt ps 8 1 (z.map fun v => (mlQ + 2 ^ 19 - v) % mlQ)
  let ct := ntt ps 8 1 (challenge (sig.take 48))
  let mu := shake256 (shake256 key 64 ++ 0 :: 0 :: msg) 64
  match unpackHints (sig.drop 3248) with
  | none => false
  | some hs =>
    let rows := hs.mapIdx fun r h =>
      let t := fieldAt key (32 + 320 * r) 320
      let t1 := ntt ps 8 1 ((List.range 256).map fun k => bits t (10 * k) 10 * 8192 % mlQ)
      let az := (zt.mapIdx fun s z => mulQ (matrixPoly (key.take 32) r s) z).foldl addQ (List.replicate 256 0)
      let w := scaleQ 8347681 (inverseNtt ps 8 1 (subQ az (mulQ ct t1)))
      natLe 128 ((w.mapIdx fun k v => useHint (h.contains k) v * 16 ^ k).foldl (· + ·) 0)
    small && shake256 (mu ++ rows.flatten) 48 == sig.take 48

end Sys2Proof.Machine
end

