-- ==== Sys2Proof/Machine/Yoke.lean ====
section
/-! DEFINITION. The yoke unit of a span: YMATCH, YMERGE, YUNMERGE, YRETIRE, YSTAT, and its two steps (06 R163 to R166; 13 R335 to
R338, R483). -/
namespace Sys2Proof.Machine

/-! ## The yoke block and its windows (13 R335) -/

def yokeN (b : List Byte) : Nat := fieldAt b 12 2
def yokeKorg (b : List Byte) : Nat := fieldAt b 16 4
def yokeForg (b : List Byte) : Nat := fieldAt b 20 4
def yokeOorg (b : List Byte) : Nat := fieldAt b 24 4
def yokeMap (b : List Byte) : Nat := fieldAt b 28 4
def yokeComposed (b : List Byte) : Nat := fieldAt b 32 4
def yokeParent (b : List Byte) : Nat := fieldAt b 36 4
def yokeSizes (b : List Byte) : Nat := fieldAt b 40 4
def yokePvalid (b : List Byte) : Bool := fieldAt b 8 2 / 32768 == 1

/-- Window `i` of the block, in its order: key, feature, result, map, parent, sizes. -/
def yokeWin (b : List Byte) (i : Nat) : Nat := fieldAt b (2 * i) 2 % 4096

/-- The windows a command uses, by their place in the block. -/
def yokeUses (k : YokeKind) (b : List Byte) : List Nat :=
  match k with
  | .match_ _ => [0, 3] ++ (if yokePvalid b then [4] else []) ++ [5]
  | .merge | .unmerge => [1, 2, 3]
  | .retire => [3]

/-- Rank and formats that R335 gives window `i`. -/
def yokeShape : Nat → Nat × (Nat → Bool)
  | 0 => (2, (· == 0x0B))
  | 3 => (1, (· == 0x03))
  | 4 => (1, (· == 0x03))
  | 5 => (1, (· == 0x07))
  | _ => (2, fun f => f == 0x09 || f == 0x0B)

/-- Window `i` of a command under way; it was well formed at issue. -/
def State.yokeWindow (s : State) (p : Nat) (b : List Byte) (i : Nat) : Option WinDesc := s.window p (yokeWin b i)

/-- Bytes of a record with `n` entries (06 R166). -/
def recordBytes (n : Nat) : Nat := 64 + 2 * n

/-- A box of window `i` of the block. -/
def State.yokeBox (s : State) (p : Nat) (b : List Byte) (i org n : Nat) (wr : Bool) : List Box :=
  match s.yokeWindow p b i with
  | some d => [⟨d, org, n, wr⟩]
  | none => []

/-- The boxes fixed at issue (R483 step 1). -/
def State.yokeFixed (s : State) (p : Nat) (c : YokeCmd) : List Box :=
  let b := c.blk
  let n := yokeN b
  match c.kind with
  | .match_ r =>
    s.yokeBox p b 0 (yokeKorg b) n false ++ s.yokeBox p b 3 (yokeMap b) (recordBytes n) true ++
      s.yokeBox p b 5 (yokeSizes b) (n - r) true ++
      (if yokePvalid b then s.yokeBox p b 4 (yokeParent b) 64 false ++
        s.yokeBox p b 3 (yokeComposed b) (recordBytes n) true else [])
  | .merge => s.yokeBox p b 3 (yokeMap b) (recordBytes n) false ++ s.yokeBox p b 1 (yokeForg b) n false
  | .unmerge => s.yokeBox p b 3 (yokeMap b) (recordBytes n) false ++ s.yokeBox p b 2 (yokeOorg b) n true
  | .retire => s.yokeBox p b 3 (yokeMap b) 64 true

/-- The boxes that a record fixes (R483 steps 3 and 4): `k` is the parent's NORIG, or the map's NMERGED. -/
def State.yokeLate (s : State) (p : Nat) (c : YokeCmd) (k : Nat) : List Box :=
  let b := c.blk
  match c.kind with
  | .match_ _ =>
    if yokePvalid b then s.yokeBox p b 4 (yokeParent b) (recordBytes k) false ++
      s.yokeBox p b 3 (yokeComposed b) (recordBytes k) true else []
  | .merge => s.yokeBox p b 2 (yokeOorg b) k true
  | .unmerge => s.yokeBox p b 1 (yokeForg b) k false
  | .retire => []

/-- The greatest count a record can fix, for the marks: every place the command may touch (07 R177). -/
def yokeMost (c : YokeCmd) : Nat :=
  match c.kind with
  | .match_ _ | .unmerge => 65535
  | _ => yokeN c.blk

/-! ## The checks at issue (13 R335 to R337, R483) -/

/-- Rank and format of each window used, LS-01 before the checks on it. -/
def State.yokeWindows (s : State) (k : YokeKind) (b : List Byte) : Except Stop Unit :=
  (yokeUses k b).forM fun i => do
    let d ← s.formWindow s.task.p (yokeWin b i)
    let (rank, fmts) := yokeShape i
    shapeOf d (i + 1) rank fmts

/-- A box within its window, else SH-05 with EXTIDX 0. -/
def boxFits (op : Nat) (bs : List Box) : Except Stop Unit :=
  bs.forM fun b => need b.fits (winShape 4 0 op b.d)

/-- The sizes in row 0 of Vs: FM-11, RN-02, FM-21 (R336). -/
def sizesOf (v : VReg) (n : Nat) : Except Stop (List Nat) := do
  need (v.tag == .uint32) (flt .FM 11)
  need (chain (v.row 0) == n) (rnFault 2 0 1 0 (chain (v.row 0)) n 0)
  let zs := (expandRow (v.row 0)).map (·.toNat)
  need (zs.all fun z => 1 ≤ z && z ≤ 4096) (flt .FM 21)
  return zs

/-- The checks of a yoke command at issue; the sizes it latches. -/
def State.yokeChecks (s : State) (k : YokeKind) (vs : VReg) (b : List Byte) : Except Stop (List Nat) := do
  let p := s.task.p
  need (zeroBytes b 14 15 && zeroBytes b 44 63 &&
    (yokeUses k b).all fun i => fieldAt b (2 * i) 2 / 4096 % 8 == 0 && (i == 4 || fieldAt b (2 * i) 2 < 32768)) (flt .FM 21)
  let pv := match k with
    | .match_ _ => yokePvalid b
    | _ => false
  need (yokeMap b % 64 == 0 && (!pv || (yokeComposed b % 64 == 0 && yokeParent b % 64 == 0))) (flt .FM 8)
  s.yokeWindows k b
  let n := yokeN b
  let dim (op : Nat) (i ext : Nat) (ok : WinDesc → Bool) : Except Stop Unit :=
    (s.yokeBox p b i 0 0 false).forM fun x => need (ok x.d) (winShape 4 ext op x.d)
  match k with
  | .match_ r =>
    dim 1 0 0 fun _ => 2 ≤ n && n ≤ 4096
    dim 1 0 1 fun d => 1 ≤ d.ext.getD 1 0 && d.ext.getD 1 0 ≤ 1024
    boxFits 1 (s.yokeBox p b 0 (yokeKorg b) n false)
    need (r ≤ (n + 1) / 2) (flt .FM 21)
    let zs ← sizesOf vs n
    boxFits 4 (s.yokeBox p b 3 (yokeMap b) (recordBytes n) true)
    if pv then boxFits 4 (s.yokeBox p b 3 (yokeComposed b) (recordBytes n) true)
    boxFits 6 (s.yokeBox p b 5 (yokeSizes b) (n - r) true)
    return zs
  | .retire =>
    boxFits 4 (s.yokeBox p b 3 (yokeMap b) 64 true)
    return []
  | _ =>
    (s.yokeBox p b 1 0 0 false).forM fun f => dim 3 2 1 fun d => d.ext.getD 1 0 == f.d.ext.getD 1 0
    dim 2 1 0 fun _ => 2 ≤ n && n ≤ 4096
    let zs ← if k = .merge then sizesOf vs n else pure []
    boxFits 4 (s.yokeBox p b 3 (yokeMap b) (recordBytes n) false)
    if k = .merge then boxFits 2 (s.yokeBox p b 1 (yokeForg b) n false)
    else boxFits 3 (s.yokeBox p b 2 (yokeOorg b) n true)
    return zs

/-- The commands in a span's yoke queue, the running one first (06 R163). -/
def State.yokeQueue (s : State) (span : Nat) : List Nat := (amGet s.yokes span).getD []

/-- A yoke command of context `cid` is queued or running. -/
def State.yokeBusy (s : State) (cid : Nat) : Bool :=
  s.ops.any fun o => o.cid == cid && (match o.kind with
    | .yoke _ => true
    | _ => false)

/-- The issue of a yoke command. -/
def yokeBody (k : State → Except Stop YokeKind) (v a tag : Nat) (s : State) : Except Stop State := do
  let kind ← k s
  let blk ← s.controlBlock a
  let zs ← s.yokeChecks kind (s.ctx.vAt v) blk.bytes
  let s ← s.loadBlock blk
  let s ← s.raiseTag tag 1
  let span := spanOf s.ctx.core
  need (!s.yokeBusy s.me) (.block (.yokeOwn s.me))
  need ((s.yokeQueue span).length < 64) (.block (.yokeQueue span))
  let cmd : YokeCmd := ⟨kind, blk.bytes, zs⟩
  let p := s.task.p
  let marks := (s.yokeFixed p cmd ++ s.yokeLate p cmd (yokeMost cmd)).flatMap s.boxMarks
  let op := s.nextOp
  let s := s.addOp (some tag) (.yoke cmd) marks
  return { s with yokes := amSet s.yokes span (s.yokeQueue span ++ [op]) }

/-- YMATCH (R336). -/
def execYmatch (g v a b tag : Nat) (s : State) : Out :=
  runWord .eMain 2 g (yokeBody (fun s => do
    let r ← s.rx b
    return .match_ r.toNat) v a tag) s

/-- YMERGE (R337). -/
def execYmerge (g v a tag : Nat) (s : State) : Out := runWord .eMain 2 g (yokeBody (fun _ => .ok .merge) v a tag) s

/-- YUNMERGE (R337). -/
def execYunmerge (g a tag : Nat) (s : State) : Out := runWord .eMain 2 g (yokeBody (fun _ => .ok .unmerge) 0 a tag) s

/-- YRETIRE (R337). -/
def execYretire (g a tag : Nat) (s : State) : Out := runWord .eMain 2 g (yokeBody (fun _ => .ok .retire) 0 a tag) s

/-- YSTAT (R338). -/
def execYstat (g d : Nat) (s : State) : Out :=
  runWord .eMain 1 g (fun s =>
    .ok (s.wx 1 d (word ((s.yokeQueue (spanOf s.ctx.core)).length + 128 * (s.yokeBusy s.me).toNat)))) s

/-! ## Map records (06 R166) -/

/-- A map record. -/
structure MapRec where
  version : Nat
  norig : Nat
  nmerged : Nat
  parent : Nat
  flags : Nat
  entries : List Nat
  deriving DecidableEq, Repr

/-- The bytes of a record. -/
def MapRec.bytes (r : MapRec) : List Nat :=
  (natLe 4 r.version ++ natLe 2 r.norig ++ natLe 2 r.nmerged ++ natLe 4 r.parent ++ natLe 1 r.flags ++
    List.replicate 51 0 ++ r.entries.flatMap (natLe 2)).map BitVec.toNat

/-- A record read at `org`, with as many of `n` entries as the window holds. -/
def State.readRecord (s : State) (d : WinDesc) (org n : Nat) : Except FaultRec MapRec := do
  let e := d.ext.getD 0 0
  let h ← s.getVec d org 13
  let b := h.map (BitVec.ofNat 8)
  let k := min n ((e - (org + 64)) / 2)
  let es ← s.getVec d (org + 64) (2 * k)
  let eb := es.map (BitVec.ofNat 8)
  return ⟨fieldAt b 0 4, fieldAt b 4 2, fieldAt b 6 2, fieldAt b 8 4, fieldAt b 12 1,
    (List.range k).map fun i => fieldAt eb (2 * i) 2⟩

/-- The record a command depends on, if any, and the count it fixes. -/
def State.yokeRecord (s : State) (p : Nat) (c : YokeCmd) : Except FaultRec (Option MapRec) :=
  let b := c.blk
  let read (i org : Nat) (n : MapRec → Nat) : Except FaultRec (Option MapRec) :=
    match s.yokeWindow p b i with
    | none => .error noFrame
    | some d => do
      let h ← s.readRecord d org 0
      let r ← s.readRecord d org (n h)
      return some r
  match c.kind with
  | .match_ _ => if yokePvalid b then read 4 (yokeParent b) (·.norig) else .ok none
  | .merge | .unmerge => read 3 (yokeMap b) fun _ => yokeN b
  | .retire => .ok none

/-- The FM-12 conditions (R166, R336, R337); of the counts of a YMERGE, NMERGED is N less what was merged. -/
def yokeRecordOk (c : YokeCmd) (r : MapRec) : Bool :=
  let n := yokeN c.blk
  !r.flags.testBit 0 && (match c.kind with
    | .match_ _ => r.nmerged == n && r.entries.all (· < n)
    | .merge => r.norig == n && r.nmerged ≤ n && r.entries.all (· < r.nmerged)
    | _ => r.norig == n && r.entries.all (· < r.nmerged))

/-- The count that a record fixes for the late boxes. -/
def lateCount (c : YokeCmd) (r : MapRec) : Nat :=
  match c.kind with
  | .match_ _ => r.norig
  | _ => r.nmerged

/-- The operand number of a box that a record fixes: its window's place in the block (R335; 04 R109). -/
def lateOperand (c : YokeCmd) (x : Box) : Nat :=
  match c.kind with
  | .match_ _ => if x.wr then 4 else 5
  | .merge => 3
  | .unmerge => 2
  | .retire => 4

/-- The checks of a command as it starts, in the order of R483. -/
def State.yokeStart (s : State) (p tid : Nat) (c : YokeCmd) : Except StartFail Unit := do
  s.leaseStart tid (s.yokeFixed p c)
  match s.yokeRecord p c with
  | .error f => .error (.join f)
  | .ok none => .ok ()
  | .ok (some r) =>
    needJoin (yokeRecordOk c r) { cls := .FM, num := 12 }
    let late := s.yokeLate p c (lateCount c r)
    match late.find? fun b => !b.fits with
    | some b => .error (.join { cls := .SH, num := 5, fdet := shDetail 4 0 none none (lateOperand c b) 0, ftypeA := b.d.tw })
    | none => s.leaseStart tid late

/-! ## Matching (06 R164) -/

/-- dot: a chain of FP32 fused multiply-adds. -/
def dot32 : Num → List Num → List Num → Num
  | acc, x :: xs, y :: ys => dot32 (rne32 (exactSum [x.mul y, acc])) xs ys
  | acc, _, _ => acc

/-- sim of two vectors, given their squared norms. -/
def simOf (a b : List Num) (na nb : Num) : Num :=
  if na.isZero || nb.isZero then .zero
  else
    let v := rne32 ((dot32 .zero a b).div (rne32 (rne32 (na.mul nb)).sqrt))
    if v.isNan then .inf true else v

/-- The partner with the greatest similarity, the lowest on ties. -/
def bestOf : List (Nat × Num) → Option (Nat × Num)
  | [] => none
  | x :: xs =>
    match bestOf xs with
    | none => some x
    | some y => if x.2.lt false y.2 then some y else some x

/-- Insertion by falling edge, earlier tokens first among equals. -/
def insertEdge (x : Nat × Num) : List (Nat × Num) → List (Nat × Num)
  | [] => [x]
  | y :: ys => if y.2.lt false x.2 then x :: y :: ys else y :: insertEdge x ys

/-- The map and the new sizes of `vs` with merge count `r`. -/
def yokeMatch (vs : List (List Num)) (sizes : List Nat) (r : Nat) : List Nat × List Nat :=
  let n := vs.length
  let all := vs.map fun v => (v, dot32 .zero v v)
  let at_ (i : Nat) : List Num × Num := all.getD i ([], .zero)
  let as := (List.range n).filter (· % 2 == 0)
  let bs := (List.range n).filter (· % 2 == 1)
  let best := as.map fun a => (a, (bestOf (bs.map fun b => (b, simOf (at_ a).1 (at_ b).1 (at_ a).2 (at_ b).2))).getD (0, .zero))
  let chosen := ((best.foldl (fun l e => insertEdge (e.1, e.2.2) l) []).take r).map (·.1)
  let survivors := (List.range n).filter fun i => !chosen.contains i
  let partner (a : Nat) : Nat := ((best.find? fun e => e.1 == a).map (·.2.1)).getD 0
  let m := (List.range n).map fun i => survivors.idxOf (if chosen.contains i then partner i else i)
  (m, (List.range survivors.length).map fun k =>
    (List.zipWith (fun x z => if x = k then z else 0) m sizes).sum)

/-- What YMATCH writes. -/
def State.yokeMatchWrite (s : State) (p : Nat) (c : YokeCmd) (r : Nat) : Except FaultRec State := do
  let b := c.blk
  let n := yokeN b
  match s.yokeWindow p b 0, s.yokeWindow p b 3, s.yokeWindow p b 5 with
  | some key, some mw, some sw => do
    let vs ← (List.range n).mapM fun i => do
      let row ← s.getRow key (yokeKorg b + i) (key.ext.getD 1 0)
      return row.map (decodeFmt key.fmt)
    let parent ← s.yokeRecord p c
    let (step, sizes) := yokeMatch vs c.sizes r
    let ver := match parent with
      | some q => (q.version + 1) % 2 ^ 32
      | none => 1
    let par := match parent with
      | some q => q.version
      | none => 0
    let s ← s.putVec mw (yokeMap b) (MapRec.bytes ⟨ver, n, n - r, par, 0, step⟩)
    let s ← s.putVec sw (yokeSizes b) sizes
    match parent with
    | none => return s
    | some q =>
      s.putVec mw (yokeComposed b) (MapRec.bytes ⟨ver, q.norig, n - r, par, 2, q.entries.map fun e => step.getD e 0⟩)
  | _, _, _ => .error noFrame

/-! ## Merging (06 R165) -/

/-- Row `m` of a merge: the weighted sum rounded to FP32, divided, rounded, converted. -/
def mergeRow (fmt : Nat) (rows : List (Nat × List Num)) (w : Nat) : List Nat :=
  let size := (rows.map (·.1)).sum
  (List.range w).map fun h =>
    let num := rne32 (exactSum (rows.map fun r => (Num.ofNat r.1).mul (r.2.getD h .zero)))
    encodeFmt fmt 0 false 0 (rne32 (num.div (.ofNat size)))

/-- What YMERGE and YUNMERGE write. -/
def State.yokeRows (s : State) (p : Nat) (c : YokeCmd) (merge : Bool) : Except FaultRec State := do
  let b := c.blk
  let n := yokeN b
  match s.yokeWindow p b 1, s.yokeWindow p b 2 with
  | some f, some o => do
    let r ← s.yokeRecord p c
    match r with
    | none => return s
    | some r => do
      let w := f.ext.getD 1 0
      let src ← (List.range (if merge then n else r.nmerged)).mapM fun i => s.getRow f (yokeForg b + i) w
      let out := if merge then
          let xs := List.zip c.sizes (src.map fun row => row.map (decodeFmt f.fmt))
          (List.range r.nmerged).map fun m =>
            mergeRow o.fmt (((List.zip r.entries xs).filter fun e => e.1 == m).map (·.2)) w
        else r.entries.map fun m =>
          let row := src.getD m []
          if f.fmt = o.fmt then row else row.map fun x => encodeFmt o.fmt 0 false 0 (decodeFmt f.fmt x)
      s.putRows o (yokeOorg b) out
  | _, _ => .error noFrame

/-- YRETIRE sets the RETIRED flag. -/
def State.yokeRetire (s : State) (p : Nat) (c : YokeCmd) : Except FaultRec State := do
  match s.yokeWindow p c.blk 3 with
  | none => .error noFrame
  | some d => do
    let v ← s.winRead d [yokeMap c.blk + 12]
    s.winWrite d [yokeMap c.blk + 12] (if v % 2 = 1 then v else v + 1)

/-- The effect of a yoke command. -/
def State.yokeEffect (s : State) (p : Nat) (c : YokeCmd) : Except FaultRec State :=
  match c.kind with
  | .match_ r => s.yokeMatchWrite p c r
  | .merge => s.yokeRows p c true
  | .unmerge => s.yokeRows p c false
  | .retire => s.yokeRetire p c

/-! ## The unit's steps (06 R163; 13 R483) -/

/-- The first command of the span's queue leaves it. -/
def State.dropYoke (s : State) (span : Nat) : State := { s with yokes := amSet s.yokes span ((s.yokeQueue span).drop 1) }

/-- The command at the head of the span's queue. -/
def State.headYoke (s : State) (span : Nat) : Option (Op × YokeCmd) :=
  match (s.yokeQueue span).head?.bind s.opAt with
  | some o => (match o.kind with
    | .yoke c => some (o, c)
    | _ => none)
  | none => none

/-- YOKE_COMMAND_START (R483): RC-04, then the order of R483; a command that fails leaves the unit. -/
def execYokeCommandStart (span : Nat) (s : State) : Out :=
  match s.headYoke span with
  | none => notNow "YOKE_COMMAND_START"
  | some (o, c) =>
    if o.started || (s.taskAt o.tid).state == .ending then notNow "YOKE_COMMAND_START"
    else
      let s := s.actAs (606 + span) o.tid
      match s.windowRace o with
      | some f => .next ((s.dropYoke span).failOp o f)
      | none =>
        match s.yokeStart (s.taskAt o.tid).p o.tid c with
        | .error e => .next ((s.dropYoke span).startFailed o e)
        | .ok _ => .next (s.modOp o.id fun o => { o with started := true })

/-- The boxes that a command reads, or writes. -/
def State.yokeBoxes (s : State) (p : Nat) (c : YokeCmd) (wr : Bool) : List Box :=
  let late := match s.yokeRecord p c with
    | .ok (some r) => s.yokeLate p c (lateCount c r)
    | _ => []
  (s.yokeFixed p c ++ late).filter (·.wr == wr)

/-- The lines those boxes cover. -/
def State.yokeLines (s : State) (p : Nat) (c : YokeCmd) (wr : Bool) : List Nat :=
  (s.yokeBoxes p c wr).flatMap fun b => s.coordLines b.d b.coords

/-- YOKE_COMMAND_COMPLETION (R164 to R166): the running command's effect, at one instant (07 R176). -/
def execYokeCommandCompletion (span : Nat) (s : State) : Out :=
  match s.headYoke span with
  | none => notNow "YOKE_COMMAND_COMPLETION"
  | some (o, c) =>
    if o.started && s.letsWrite o then
      let p := (s.taskAt o.tid).p
      let s := s.actAs (606 + span) o.tid
      let bits := if c.kind = .retire then [] else (s.yokeBoxes p c true).flatMap fun b => s.coordBits b.d b.coords
      let part := (s.yokeBoxes p c true).flatMap fun b => s.coordLines b.d (partCoords b.d b.coords)
      let (s, f) := s.withPoison (s.yokeLines p c false ++ part) (s.yokeLines p c true) bits fun s => s.yokeEffect p c
      .next ((s.dropYoke span).endOp o f)
    else notNow "YOKE_COMMAND_COMPLETION"

end Sys2Proof.Machine
end

