-- ==== Sys2Proof/Machine/Launch.lean ====
section
/-! DEFINITION. Task descriptors, the arrival of tasks, completion entries, launches and graph instances as tasks come to them and
end (01 R20, R482; 19 R408 to R413; 20 R425 to R435). -/
namespace Sys2Proof.Machine

/-! ## Task descriptors (19 R410 to R412) -/

/-- A lease entry as written: `rest` holds its reserved bits. -/
structure RawLease where
  win : Nat
  mode : Nat
  deleg : Bool
  rest : Nat
  box : List (Nat × Nat)
  deriving DecidableEq, Repr

/-- A descriptor's fields; `dvals` and `leases` are none where LEN is too small for them, `tail` says that the bytes after the last
entry are 0. -/
structure Descr where
  entry : Nat
  team : Nat
  prio : Nat
  narg : Nat
  nlease : Nat
  dmask : Nat
  dform : Nat
  tiles : Nat
  slice : Nat
  sflags : Nat
  len : Nat
  scratch : Nat
  cluster : Nat
  save : Nat
  args : List Nat
  dvals : List Nat
  pad : Bool
  leases : Option (List RawLease)
  tail : Bool
  resv : Bool
  deriving DecidableEq, Repr

/-- `n` lease entries from the front of the bytes, and what is left. -/
def parseLeases : Nat → List Byte → Option (List RawLease × List Byte)
  | 0, b => some ([], b)
  | n + 1, b =>
    if b.length < 8 then none
    else
      let h := fieldAt b 0 8
      let rb := bits h 15 4
      if b.length < 8 + 8 * rb then none
      else
        let l : RawLease := ⟨bits h 0 12, bits h 12 2, bits h 14 1 == 1, h / 2 ^ 19,
          (List.range rb).map fun k => (fieldAt b (8 + 8 * k) 4, fieldAt b (12 + 8 * k) 4)⟩
        match parseLeases n (b.drop (8 + 8 * rb)) with
        | some (ls, r) => some (l :: ls, r)
        | none => none

/-- The variables a mask names, ascending. -/
def maskBits (m : Nat) : List Nat := (List.range 16).filter m.testBit

/-- The descriptor in `b` (R410, R411). -/
def parseDescr (b : List Byte) : Descr :=
  let f := fieldAt b
  let narg := f 6 1
  let dmask := f 8 2
  let nd := if dmask ≠ 0 ∧ f 10 1 = 1 then (maskBits dmask).length else 0
  let dAt := 32 + 8 * narg
  let dLen := (2 * nd + 7) / 8 * 8
  let ls := if b.length < dAt + dLen then none else parseLeases (f 7 1) (b.drop (dAt + dLen))
  { entry := f 0 4, team := f 4 1, prio := f 5 1, narg := narg, nlease := f 7 1, dmask := dmask, dform := f 10 1,
    tiles := f 11 1, slice := f 12 1, sflags := f 13 1, len := f 14 2, scratch := f 16 4, cluster := f 20 4, save := f 24 4,
    args := (List.range narg).map fun i => f (32 + 8 * i) 8
    dvals := (List.range nd).map fun i => f (dAt + 2 * i) 2
    pad := (List.range (dLen - 2 * nd)).all fun i => f (dAt + 2 * nd + i) 1 == 0
    leases := ls.map (·.1)
    tail := match ls with
      | some (_, r) => r.all (· == 0)
      | none => false
    resv := f 28 4 == 0 }

/-- None of the conditions that raise FM-22 (R413). -/
def Descr.ok (d : Descr) : Bool :=
  d.prio < 4 && d.sflags < 2 && d.resv && d.narg ≤ 12 && d.nlease ≤ 16 && d.slice ≤ 32 && (d.dmask == 0 || d.dform ≤ 1) &&
    1 ≤ d.team && d.team ≤ 32 && d.tiles ≤ 16 && 1 ≤ d.len && d.len ≤ 64 && d.pad && d.tail &&
    d.dvals.all (fun v => 1 ≤ v && v ≤ 511) && d.leases.any fun ls => ls.all fun l => l.mode != 0 && l.rest == 0

/-- A lease as declared, with a hi of all ones made the window's last coordinate (R412). -/
def State.leaseOf (s : State) (p : Nat) (l : RawLease) : Lease :=
  let ext := match s.window p l.win with
    | some d => d.ext
    | none => []
  ⟨l.win, l.box.mapIdx fun k b => (b.1, if b.2 = 0xFFFFFFFF then ext.getD k 0 - 1 else b.2), l.mode % 2 == 1, 2 ≤ l.mode, l.deleg, false⟩

/-- The task a descriptor describes; its number, leases' grant and place are yet to come. -/
def State.taskOf (s : State) (p : Nat) (d : Descr) (code : Code) (origin : Origin) : Task :=
  { Task.blank with
    p := p
    size := d.team
    prio := d.prio
    origin := origin
    entry := d.entry
    args := d.args.map word
    dims := List.zip (maskBits d.dmask) d.dvals
    tiles := d.tiles
    slice := 256 * d.slice
    scratchBudget := d.scratch
    clusterBudget := d.cluster
    save := d.save
    nodata := d.sflags == 1
    code := code
    leases := (d.leases.getD []).map (s.leaseOf p)
    state := .waitLeases }

/-! ## Arrival (01 R482) -/

/-- A number that no task of the paddock may take now. -/
def State.seqUsed (s : State) (p n : Nat) : Bool :=
  n % 2 ^ 24 == 0 || s.tasks.any fun e => e.2.p == p && e.2.xform.isNone && e.2.seq == n % 2 ^ 24

/-- The next number from `n`; `fuel` bounds how many are skipped. -/
def State.freshSeq (s : State) (p : Nat) : Nat → Nat → Nat
  | 0, n => n
  | fuel + 1, n => if s.seqUsed p n then s.freshSeq p fuel (n + 1) else n

/-- A task arrives: it takes its TASKSEQ, which is answered. -/
def State.arrive (s : State) (t : Task) : State × Nat :=
  let d := s.paddockAt t.p
  let n := s.freshSeq t.p (s.tasks.length + 2) d.nextSeq
  let s := s.setPaddock t.p { d with nextSeq := n + 1 }
  let tid := s.nextTid
  ({ s.setTask tid { t with tid := tid, seq := n % 2 ^ 24 } with nextTid := tid + 1 }, n % 2 ^ 24)

/-- A copy launch arrives; it takes no number. -/
def State.arriveCopy (s : State) (t : Task) : State :=
  let tid := s.nextTid
  { s.setTask tid { t with tid := tid } with nextTid := tid + 1 }

/-- A task that ends on a fault before it is placed (R413); it has no lease. -/
def Task.refused (t : Task) (c : FaultClass) (n : Nat) : Task := 
  { t with state := .ending, leases := [], fault := some { cls := c, num := n } }

/-! ## Completion entries (20 R423, R425, R430) -/

def State.qpAt (s : State) (p q : Nat) : QPair := (s.paddockAt p).qps.getD q .reset

def State.setQp (s : State) (p q : Nat) (r : QPair) : State :=
  let d := s.paddockAt p
  s.setPaddock p { d with qps := d.qps.set q r }

/-- The 64 bytes of an entry. -/
def Entry.bytes (e : Entry) (phase : Bool) (sqhead : Nat) : List Byte :=
  let f := e.flt.getD { cls := .EN, num := 0 }
  let w (x : Word) : Nat := if e.flt.isSome then x.toNat else 0
  natLe 2 e.cmdid ++ natLe 1 e.status ++ natLe 1 (phase.toNat + 2 * e.ring) ++ natLe 2 sqhead ++ natLe 2 e.reason ++
    natLe 4 e.seq ++ natLe 4 e.graph ++ natLe 2 e.version ++ natLe 6 0 ++ natLe 8 (w f.causeWord) ++ natLe 8 (w f.fdet) ++
    natLe 8 (w f.ftypeA) ++ natLe 8 (w f.ftypeB) ++ natLe 8 (w f.fcmd)

/-- The ring has no room for another entry: the device's tail would reach CQHEAD. -/
def QPair.full (r : QPair) : Bool := (r.cqtail + 1) % 2 ^ r.cqlog == r.cqhead

/-- An entry written into completion ring `c`, with the interrupt it brings (R423). -/
def State.writeEntry (s : State) (p c : Nat) (e : Entry) : State :=
  let r := s.qpAt p c
  let bs := e.bytes r.phase (s.qpAt p e.ring).sqhead
  let t := (r.cqtail + 1) % 2 ^ r.cqlog
  let n := r.unsignalled + 1
  let fire : Bool := r.ien && max 1 r.ccount ≤ n
  let s := { s with mem := memWrite s.mem (hostAddr (r.cqbase.toNat + 64 * r.cqtail)) bs }
  let s := s.setQp p c { r with
    cqtail := t
    phase := if t = 0 then !r.phase else r.phase
    unsignalled := if fire then 0 else n
    firstAt := if r.unsignalled = 0 then s.cycle else r.firstAt }
  if fire then s.interrupt (p + 1) r.vec else s

/-- An entry posted to the completion ring of its submission ring, or held in order where that ring is full (R425). A paddock's held
entries are at most 64; what comes after them waits in the same order (log entry 72). -/
def State.postEntry (s : State) (p : Nat) (e : Entry) : State :=
  let c := (s.qpAt p e.ring).sqcq
  let r := s.qpAt p c
  if !r.cqen then s
  else if r.full || !r.held.isEmpty then s.setQp p c { r with held := r.held ++ [e] }
  else s.writeEntry p c e

/-- Held entries released in order while there is room and CQEN lets entries be posted; `fuel` bounds them. -/
def State.releaseHeld (s : State) (p c : Nat) : Nat → State
  | 0 => s
  | fuel + 1 =>
    let r := s.qpAt p c
    match r.held with
    | [] => s
    | e :: es => if r.full || !r.cqen then s else ((s.setQp p c { r with held := es }).writeEntry p c e).releaseHeld p c fuel

/-- The entry of a launch. -/
def Launch.entry (l : Launch) (status seq : Nat) (f : Option FaultRec) : Entry :=
  ⟨l.cmdid, status, l.ring, 0, if l.kind ≤ 2 || f.isSome then seq else 0, l.handle, l.version, f⟩

/-- The final entry of a launch (R431). -/
def State.finishLaunch (s : State) (l : Nat) (status : Nat) : State :=
  match amGet s.launches l with
  | none => s
  | some r =>
    let e := match r.first with
      | some (f, seq) => r.entry 1 seq (some f)
      | none => r.entry status r.seq none
    { s.postEntry r.p e with launches := amDel s.launches l }

/-- The launch a task belongs to. -/
def State.launchOf (s : State) (o : Origin) : Nat :=
  match o with
  | .launch l => l
  | .node i _ => match amGet s.insts i with
    | some g => g.launch
    | none => 0

/-- A task of the launch has ended on `f`: the notice of R431, and the first fault kept. -/
def State.noticeFault (s : State) (o : Origin) (seq : Nat) (f : FaultRec) : State :=
  let l := s.launchOf o
  let s := match o with
    | .node i _ => match amGet s.insts i with
      | some g => { s with insts := amSet s.insts i { g with faulted := true } }
      | none => s
    | .launch _ => s
  match amGet s.launches l with
  | none => s
  | some r =>
    let s := s.postEntry r.p (r.entry 4 seq (some f))
    { s with launches := amSet s.launches l { r with first := r.first.orElse fun _ => some (f, seq) } }

/-! ## Starting what a record asks for (20 R426 to R428) -/

/-- The code image a record names. -/
def recordCode (r : List Byte) : Code := ⟨fieldAt r 4 2 % 4096, fieldAt r 8 8, fieldAt r 28 4, fieldAt r 48 4⟩

/-- PRIO of a record, where PRIOV lets it replace the descriptor's. -/
def recordPrio (r : List Byte) (prio : Nat) : Nat :=
  let f := fieldAt r 3 1
  if f / 4 % 2 = 1 then f % 4 else prio % 4

/-- The command of a copy control block (R428). -/
def blockCopy (b : List Byte) : CopyCmd :=
  ⟨(List.range 32).map fun k => word (fieldAt b (8 * k) 8), word (fieldAt b 256 8), word (fieldAt b 264 8), 0, 0, [], none, 0⟩

/-- The leases a copy launch derives: read over its source box, write over its destination box (R428). -/
def State.copyLaunchLeases (s : State) (p : Nat) (c : CopyCmd) : List Lease :=
  match s.copyPlan p 0 0 0 c with
  | none => []
  | some pl =>
    let of (side : Side) (sc : Option WinDesc) (ps : List (CopyPlace × Nat)) (rd : Bool) : List Lease :=
      match side, winBox ps with
      | .win d, some b => ⟨d.num, b, rd, !rd, false, false⟩ :: (match sc with
        | some w => [⟨w.num, List.zip (scaleCoords d (b.map (·.1))) (scaleCoords d (b.map (·.2))), rd, !rd, false, false⟩]
        | none => [])
      | _, _ => []
    of pl.src pl.sscale pl.sources true ++ of pl.dst pl.dscale pl.targets false

/-- The task of a kind 1 or 2 record, arrived; its number is answered. A descriptor that fails ends it with FM-22 or LS-05 (R413). -/
def State.startTask (s : State) (p : Nat) (origin : Origin) (r desc : List Byte) : State × Nat :=
  let d := parseDescr desc
  let t := s.taskOf p d (recordCode r) origin
  let t := { t with prio := recordPrio r d.prio, lookup := if fieldAt r 2 1 = 2 then some (fieldAt r 6 2) else none }
  let t := if !d.ok || d.sflags != 0 || (d.dmask != 0 && d.dform == 0) || (t.lookup.isSome && d.team != 1) then t.refused .FM 22
    else if t.leases.any (·.deleg) then t.refused .LS 5
    else t
  s.arrive t

/-- CP-04 for a copy launch (R428). -/
def copyLaunchOk (c : CopyCmd) : Bool :=
  let m := copyMode (c.ce.getD 0 0)
  (m.kind ≤ 2 || m.kind == 4 || m.kind == 5) && sideKind (c.ce.getD 1 0) == 2 && sideKind (c.ce.getD 2 0) == 2 && !m.follow

/-- The checks of a copy launch, as R328 makes them where no core takes part. -/
def State.copyLaunchCheck (s : State) (p : Nat) (c : CopyCmd) : Option FaultRec :=
  if !copyLaunchOk c then some { cls := .CP, num := 4 }
  else
    let win (k lo : Nat) : Option WinDesc := s.window p (bits (c.ce.getD k 0).toNat lo 12)
    match win 1 2, win 2 2 with
    | some a, some b =>
      let m := copyMode (c.ce.getD 0 0)
      let sc := (c.ce.getD 3 0)
      let r : Except Stop Unit := do
        need (!s.companionBad p (.win a) sc 0 && !s.companionBad p (.win b) sc 16) (flt .LS 1)
        copyFaults c.ce m (.win a) (.win b) a.fmt b.fmt (s.companion p (.win a) sc 0) (s.companion p (.win b) sc 16) false 0
        match s.copyPlan p 0 0 0 c with
        | none => .error (flt .LS 1)
        | some pl => need (m.kind == 0 || !pl.overlaps) (flt .CP 1)
      (match r with
       | .error (.fault f) => some f
       | _ => none)
    | _, _ => some { cls := .LS, num := 1 }

/-- The copy of a kind 3 record, waiting for its leases. -/
def State.startCopy (s : State) (p : Nat) (origin : Origin) (r block : List Byte) : State :=
  let c := blockCopy block
  let t : Task := { Task.blank with
    p := p
    size := 0
    prio := recordPrio r 0
    origin := origin
    xform := some c
    leases := s.copyLaunchLeases p c
    state := .waitLeases }
  s.arriveCopy (match s.copyLaunchCheck p c with
    | some f => { t with state := .ending, leases := [], fault := some f }
    | none => t)

/-- What a record of kind 1, 2 or 3 starts; the number of its task, 0 for a copy. -/
def State.startRecord (s : State) (p : Nat) (origin : Origin) (r desc : List Byte) : State × Nat :=
  if fieldAt r 2 1 = 3 then (s.startCopy p origin r desc, 0) else s.startTask p origin r desc

/-! ## Graph instances (20 R434, R435) -/

def State.graphVer (s : State) (p h v : Nat) : Option GraphVer := (amGet (s.paddockAt p).graphs h).bind fun m => amGet m v

/-- Node `n` is dispatched. -/
def State.dispatchNode (s : State) (i n : Nat) : State :=
  match amGet s.insts i with
  | none => s
  | some g =>
    match (s.graphVer g.p g.handle g.version).bind fun v => v.nodes[n]? with
    | none => s
    | some nd =>
      let s := { s with insts := amSet s.insts i { g with dispatched := n :: g.dispatched } }
      (s.startRecord g.p (.node i n) nd.record nd.desc).1

/-- The nodes that a counter of 0 lets go: none after a node has faulted. -/
def GraphInst.due (g : GraphInst) : List Nat :=
  if g.faulted then []
  else (List.range g.counters.length).filter fun n => g.counters.getD n 1 == 0 && !g.dispatched.contains n

/-- A retired version is freed with its last instance (R435); its number stays taken. -/
def State.freeVersion (s : State) (p h v : Nat) : State :=
  let busy := s.insts.any fun e => e.2.p == p && e.2.handle == h && e.2.version == v
  if (s.graphVer p h v).any (·.retired) && !busy then
    let d := s.paddockAt p
    s.setPaddock p { d with graphs := amSet d.graphs h (amSet ((amGet d.graphs h).getD []) v ⟨[], true⟩) }
  else s

/-- The instance ends when everything dispatched has completed and nothing is due; its STATUS is decided (R435). -/
def State.settleInst (s : State) (i : Nat) : State :=
  match amGet s.insts i with
  | none => s
  | some g =>
    if g.due.isEmpty && g.dispatched.all g.finished.contains then
      let status := if g.dispatched.length < g.counters.length then 3 else 0
      let s := s.finishLaunch g.launch status
      ({ s with insts := amDel s.insts i }).freeVersion g.p g.handle g.version
    else s

/-- Due nodes dispatched, then the instance settled. -/
def State.runInst (s : State) (i : Nat) : State :=
  match amGet s.insts i with
  | none => s
  | some g => (g.due.foldl (fun s n => s.dispatchNode i n) s).settleInst i

/-- A counter lowered by `k`, not below 0; its old value. -/
def State.lowerCounter (s : State) (i n k : Nat) : State × Nat :=
  match amGet s.insts i with
  | none => (s, 0)
  | some g =>
    let c := g.counters.getD n 0
    ({ s with insts := amSet s.insts i { g with counters := g.counters.set n (c - min k c) } }, c)

/-- Node `n` completes (R434): each successor's counter falls by 1, what is due is dispatched. -/
def State.nodeDone (s : State) (i n : Nat) : State :=
  match amGet s.insts i with
  | none => s
  | some g =>
    let s := { s with insts := amSet s.insts i { g with finished := n :: g.finished } }
    let succs := ((s.graphVer g.p g.handle g.version).bind fun v => (v.nodes[n]?).map (·.succs)).getD []
    (succs.foldl (fun s m => (s.lowerCounter i m 1).1) s).runInst i

/-! ## The end of a task (01 R20, R21; 02 R62) -/

/-- Whether a task of an origin is left. -/
def State.originLive (s : State) (o : Origin) : Bool := s.tasks.any fun e => e.2.origin == o

/-- Everything the device keeps of a task goes: its contexts, slots, cache lines, operations; an evacuation's frames are free again (21 R448). -/
def State.dropTask (s : State) (tid : Nat) : State :=
  let t := s.taskAt tid
  let mine (cid : Option Nat) : Bool := cid.any fun c => t.cids.contains c
  let gone (id : Nat) : Bool := s.ops.any fun o => o.id == id && o.tid == tid
  let d := s.paddockAt t.p
  let s := if t.evac.isEmpty then s else s.setPaddock t.p { d with evac := d.evac ++ t.evac }
  let free (m : AMap CacheLine) : AMap CacheLine := m.map fun e =>
    (e.1, if mine (e.2.holds.map (·.1)) then { e.2 with holds := none, dirty := false } else e.2)
  let clean (k : CoreSt) : CoreSt :=
    let arr := { k.arr with mq := k.arr.mq.filter fun id => !gone id }
    { k with slots := k.slots.map fun c => if mine c then none else c, held := k.held.filter fun id => !gone id,
             arr := if k.slots.any mine then ArrayState.empty else arr, tiles := free k.tiles, runs := free k.runs }
  { s with
    tasks := amDel s.tasks tid
    ctxs := s.ctxs.filter fun e => !t.cids.contains e.1
    cores := s.cores.map fun e => (e.1, clean e.2)
    ops := s.ops.filter fun o => o.tid != tid
    yokes := s.yokes.map fun e => (e.1, e.2.filter fun id => !gone id)
    sends := s.sends.filter fun x => !gone x.op && !((amGet s.batches x.batch).any fun b => t.cids.contains b.cid)
    batches := s.batches.filter fun b => !t.cids.contains b.2.cid
    preempts := s.preempts.filter fun r => r.tid != tid }

/-- What a launch or a graph instance does when a task of it is gone. -/
def State.afterTask (s : State) (o : Origin) : State :=
  if s.originLive o then s
  else
    match o with
    | .launch l => s.finishLaunch l 0
    | .node i n => s.nodeDone i n

end Sys2Proof.Machine
end

