-- ==== Sys2Proof/Machine/Spawn.lean ====
section
/-! DEFINITION. TSPAWN, GDEC, GREAD, and the steps of counter operations and graph counters (11 R289 to R292; 13 R339, R340). -/
namespace Sys2Proof.Machine

/-! ## TSPAWN (13 R339) -/

/-- Tasks in a paddock's spawn queue: spawned and not yet placed. -/
def State.spawnQueue (s : State) (p : Nat) : Nat :=
  (s.tasks.filter fun e => e.2.p == p && e.2.parent.isSome &&
    (match e.2.state with
     | .waitLeases | .queued => true
     | _ => false)).length

/-- Whether a box lies inside another. -/
def boxInside : List (Nat × Nat) → List (Nat × Nat) → Bool
  | (a, b) :: x, (c, d) :: y => c ≤ a && a ≤ b && b ≤ d && boxInside x y
  | [], [] => true
  | _, _ => false

/-- A delegated lease lies inside one lease of the spawner on its window, with the same mode or a narrower one (02 R61). -/
def delegationOk (own : List Lease) (l : Lease) : Bool :=
  own.any fun o => o.win == l.win && boxInside l.box o.box && (!l.rd || o.rd) && (!l.wr || o.wr)

/-- The bindings a spawn record takes: explicit, or the spawner's values with SH-06 for an unbound one (04 R103). -/
def State.spawnDims (s : State) (d : Descr) : Except Stop (List (Nat × Nat)) :=
  if d.dmask ≠ 0 ∧ d.dform = 0 then
    (maskBits d.dmask).mapM fun k =>
      match s.ctx.dAt k with
      | some v => .ok (k, v)
      | none => .error (shFault 5 0 (some k) none 0 0 0 0)
  else .ok (List.zip (maskBits d.dmask) d.dvals)

/-- Two boxes touch a common tile. -/
def boxesMeet : List (Nat × Nat) → List (Nat × Nat) → List Nat → Bool
  | (a, b) :: x, (c, e) :: y, l :: ls => a / 2 ^ l ≤ e / 2 ^ l && c / 2 ^ l ≤ b / 2 ^ l && boxesMeet x y ls
  | _, _, _ => true

/-- Two leases of one paddock conflict (02 R57). -/
def State.leasesMeet (s : State) (p : Nat) (a b : Lease) : Bool :=
  a.win == b.win && (a.wr || b.wr) &&
    (match s.window p a.win with
     | some d => boxesMeet a.box b.box d.tlog
     | none => false)

/-- A spawned task as it arrives: its delegated leases are granted with the commit, but for one that conflicts with a delegated lease of
a sibling that arrived before (02 R61); a task that so holds every lease it declares is queued. -/
def State.holdLeases (s : State) (t : Task) : Task :=
  let siblings := s.tasks.filter fun e => e.2.parent == t.parent
  let free (l : Lease) : Bool := siblings.all fun e => e.2.leases.all fun m => !m.deleg || !s.leasesMeet t.p l m
  let ls := t.leases.map fun l => { l with held := l.deleg && free l }
  { t with leases := ls, state := if !ls.isEmpty && ls.all (·.held) then .queued else t.state }

/-- `n` instances arrive from instance `i` on; the number of the first is answered. -/
def State.spawnAll (s : State) (t : Task) : Nat → Nat → State × Nat
  | 0, _ => (s, 0)
  | n + 1, i =>
    let (s, seq) := s.arrive (s.holdLeases { t with inst := i })
    ((s.spawnAll t n (i + 1)).1, seq)

/-- TSPAWN (R339). -/
def execTspawn (g d a b : Nat) (s : State) : Out :=
  runWord .eMain 1 g (fun s => do
    let blk ← s.controlBlock a
    let n ← s.rx b
    let len := fieldAt blk.bytes 14 2
    let reg := s.slotRegion false
    let o := blk.addr - reg.base
    let size := if 1 ≤ len ∧ len ≤ 64 then 64 * len else 64
    need (o + size ≤ reg.size) (flt .LS 3)
    s.raceCore [reg.touch o size] []
    let s := (← s.readCheck blk.addr size).commitOrder
    let r := parseDescr (memRead s.mem blk.addr size)
    need (n.toNat ≤ 256 && r.ok) (flt .FM 22)
    let dims ← s.spawnDims r
    let t := s.task
    let new := s.taskOf t.p r t.code t.origin
    let new := { new with prio := max t.prio r.prio, parent := some t.tid, dims := dims, ninst := n.toNat }
    need (new.leases.all fun l => !l.deleg || delegationOk t.leases l) (flt .LS 5)
    need (s.spawnQueue t.p + n.toNat ≤ 1024) (.block (.spawnQueue t.p n.toNat))
    let (s, seq) := s.spawnAll new n.toNat 0
    return s.wx 1 d (word seq)) s

/-! ## Graph counters (13 R340) -/

/-- The graph instance of a task that a graph node started. -/
def Task.instance_ (t : Task) : Option Nat :=
  match t.parent, t.origin with
  | none, .node i _ => some i
  | _, _ => none

/-- GDEC and GREAD at issue: FM-23, then the operation; Xd takes the reply at latency 32. -/
def graphBody (d a : Nat) (amount : Option Nat) (s : State) : Except Stop State := do
  let x ← s.rx a
  match s.task.instance_ with
  | none => .error (flt .FM 23)
  | some i =>
    need (x.toNat < 4096 && amount.all fun k => 1 ≤ k && k ≤ 65535) (flt .FM 23)
    need (amount.isNone || s.fencePasses 1) .stall
    let op := s.nextOp
    let s := (s.addOp none (.graph ⟨i, x.toNat, amount, false, none⟩) []).pastCell op false
    return s.post 32 (.xReply (physX s.ctx.rrb d) op)

/-- GDEC (R340). -/
def execGdec (g d a b : Nat) (s : State) : Out :=
  runWord .eMain 1 g (fun s => do
    let k ← s.rx b
    graphBody d a (some k.toNat) s) s

/-- GREAD (R340). -/
def execGread (g d a : Nat) (s : State) : Out := runWord .eMain 1 g (graphBody d a none) s

/-- Whether an operation on a cell or graph counter must wait: one on the same place, or, where this one releases, any write it covers,
comes before it and has not performed; or what its writes wait for has not (11 R292; 07 R186). -/
def State.heldBack (s : State) (o : Op) (same : OpKind → Bool) (releases : Bool) : Bool :=
  !s.letsWrite o || (releases && !(s.unseen o.before).isEmpty) ||
    s.ops.any fun e => o.before.contains e.id && e.unperformed && same e.kind

/-- The operation is on counter `c` of the instance. -/
def OpKind.onCounter (i c : Nat) : OpKind → Bool
  | .graph g => g.inst == i && g.c == c
  | _ => false

/-- The operation is on the cell. -/
def OpKind.onCell (module : Option Nat) (cell : Nat) : OpKind → Bool
  | .counter k => k.cell == cell && k.module == module
  | _ => false

/-- GRAPH_COUNTER_DECREMENT (R340): the command processor performs the operation; a counter that falls to 0 dispatches its node. -/
def execGraphCounterDecrement (op : Nat) (s : State) : Out :=
  match s.opAt op with
  | none => notNow "GRAPH_COUNTER_DECREMENT"
  | some o =>
    match o.kind with
    | .graph g =>
      if g.performed || s.heldBack o (OpKind.onCounter g.inst g.c) false then notNow "GRAPH_COUNTER_DECREMENT"
      else
        let (s, old) := s.lowerCounter g.inst g.c (g.amount.getD 0)
        let s := s.modOp op fun o => { o with kind := .graph { g with performed := true, reply := some (word old) } }
        .next (if g.amount.isSome && old != 0 then s.runInst g.inst else s)
    | _ => notNow "GRAPH_COUNTER_DECREMENT"

/-! ## Counter operations (11 R291, R292) -/

/-- COUNTER_OPERATION_PERFORM (R291, R292): one indivisible step at the cell's home; a remote cell is another module's, whose reply
is a free value. -/
def execCounterOperationPerform (op : Nat) (s : State) : Out :=
  match s.opAt op with
  | none => notNow "COUNTER_OPERATION_PERFORM"
  | some o =>
    match o.kind with
    | .counter c =>
      if c.performed || s.heldBack o (OpKind.onCell c.module c.cell) (c.order.any (1 ≤ ·)) then notNow "COUNTER_OPERATION_PERFORM"
      else
        match c.module with
        | some _ =>
          let v := Config.remoteReply s.freeCtr
          .next ({ s with freeCtr := s.freeCtr + 1 }.modOp op fun o =>
            { o with kind := .counter { c with performed := true, reply := some v } })
        | none =>
          match s.cellAddr (s.taskAt o.tid).p c.cell with
          | none => notNow "COUNTER_OPERATION_PERFORM"
          | some a =>
            let m := word (memNat s.mem a 8)
            let new := c.act.apply m
            let s := (s.actFor o).l2Touch false (new != m) (linesOf a 8)
            let s := if new = m then s else s.store a (natLe 8 new.toNat)
            .next (s.modOp op fun o => { o with kind := .counter { c with performed := true, reply := some m } })
    | _ => notNow "COUNTER_OPERATION_PERFORM"

/-- The reply of operation `op` where a result waits for it: in flight, captured, or in the register file. -/
def deliverFlight (op : Nat) (v : Word) (fs : List InFlight) : List InFlight :=
  fs.map fun f => match f.res with
    | .xReply n k => if k = op then { f with res := .x n v } else f
    | _ => f

/-- A register that has been waiting for the reply takes it. -/
def Ctx.deliver (c : Ctx) (op : Nat) (v : Word) : Ctx :=
  let ns := c.unready.filter fun e => e.2 == op
  { c with
    inflight := deliverFlight op v c.inflight
    captured := c.captured.map fun k => { k with inflight := deliverFlight op v k.inflight }
    unready := c.unready.filter fun e => e.2 != op
    x := ns.foldl (fun x e => x.setIfInBounds e.1 v) c.x }

/-- COUNTER_REPLY_ARRIVAL (R292): the reply of a counter operation or of GDEC or GREAD reaches its context. -/
def execCounterReplyArrival (op : Nat) (s : State) : Out :=
  match s.opAt op with
  | none => notNow "COUNTER_REPLY_ARRIVAL"
  | some o =>
    let reply := match o.kind with
      | .counter c => c.reply
      | .graph g => g.reply
      | _ => none
    match reply with
    | none => notNow "COUNTER_REPLY_ARRIVAL"
    | some v => .next ((s.setCtx o.cid ((s.ctxAt o.cid).deliver op v)).finishOp o)

/-- REMOTE_TARGET_UNREACHABLE (R289): the task ends with FB-03. -/
def execRemoteTargetUnreachable (op : Nat) (s : State) : Out :=
  match s.opAt op with
  | none => notNow "REMOTE_TARGET_UNREACHABLE"
  | some o =>
    match o.kind with
    | .counter c =>
      if c.module.isSome && c.reply.isNone then .next ((s.finishOp o).endTask o.tid { cls := .FB, num := 3 })
      else notNow "REMOTE_TARGET_UNREACHABLE"
    | _ => notNow "REMOTE_TARGET_UNREACHABLE"

end Sys2Proof.Machine
end

