-- ==== Sys2Proof/Machine/Route.lean ====
section
/-! DEFINITION. The dispatch engine: DSEND, DFLUSH, DRECV, DCOMB at issue, their starts and completions, the landing of rows (13
R341 to R347). -/
namespace Sys2Proof.Machine

/-! ## The destination table (13 R341) -/

/-- NDEST. -/
def ndest (d : WinDesc) : Nat := d.ext.getD 0 0 / 8

/-- Entry `e` of the table window. -/
def State.destAt (s : State) (d : WinDesc) (e : Nat) : Except FaultRec Dest := do
  let w ← s.getVec d (8 * e) 8
  let x (k : Nat) : Nat := w.getD k 0
  return ⟨bits (x 0) 0 9, bits (x 0) 15 1 == 1, x 0 / 65536, x 1 % 65536, x 2, x 3 % 65536, x 3 / 65536, x 4 % 65536⟩

/-- A valid entry among those of the table. -/
def State.goodDest (s : State) (d : WinDesc) (e : Nat) : Option Dest :=
  if ndest d ≤ e then none
  else
    match s.destAt d e with
    | .ok t => if t.valid then some t else none
    | .error _ => none

/-! ## Issue (13 R342, R343, R347) -/

/-- A window of rank `rank` whose format `fmts` admits; operand `op`. -/
def State.routeWindow (s : State) (n op rank : Nat) (fmts : Nat → Bool) : Except Stop WinDesc := do
  let d ← s.formWindow s.task.p n
  shapeOf d op rank fmts
  return d

/-- A table window: NDEST from 1 to 1,024. -/
def State.tableWindow (s : State) (n op : Nat) : Except Stop WinDesc := do
  let d ← s.routeWindow n op 1 (· == 0x07)
  need (d.ext.getD 0 0 % 8 == 0 && 1 ≤ ndest d && ndest d ≤ 1024) (winShape 4 0 op d)
  return d

/-- Rows and columns within a rank-2 window: SH-05. -/
def rowsFit (d : WinDesc) (op org n cols : Nat) : Except Stop Unit := do
  need (org + n ≤ d.ext.getD 0 0) (winShape 4 0 op d)
  need (cols ≤ d.ext.getD 1 0) (winShape 4 1 op d)

/-- The coordinates of rows of a rank-2 window, its first `k` columns. -/
def rowCoords (org n k : Nat) : List (List Nat) := boxCoords [(org, n), (0, k)]

def isUint32 (f : Nat) : Bool := f == 0x07

/-- Formats of a token row: not scaled, SC8 or META3 (R342). -/
def tokenFmt (f : Nat) : Bool := f ≤ 0x0E

/-- The fields of a dispatch block (R342). -/
def sendT (b : List Byte) : Nat := fieldAt b 12 4
def sendK (b : List Byte) : Nat := fieldAt b 16 2
def sendOrg (b : List Byte) : Nat := fieldAt b 8 4
def sendQueued (b : List Byte) : Bool := fieldAt b 18 1 % 2 == 1
def sendQueue (b : List Byte) : Nat := fieldAt b 18 1 / 2 % 8
def sendQh (b : List Byte) : Nat := fieldAt b 20 2

/-- The slab that holds token group `g`, column group `h`, has the rows and columns the tokens need (R343). -/
def slabFits (t qh fmt g h : Nat) (sl : Slab) : Bool :=
  sl.fmt == fmt && sl.nr == min 16 (t - 16 * g) && sl.nc == min 64 (qh - 64 * h)

/-- The slabs a queued DSEND pops: the checks of R343 in order. -/
def State.sendSlabs (s : State) (b : List Byte) : Except Stop (List Slab) := do
  let t := sendT b
  let qh := sendQh b
  let g := (t + 15) / 16
  let j := (qh + 63) / 64
  need (1 ≤ qh && qh ≤ 4096 && g * j ≤ 16) (flt .FM 21)
  let q := sendQueue b
  let core := s.ctx.core
  let slabs := ((s.coreAt core).arr.queues.getD q .empty).slabs
  need (g * j ≤ slabs.length) (if s.draining core q then .block (.pop q (g * j)) else flt .QU 2)
  let used := slabs.take (g * j)
  let fmt := (used.head?.map (·.fmt)).getD 0
  need (8 ≤ storageBits fmt && storageBits fmt ≤ 32) (flt .FM 21)
  need ((used.zipIdx).all fun e => slabFits t qh fmt (e.2 / j) (e.2 % j) e.1) (flt .FM 21)
  return used

/-- The token rows of slabs: token t is row t − 16g of the slabs of group g. -/
def slabRows (t qh : Nat) (slabs : List Slab) : List (List Nat) :=
  let j := (qh + 63) / 64
  (List.range t).map fun i =>
    ((slabs.drop (i / 16 * j)).take j).flatMap fun sl => sl.vals.getD (i % 16) []

/-- The context's open batch, begun where there is none (R344). -/
def State.openBatch (s : State) : State × Nat :=
  match s.ctx.batch with
  | some b => (s, b)
  | none =>
    let b := s.nextOp
    let s := s.putCtx { s.ctx with batch := some b }
    ({ s with batches := amSet s.batches b ⟨s.me, [], [], []⟩ }, b)

/-- A dispatch or combine command forks. -/
def State.forkBlock (s : State) (tag : Nat) (kind : OpKind) (marks : List Mark) : Except Stop State := do
  let s ← s.raiseTag tag 1
  return s.addOp (some tag) kind marks

/-- The token rows of TOKWIN as they stand (07 R190); a row without a frame, which no lease covers, has no elements. -/
def State.tokenRows (s : State) (d : WinDesc) (org t : Nat) : List (List Nat) :=
  (List.range t).map fun i =>
    match s.getRow d (org + i) (d.ext.getD 1 0) with
    | .ok r => r
    | .error _ => []

/-- DSEND (R342, R343): the rows are read at the commit (07 R190), and where a copy has landed half of them there, that is its race (07
R176, R178; log entry 136). -/
def execDsend (g a tag : Nat) (s : State) : Out :=
  runWord .eMain 2 g (fun s => do
    let blk ← s.controlBlock a
    let b := blk.bytes
    need (fieldAt b 18 1 < 16 && zeroBytes b 19 19 && zeroBytes b 22 63) (flt .FM 21)
    let queued := sendQueued b
    let t := sendT b
    let k := sendK b
    let org := sendOrg b
    let tok ← if queued then pure none
      else do
        let d ← s.routeWindow (fieldAt b 0 2) 1 2 tokenFmt
        need (d.geom == 0) (winShape 1 0 1 d)
        need (!d.compressed) (flt .FM 10)
        pure (some d)
    let rw ← s.routeWindow (fieldAt b 2 2) 2 2 isUint32
    let tw ← s.tableWindow (fieldAt b 4 2) 3
    let lw ← s.routeWindow (fieldAt b 6 2) 4 2 isUint32
    tok.toList.forM fun d => rowsFit d 1 org t 0
    rowsFit rw 2 org t (2 * k)
    rowsFit lw 4 org t k
    need (1 ≤ t && t ≤ 4096 && 1 ≤ k && k ≤ 8) (flt .FM 21)
    let slabs ← if queued then s.sendSlabs b else pure []
    let s ← s.loadBlock blk
    let (rows, fmt) := match tok with
      | some d => (s.tokenRows d org t, d.fmt)
      | none => (slabRows t (sendQh b) slabs, (slabs.head?.map (·.fmt)).getD 0)
    let s := if queued then s.dropSlabs (sendQueue b) slabs.length else s
    let (s, n) := s.openBatch
    let read := tok.toList.flatMap fun d => s.coordMarks d false (rowCoords org t (d.ext.getD 1 0))
    let marks := read ++ s.coordMarks rw false (rowCoords org t (2 * k)) ++ s.coordMarks tw false (boxCoords [(0, 8 * ndest tw)]) ++
      s.coordMarks lw true (rowCoords org t k)
    s.forkBlock tag (.dsend b rows fmt (slabs.any (·.bad)) n (raceWith read s.halfLanded)) marks) s

/-- DFLUSH (R345): the context's batch closes. -/
def execDflush (g tag : Nat) (s : State) : Out :=
  runWord .eMain 1 g (fun s => do
    let s ← s.raiseTag tag 1
    let n := s.ctx.batch.getD 0
    return (s.putCtx { s.ctx with batch := none }).addOp (some tag) (.dflush n) []) s

/-- Waits of a die's dispatch engine (R346). -/
def State.waitsOf (s : State) (die : Nat) : Nat :=
  (s.ops.filter fun o => dieOf o.core == die && (match o.kind with
    | .drecv .. => true
    | _ => false)).length

/-- DRECV (R346): a wait on a cell, or the arming of a tag for hand-offs. -/
def execDrecv (g a b tag : Nat) (s : State) : Out :=
  runWord .eMain 2 g (fun s => do
    let x ← s.rx a
    let y ← s.rx b
    if x.getLsbD 63 then
      need (x.toNat == 2 ^ 63 && y.toNat ≤ 65535) (flt .FM 17)
      s.raiseTag tag y.toNat
    else
      let (module, cell) ← s.cellOperand x 5
      let s ← s.raiseTag tag 1
      need (s.waitsOf (dieOf s.ctx.core) < 256) (.block (.dispatchWaits (dieOf s.ctx.core)))
      return s.addOp (some tag) (.drecv cell module y) []) s

/-- The fields of a combine block (R347). -/
def combFlags (b : List Byte) : Nat := fieldAt b 18 1
def combFmt (b : List Byte) : Nat := fieldAt b 19 1
def combOrg (b : List Byte) : Nat := fieldAt b 20 4

/-- A route that landed: its weight, its destination, the row of OUTWIN that answers it. -/
structure Route where
  weight : Num
  dest : Dest
  row : Nat
  deriving DecidableEq, Repr

/-- The routes of each token that landed (R347); CP-11 for an expert that is no valid entry. -/
def State.combRoutes (s : State) (p : Nat) (b : List Byte) : Except FaultRec (List (List Route)) :=
  match s.window p (fieldAt b 0 2), s.window p (fieldAt b 2 2), s.window p (fieldAt b 4 2) with
  | some lw, some rw, some tw =>
    (List.range (sendT b)).mapM fun t =>
      let row := sendOrg b + t
      (List.range (sendK b)).filterMapM fun j => do
        let l ← s.winRead lw [row, j]
        if l = 0xFFFFFFFF || l = 0xFFFFFFFD then return none
        else
          let w ← s.winRead rw [row, 2 * j]
          let e ← s.winRead rw [row, 2 * j + 1]
          match s.goodDest tw e with
          | none => .error { cls := .CP, num := 11 }
          | some d => return some ⟨decodeFmt 0x09 w, d, d.landOrg + l % 2 ^ 31⟩
  | _, _, _ => .error noFrame

/-- The marks on the rows of result windows of this module that a combine reads, as logs and tables stand at its commit (07 R177; R359;
log entry 137). -/
def State.resultMarks (s : State) (p h : Nat) (b : List Byte) : List Mark :=
  match s.combRoutes p b with
  | .error _ => []
  | .ok rs => (rs.flatten.filter fun r => r.dest.module == s.module).flatMap fun r =>
    match s.window p r.dest.outWin with
    | some d => if d.rank = 2 then s.coordMarks d false (rowCoords r.row 1 (min h (d.ext.getD 1 0))) else []
    | none => []

/-- DCOMB (R347). -/
def execDcomb (g a tag : Nat) (s : State) : Out :=
  runWord .eMain 2 g (fun s => do
    let blk ← s.controlBlock a
    let b := blk.bytes
    need (zeroBytes b 24 63) (flt .FM 21)
    let t := sendT b
    let k := sendK b
    let org := sendOrg b
    let lw ← s.routeWindow (fieldAt b 0 2) 1 2 isUint32
    let rw ← s.routeWindow (fieldAt b 2 2) 2 2 isUint32
    let tw ← s.tableWindow (fieldAt b 4 2) 3
    let dw ← s.routeWindow (fieldAt b 6 2) 4 2 (fun f => !isFloat (combFmt b) || f == combFmt b)
    rowsFit lw 1 org t k
    rowsFit rw 2 org t (2 * k)
    rowsFit dw 4 (combOrg b) t 0
    need (1 ≤ t && t ≤ 4096 && 1 ≤ k && k ≤ 8 && combFlags b ≤ 1 && isFloat (combFmt b)) (flt .FM 21)
    let s ← s.loadBlock blk
    let marks := s.coordMarks lw false (rowCoords org t k) ++ s.coordMarks rw false (rowCoords org t (2 * k)) ++
      s.coordMarks tw false (boxCoords [(0, 8 * ndest tw)]) ++
      s.coordMarks dw true (rowCoords (combOrg b) t (dw.ext.getD 1 0)) ++ s.resultMarks s.task.p (dw.ext.getD 1 0) b
    s.forkBlock tag (.dcomb b) marks) s

/-! ## Starts (13 R342, R347) -/

/-- The windows of a command under way and the coordinates it touches in each, with whether it writes: those of a DSEND. -/
def State.sendAccess (s : State) (p : Nat) (b : List Byte) : List (WinDesc × Bool × List (List Nat)) :=
  let t := sendT b
  let k := sendK b
  let org := sendOrg b
  let of (n : Nat) (wr : Bool) (f : WinDesc → List (List Nat)) : List (WinDesc × Bool × List (List Nat)) :=
    match s.window p (fieldAt b n 2) with
    | some d => [(d, wr, f d)]
    | none => []
  (if sendQueued b then [] else of 0 false fun d => rowCoords org t (d.ext.getD 1 0)) ++
    of 2 false (fun _ => rowCoords org t (2 * k)) ++ of 4 false (fun d => boxCoords [(0, 8 * ndest d)]) ++
    of 6 true (fun _ => rowCoords org t k)

/-- Those of a DCOMB. -/
def State.combAccess (s : State) (p : Nat) (b : List Byte) : List (WinDesc × Bool × List (List Nat)) :=
  let t := sendT b
  let k := sendK b
  let org := sendOrg b
  let of (n : Nat) (wr : Bool) (f : WinDesc → List (List Nat)) : List (WinDesc × Bool × List (List Nat)) :=
    match s.window p (fieldAt b n 2) with
    | some d => [(d, wr, f d)]
    | none => []
  of 0 false (fun _ => rowCoords org t k) ++ of 2 false (fun _ => rowCoords org t (2 * k)) ++
    of 4 false (fun d => boxCoords [(0, 8 * ndest d)]) ++
    of 6 true (fun d => rowCoords (combOrg b) t (d.ext.getD 1 0))

/-- The leases of such accesses, one window after another (02 R60). -/
def State.accessLeases (s : State) (tid : Nat) (as : List (WinDesc × Bool × List (List Nat))) : Except StartFail Unit :=
  match as.findSome? fun a => s.leaseCheck tid a.1 (!a.2.1) a.2.1 a.2.2 with
  | some k => .error (.lease k)
  | none => .ok ()

/-- The lines of the accesses that read, or that write. -/
def State.accessLines (s : State) (wr : Bool) (as : List (WinDesc × Bool × List (List Nat))) : List Nat :=
  (as.filter fun a => a.2.1 == wr).flatMap fun a => s.coordLines a.1 a.2.2

/-! ## The sends of a DSEND (13 R344) -/

/-- The dispatch engine of the die of `core` acts, for a task (21 R452). -/
def State.actDispatch (s : State) (core tid : Nat) : State := s.actAs (612 + dieOf core) tid

/-- The routes of a DSEND in order, as sends on their way; the table is read here, while its marks stand (07 R177). -/
def State.sendsOf (s : State) (o : Op) (p : Nat) (b : List Byte) (rows : List (List Nat)) (fmt n : Nat) (bad : Bool) :
    Except FaultRec (List Send) := do
  match s.window p (fieldAt b 2 2) with
  | none => .error noFrame
  | some rw => do
    let keyWin := if sendQueued b then fieldAt b 2 2 else fieldAt b 0 2
    let css := boxCoords [(0, sendT b), (0, sendK b)]
    css.mapM fun c => do
      let t := c.getD 0 0
      let j := c.getD 1 0
      let e ← s.winRead rw [sendOrg b + t, 2 * j + 1]
      let dest := (s.window p (fieldAt b 4 2)).bind fun d => s.goodDest d e
      return ⟨o.id, n, (keyWin, sendOrg b + t, e), dest, rows.getD t [], fmt, bad, fieldAt b 6 2, sendOrg b + t, j⟩

/-- A DSEND completes: every row read, every send accepted (R344). -/
def State.sendDone (s : State) (o : Op) (b : List Byte) (rows : List (List Nat)) (fmt : Nat) (held : Bool) (n : Nat) : State :=
  let p := (s.taskAt o.tid).p
  let ins := s.accessLines false (s.sendAccess p b)
  let (s, met) := ((s.actDispatch o.core o.tid).l2Touch false false ins).verify ins
  let bad := held || met
  match s.sendsOf o p b rows fmt n bad with
  | .error f => s.failOp o f
  | .ok xs =>
    let batch := (amGet s.batches n).getD ⟨o.cid, [], [], []⟩
    let tab := fieldAt b 4 2
    let batch := { batch with tables := if batch.tables.contains tab then batch.tables else batch.tables ++ [tab] }
    let s := { s with sends := s.sends ++ xs, batches := amSet s.batches n batch }
    s.endOp o (if bad then some { cls := .AC, num := 3 } else none)

/-! ## Landing (13 R344) -/

/-- A log word written, on the paddock's authority. -/
def State.putLog (s : State) (p : Nat) (x : Send) (v : Nat) : State :=
  match s.window p x.logWin with
  | none => s
  | some d =>
    match s.winWrite d [x.logRow, x.logCol] v with
    | .ok r => r.l2Touch false true (s.coordLines d [[x.logRow, x.logCol]])
    | .error _ => s

/-- A fault of a batch, for the join of its DFLUSH. -/
def State.batchFault (s : State) (n : Nat) (f : FaultRec) : State :=
  match amGet s.batches n with
  | some b => { s with batches := amSet s.batches n { b with faults := b.faults ++ [f] } }
  | none => s

/-- What a send ended as, kept for later duplicates of the batch: its log word. -/
def State.remember (s : State) (x : Send) (v : Nat) : State :=
  match amGet s.batches x.batch with
  | some b => { s with batches := amSet s.batches x.batch { b with mem := b.mem ++ [(x.key, word v)] } }
  | none => s

/-- A row offered to destination `t` of this module: the step on CNTCELL, the row written or dropped, the log word (R344). A landing
window that does not take the row raises FB-01. -/
def State.landHere (s : State) (p : Nat) (x : Send) (t : Dest) : State :=
  let fb : FaultRec := { cls := .FB, num := 1 }
  match s.window p t.landWin, s.cellAddr p t.cntCell with
  | some d, some a =>
    if d.rank != 2 || d.fmt != x.fmt || d.ext.getD 1 0 != x.row.length then s.batchFault x.batch fb
    else
      let v := memNat s.mem a 8
      let s := s.l2Touch false (v < t.cap) (linesOf a 8)
      if v < t.cap then
        let s := s.store a (natLe 8 (v + 1))
        let s := if t.landOrg + v < d.ext.getD 0 0 then
            let css := rowCoords (t.landOrg + v) 1 x.row.length
            let ls := s.coordLines d css
            match (s.overwrite (s.coordBits d css)).putRow d (t.landOrg + v) 0 (x.row.map (containerBits d.fmt)) with
            | .ok r =>
              let r := r.l2Touch false true ls
              if x.bad then r.poisonLines ls else r
            | .error _ => s
          else s
        (s.putLog p x v).remember x v
      else (s.putLog p x 0xFFFFFFFF).remember x 0xFFFFFFFF
  | none, _ => s.batchFault x.batch fb
  | _, none => s.batchFault x.batch { cls := .CP, num := 11 }

/-- A row sent to another module: whether its landing window takes the row there, and what its cell answers, are free values. -/
def State.landThere (s : State) (p : Nat) (x : Send) (t : Dest) : State :=
  let v := (Config.remoteReply s.freeCtr).toNat
  let refused : Bool := Config.remoteReply (s.freeCtr + 1) == 0
  let s := { s with freeCtr := s.freeCtr + 2 }
  if refused then s.batchFault x.batch { cls := .FB, num := 1 } else
  let l := if v < t.cap then v else 0xFFFFFFFF
  (s.putLog p x l).remember x l

/-- The first case of R344 that applies to a route. -/
def State.landSend (s : State) (p : Nat) (x : Send) : State :=
  let e := x.key.2.2
  if e = 0xFFFFFFFF then s.putLog p x 0xFFFFFFFD
  else
    match x.dest with
    | none => s.batchFault x.batch { cls := .CP, num := 11 }
    | some t =>
      match ((amGet s.batches x.batch).getD ⟨0, [], [], []⟩).mem.find? fun m => m.1 == x.key with
      | some m => s.putLog p x (if m.2.toNat = 0xFFFFFFFF then 0xFFFFFFFF else 0x80000000 + m.2.toNat)
      | none => if t.module = s.module then s.landHere p x t else s.landThere p x t

/-- The first element that satisfies `p`, and the list without it. -/
def takeFirst {α : Type} (p : α → Bool) : List α → Option (α × List α)
  | [] => none
  | x :: xs =>
    if p x then some (x, xs)
    else
      match takeFirst p xs with
      | some (y, ys) => some (y, x :: ys)
      | none => none

/-- The context of a batch. -/
def State.batchCid (s : State) (n : Nat) : Nat := ((amGet s.batches n).getD ⟨0, [], [], []⟩).cid

/-- A DSEND of context `cid` that issued before operation `op` has not completed (07 R190). -/
def State.sendsBefore (s : State) (cid op : Nat) : Bool :=
  s.ops.any fun o => o.cid == cid && o.id < op && (match o.kind with
    | .dsend .. => true
    | _ => false)

/-- DISPATCH_ROW_LANDING (R344): the next send of DSEND `op`; sends of one context land in the order of their commits. -/
def execDispatchRowLanding (op : Nat) (s : State) : Out :=
  match takeFirst (fun x : Send => x.op == op) s.sends with
  | none => notNow "DISPATCH_ROW_LANDING"
  | some (x, rest) =>
    let cid := s.batchCid x.batch
    if s.sendsBefore cid op || s.sends.any (fun y => s.batchCid y.batch == cid && y.op < op) then notNow "DISPATCH_ROW_LANDING"
    else .next (({ s with sends := rest }.actDispatch (s.ctxAt cid).core (cid / 32)).landSend (s.taskAt (cid / 32)).p x)

/-! ## Completions (13 R345 to R347) -/

/-- 1 added to the DONECELL of every valid entry of a table (R345). -/
def State.addDone (s : State) (p tab : Nat) : State :=
  match s.window p tab with
  | none => s
  | some d => (List.range (ndest d)).foldl (fun s e =>
      match s.goodDest d e with
      | some t =>
        if t.module = s.module then
          match s.cellAddr p t.doneCell with
          | some a => (s.l2Touch false true (linesOf a 8)).store a (natLe 8 (memNat s.mem a 8 + 1))
          | none => s
        else s
      | none => s) s

/-- The fault of a batch that its DFLUSH reports: CP-11 before FB-01. -/
def batchReport (fs : List FaultRec) : Option FaultRec := (fs.find? fun f => f.cls == .CP).orElse fun _ => fs.head?

/-- DFLUSH_COMPLETION (R345): its additions are releases, so what they cover has performed. -/
def execDflushCompletion (op : Nat) (s : State) : Out :=
  match s.opAt op with
  | none => notNow "DFLUSH_COMPLETION"
  | some o =>
    match o.kind with
    | .dflush n =>
      let open_ : Bool := s.ops.any fun e => match e.kind with
        | .dsend _ _ _ _ m _ => m == n
        | _ => false
      if open_ || s.sends.any (fun x => x.batch == n) || s.heldBack o (fun _ => true) true then notNow "DFLUSH_COMPLETION"
      else
        match amGet s.batches n with
        | none => .next (s.finishOp o)
        | some b =>
          let s := b.tables.foldl (fun s t => s.addDone (s.taskAt o.tid).p t) (s.actDispatch o.core o.tid)
          .next ({ s with batches := amDel s.batches n }.endOp o (batchReport b.faults))
    | _ => notNow "DFLUSH_COMPLETION"

/-- DISPATCH_WAIT_COMPLETION (R346): the cell holds a value of at least the bound; what another module's cell holds is free. -/
def execDispatchWaitCompletion (op : Nat) (s : State) : Out :=
  match s.opAt op with
  | none => notNow "DISPATCH_WAIT_COMPLETION"
  | some o =>
    match o.kind with
    | .drecv cell module bound =>
      if s.heldBack o (OpKind.onCell module cell) false then notNow "DISPATCH_WAIT_COMPLETION"
      else
        match module with
        | some _ => .next (s.finishOp o)
        | none => match s.cellAddr (s.taskAt o.tid).p cell with
          | some a =>
            if bound.toNat ≤ memNat s.mem a 8 then .next (((s.actDispatch o.core o.tid).l2Touch false false (linesOf a 8)).finishOp o)
            else notNow "DISPATCH_WAIT_COMPLETION"
          | none => notNow "DISPATCH_WAIT_COMPLETION"
    | _ => notNow "DISPATCH_WAIT_COMPLETION"

/-- Two routes read the same row. -/
def Route.same (a b : Route) : Bool := a.dest.module == b.dest.module && a.dest.outWin == b.dest.outWin && a.row == b.row

/-- A row of a result window: of this module; or of another's, whose values are free, as is whether its window has the right format and
extent: routes to one row read the same values (log entry 64). `all` holds the command's routes. CP-11 where the window does not fit
(R347). -/
def State.resultRow (s : State) (p h : Nat) (all : List Route) (r : Route) : Except FaultRec (List Num) :=
  let bad : FaultRec := { cls := .CP, num := 11 }
  if r.dest.module = s.module then
    match s.window p r.dest.outWin with
    | none => .error bad
    | some d =>
      if d.rank == 2 && isFloat d.fmt && d.ext.getD 1 0 == h && r.row < d.ext.getD 0 0 then do
        let y ← s.getRow d r.row h
        return y.map (decodeFmt d.fmt)
      else .error bad
  else
    let at_ := s.freeCtr + all.findIdx r.same * (h + 1)
    if Config.remoteReply at_ = 0 then .error bad
    else .ok ((List.range h).map fun k => decodeFmt 0x09 ((Config.remoteReply (at_ + 1 + k)).toNat % 2 ^ 32))

/-- One output row of DCOMB: the routes that landed, with their weights (R347). -/
def combineRow (fmt h : Nat) (renorm : Bool) (ys : List (Num × List Num)) : List Nat :=
  (List.range h).map fun k =>
    if ys.isEmpty then encodeFmt fmt 0 false 0 .zero
    else
      let num := rne32 (exactSum (ys.map fun y => y.1.mul (y.2.getD k .zero)))
      let out := if renorm then rne32 (num.div (rne32 (exactSum (ys.map (·.1))))) else num
      encodeFmt fmt 0 false 0 out

/-- What DCOMB writes. -/
def State.combEffect (s : State) (p : Nat) (b : List Byte) (rs : List (List Route)) : Except FaultRec State :=
  match s.window p (fieldAt b 6 2) with
  | some dw => do
    let h := dw.ext.getD 1 0
    let rows ← rs.mapM fun r => do
      let ys ← r.mapM fun x => do
        let y ← s.resultRow p h rs.flatten x
        return (x.weight, y)
      return combineRow (combFmt b) h (combFlags b == 1) ys
    s.putRows dw (combOrg b) rows
  | none => .error noFrame

/-- The lines of the result rows of this module. -/
def State.resultLines (s : State) (p h : Nat) (rs : List Route) : List Nat :=
  (rs.filter fun r => r.dest.module == s.module).flatMap fun r =>
    match s.window p r.dest.outWin with
    | some d => if d.rank = 2 ∧ r.row < d.ext.getD 0 0 then s.coordLines d (rowCoords r.row 1 (min h (d.ext.getD 1 0))) else []
    | none => []

/-- A DCOMB completes. -/
def State.combDone (s : State) (o : Op) (b : List Byte) : State :=
  let p := (s.taskAt o.tid).p
  let as := s.combAccess p b
  let s := s.actDispatch o.core o.tid
  let h := ((s.window p (fieldAt b 6 2)).map fun d => d.ext.getD 1 0).getD 0
  match s.combRoutes p b with
  | .error f => s.failOp o f
  | .ok rs =>
    let ins := s.accessLines false as ++ s.resultLines p h rs.flatten
    let bits := (as.filter (·.2.1)).flatMap fun a => s.coordBits a.1 a.2.2
    let part := (as.filter (·.2.1)).flatMap fun a => s.coordLines a.1 (partCoords a.1 a.2.2)
    let (r, f) := s.withPoison (ins ++ part) (s.accessLines true as) bits fun s => s.combEffect p b rs
    ({ r with freeCtr := r.freeCtr + rs.flatten.length * (h + 1) }).endOp o f

end Sys2Proof.Machine
end

