-- ==== Sys2Proof/Machine/Fabric.lean ====
section
/-! DEFINITION. FSEND, FRECV and the arrival of payloads (04 R112; 13 R348, R349). -/
namespace Sys2Proof.Machine

/-- The destination of a send (R348). -/
structure SendDest where
  seq : Nat
  member : Nat
  channel : Nat
  module : Option Nat
  deriving DecidableEq, Repr

/-- Xb of FSEND: FM-17, FB-02; REMOTE with the number of module `own` itself names a member here (11 R289). -/
def sendDest (own : Nat) (x : Word) : Except Stop SendDest := do
  let v := x.toNat
  let m := bits v 33 9
  let remote := bits v 42 1 == 1
  need (bits v 43 21 == 0 && (remote || m == 0)) (flt .FM 17)
  let away := remote && m != own
  need (!away || Config.inDomain m) (flt .FB 2)
  return ⟨bits v 0 24, bits v 24 5, bits v 29 4, if away then some m else none⟩

/-- FSEND (R348): the payload is read at the commit (07 R190). A COMPRESSED tile is admitted (log entry 37). -/
def execFsend (g a b tag : Nat) (s : State) : Out :=
  runWord .eMain 2 g (fun s => do
    s.nameTiles [a]
    let x ← s.rx b
    checkType true (s.ctx.twAt a)
    let w ← s.dataType a 1
    let _ ← sendDest s.module x
    let t := (layOf w).touch s.me a
    s.raceEngine [t] []
    let s ← s.raiseTag tag 1
    let bytes := memRead s.mem (tileAddr s.me a 0) (layOf w).size
    return (s.addOp (some tag) (.fsend w bytes x) [readMark t]).writeBack a) s

/-- FRECV (R349). An empty destination is SH-01 at issue (log entry 146); a COMPRESSED one is admitted (log entry 37). -/
def execFrecv (g t b tag : Nat) (s : State) : Out :=
  runWord .eMain 2 g (fun s => do
    s.nameTiles [t]
    let x ← s.rx b
    need (x.toNat < 16) (flt .FM 17)
    checkType true (s.ctx.twAt t)
    let w ← s.dataType t 0
    let m := (layOf w).touch s.me t
    s.raceEngine [] [m]
    let s ← s.raiseTag tag 1
    return (s.addOp (some tag) (.frecv t w x.toNat) [writeMark m]).writeBack t) s

/-- The first field, in the order of 04 R107, in which two resolved words differ: FIELD and EXTIDX. A difference in any flag counts as one of
layout (log entry 146). -/
def wordClash (a b : Word) : Option (Nat × Nat) :=
  if twRank a ≠ twRank b then some (0, 0)
  else if twFmt a ≠ twFmt b then some (1, 0)
  else if twGeom a ≠ twGeom b then some (2, 0)
  else if twLayout a ≠ twLayout b ∨ twFlags a ≠ twFlags b then some (3, 0)
  else ((List.range 4).find? fun k => twExt a k != twExt b k).map fun k => (4, k)

/-- FB-01 of a payload whose word is not the expectation (04 R112). -/
def payloadFault (want got : Word) : Option FaultRec :=
  (wordClash want got).map fun f =>
    { cls := .FB, num := 1, fdet := shDetail f.1 f.2 none none 0 1, ftypeA := want, ftypeB := got }

/-- A mark of another operation of the task on the lines of `t`, read or written (07 R178, RC-05). -/
def State.landingMet (s : State) (tid self : Nat) (t : Touch) : Option Met :=
  let own := (s.ops.filter fun o => o.id == self).flatMap (·.marks)
  meet (fun m => !own.contains m) t (s.marks tid)

/-- The Sausk port, of the 18, through which the payload of a receive came, which the spec does not say: free (23 R473; log entry 12). -/
def sauskPort (op : Nat) : Nat := 618 + Config.linkPort op % 18

/-- A receive takes a payload: RC-05 and FB-01 discard it; else the tile holds the image, its lines sealed by the port. What came before the send comes before the
receive's join (07 R183). -/
def State.receive (s : State) (o : Op) (t : Nat) (w : Word) (got : Word) (bytes : List Byte) (past : List Nat) : State :=
  let s := s.actFor o
  let o := { o with before := union o.before (s.undone past) }
  match s.landingMet o.tid o.id ((layOf w).touch o.cid t) with
  | some m => s.failOp o (rcFault 5 m)
  | none =>
    match payloadFault w got with
    | some f => s.failOp o f
    | none => ((s.actAs (sauskPort o.id) o.tid).store (tileAddr o.cid t 0) (bytes.take (layOf w).size)).finishOp o

/-- Whether the engines serve a team: not while it is pre-empted or ending (01 R32). -/
def Task.served (t : Task) : Bool :=
  match t.state with
  | .soft | .hard _ | .ending => false
  | _ => true

/-- Whether payloads and hand-offs reach a team: at a soft halt they land, at a hard one they are held (01 R32). -/
def Task.takesIn (t : Task) : Bool :=
  match t.state with
  | .hard _ | .ending => false
  | _ => true

/-- The task that carries a TASKSEQ in a paddock and has not ended. -/
def State.bySeq (s : State) (p seq : Nat) : Option Task :=
  (s.tasks.find? fun e => e.2.p == p && e.2.seq == seq && e.2.xform.isNone && e.2.fault.isNone).map (·.2)

/-- The oldest receive of a context on a channel. -/
def State.waitingReceive (s : State) (cid ch : Nat) : Option (Op × Nat × Word) :=
  s.ops.findSome? fun o => match o.kind with
    | .frecv t w c => if o.cid == cid && c == ch then some (o, t, w) else none
    | _ => none

/-- A payload at a member: taken by its oldest receive on the channel, or kept in the cluster's buffer, which holds 4 of a member
and channel; none where it must wait. -/
def State.arrivePayload (s : State) (t : Task) (q : Payload) : Option State :=
  let queued := t.inbox.filter fun r => r.member == q.member && r.channel == q.channel
  let keep : Option State :=
    if queued.length < 4 then some (s.setTask t.tid { t with inbox := t.inbox ++ [q] }) else none
  match s.waitingReceive (t.tid * 32 + q.member) q.channel with
  | some (r, n, want) => if queued.isEmpty && t.takesIn then some (s.receive r n want q.tw q.bytes q.before) else keep
  | none => keep

/-- The lines of the tile a send reads. -/
def sendLines (o : Op) : List Nat :=
  o.marks.flatMap fun m => match m.space with
    | .tile cid n => (List.range (m.hi + 1)).map (tileAddr cid n 0 / 64 + ·)
    | _ => []

/-- Two operands of FSEND name one member and channel here or on one other module (13 R348). -/
def sameDest (own : Nat) (x y : Word) : Bool :=
  match sendDest own x, sendDest own y with
  | .ok d, .ok e => d == e
  | _, _ => false

/-- The payload of send `op` reaches its receiver: sends of one context to one member and channel arrive in order; a poisoned tile is
refused (23 R476); no such receiver raises FB-04; another module's receiver is outside, its answer a free value. -/
def State.sendArrives (s : State) (o : Op) (w : Word) (bytes : List Byte) (x : Word) : Option State :=
  let earlier : Bool := s.ops.any fun e => e.cid == o.cid && e.id < o.id &&
    (match e.kind with
     | .fsend _ _ y => sameDest s.module x y
     | _ => false)
  if earlier then none
  else
    match sendDest s.module x with
    | .error _ => some (s.failOp o { cls := .FB, num := 4 })
    | .ok d =>
      let (s, bad) := (s.actFor o).verify (sendLines o)
      if bad then some (s.failOp o { cls := .AC, num := 3 })
      else
        match d.module with
        | some _ =>
          let v := Config.remoteReply s.freeCtr
          let s := { s with freeCtr := s.freeCtr + 1 }
          some (if v = 0 then s.failOp o { cls := .FB, num := 4 } else s.finishOp o)
        | none =>
          match s.bySeq (s.taskAt o.tid).p d.seq with
          | none => some (s.failOp o { cls := .FB, num := 4 })
          | some t =>
            if t.size ≤ d.member then some (s.failOp o { cls := .FB, num := 4 })
            else (s.arrivePayload t ⟨d.member, d.channel, w, bytes, o.before⟩).map fun s => s.finishOp o

/-- FABRIC_PAYLOAD_ARRIVAL (R348): from a send of this module, or from a peer module, whose payload for no task here is not kept. -/
def execFabricPayloadArrival (src : FabricSource) (s : State) : Out :=
  let answer (r : Option State) : Out := match r with
    | some s => .next s
    | none => notNow "FABRIC_PAYLOAD_ARRIVAL"
  match src with
  | .fromSend op =>
    match s.opAt op with
    | none => notNow "FABRIC_PAYLOAD_ARRIVAL"
    | some o =>
      match o.kind with
      | .fsend w bytes x => answer (s.sendArrives o w bytes x)
      | _ => notNow "FABRIC_PAYLOAD_ARRIVAL"
  | .external p seq member channel w bytes =>
    match s.bySeq p seq with
    | none => .next s
    | some t => if t.size ≤ member then .next s else answer (s.arrivePayload t ⟨member, channel, w, bytes, []⟩)

/-- A receive whose payload lies in the cluster's buffer takes it, the oldest receive first. -/
def State.receiveBuffered (s : State) (o : Op) (n : Nat) (w : Word) (ch : Nat) : Option State :=
  let t := s.taskAt o.tid
  let member := o.cid % 32
  match s.waitingReceive o.cid ch with
  | some (r, _, _) =>
    if r.id = o.id && t.takesIn then
      match takeFirst (fun q : Payload => q.member == member && q.channel == ch) t.inbox with
      | some (q, rest) => some ((s.setTask o.tid { t with inbox := rest }).receive o n w q.tw q.bytes q.before)
      | none => none
    else none
  | none => none

end Sys2Proof.Machine
end

