-- ==== Sys2Proof/Machine/Lookup.lean ====
section
/-! DEFINITION. The lookup words LGATH, LDEDUP, LPOOL, LHAND, what they do when they complete, and the landing of hand-offs (06 R167
to R169; 13 R350 to R353). -/
namespace Sys2Proof.Machine

/-- An area of local scratch: LS-03 where it runs past it. -/
def areaFits (reg : Region) (o n : Nat) : Except Stop Unit := need (o + n ≤ reg.size) (flt .LS 3)

/-- UINT32 values of a list in memory. -/
def wordsAt (m : Memory) (a n : Nat) : List Nat := (List.range n).map fun i => memNat m (a + 4 * i) 4

/-- The touches of an area; none where it is empty. -/
def areaTouch (reg : Region) (o n : Nat) : List Touch := if n = 0 then [] else [reg.touch o n]

/-- The local scratch of a lookup operation. -/
def State.lookupRegion (s : State) (o : Op) : Region := s.scratchOf o.tid o.core

/-! ## LGATH (R350) -/

def gathWin (b : List Byte) : Nat := fieldAt b 0 2
def gathIdx (b : List Byte) : Nat := fieldAt b 4 4
def gathDst (b : List Byte) : Nat := fieldAt b 8 4

/-- Bytes from one gathered row to the next. -/
def gathPitch (d : WinDesc) : Nat := 64 * ((rowBytes (d.ext.getD 1 0) (storageBits d.fmt) + 63) / 64)

/-- The rows that an index list names, within the window's extent. -/
def gathCoords (d : WinDesc) (idx : List Nat) : List (List Nat) :=
  (idx.filter (· < d.ext.getD 0 0)).flatMap fun r => rowCoords r 1 (d.ext.getD 1 0)

/-- LGATH (R350). -/
def execLgath (g a b tag : Nat) (s : State) : Out :=
  runWord .eLookup 2 g (fun s => do
    let blk ← s.controlBlock a
    let n ← s.rx b
    let k := blk.bytes
    need (zeroBytes k 2 3 && zeroBytes k 12 63) (flt .FM 21)
    need (n.toNat ≤ 4096) (flt .FM 24)
    let d ← s.formWindow s.task.p (gathWin k)
    need (d.rank == 2) (winShape 0 0 1 d)
    need (!d.compressed) (flt .FM 10)
    need (gathIdx k % 4 == 0 && gathDst k % 64 == 0) (flt .FM 8)
    let reg := s.slotRegion false
    let size := n.toNat * gathPitch d
    areaFits reg (gathIdx k) (4 * n.toNat)
    areaFits reg (gathDst k) size
    need (d.ext.getD 1 0 * storageBits d.fmt % 8 == 0) (flt .FM 24)
    let s ← s.loadBlock blk
    let rd := areaTouch reg (gathIdx k) (4 * n.toNat)
    let wr := areaTouch reg (gathDst k) size
    s.raceEngine rd wr
    if n = 0 then return s
    let s ← s.raiseTag tag 1
    let idx := wordsAt s.mem (reg.base + gathIdx k) n.toNat
    return s.addOp (some tag) (.lgath k n.toNat)
      (rd.map readMark ++ wr.map writeMark ++ s.coordMarks d false (gathCoords d idx))) s

/-- The index list of a gather under way. -/
def State.gathList (s : State) (o : Op) (b : List Byte) (n : Nat) : List Nat :=
  wordsAt s.mem ((s.lookupRegion o).base + gathIdx b) n

/-- The checks of a gather as it starts: CP-12 for an index at or above the extent, then the leases. -/
def State.gathStart (s : State) (o : Op) (b : List Byte) (n : Nat) : Except StartFail Unit :=
  match s.window (s.taskAt o.tid).p (gathWin b) with
  | none => .error (.join noFrame)
  | some d => do
    let idx := s.gathList o b n
    needJoin (idx.all (· < d.ext.getD 0 0)) { cls := .CP, num := 12 }
    match s.leaseCheck o.tid d true false (gathCoords d idx) with
    | some k => .error (.lease k)
    | none => .ok ()

/-- What a gather writes: each row packed under 03 R68, its lines sealed anew. -/
def State.gathEffect (s : State) (o : Op) (d : WinDesc) (b : List Byte) (idx : List Nat) : Except FaultRec State :=
  let base := (s.lookupRegion o).base + gathDst b
  (idx.zipIdx).foldlM (fun s r => do
    let row ← s.getRow d r.1 (d.ext.getD 1 0)
    return s.store (base + r.2 * gathPitch d) (packRow (storageBits d.fmt) 0 (row.map (containerBits d.fmt)))) s

/-- A gather completes. -/
def State.gathDone (s : State) (o : Op) (b : List Byte) (n : Nat) : State :=
  match s.window (s.taskAt o.tid).p (gathWin b) with
  | none => s.failOp o noFrame
  | some d =>
    let reg := s.lookupRegion o
    let idx := s.gathList o b n
    let ins := linesOf (reg.base + gathIdx b) (4 * n) ++ s.coordLines d (gathCoords d idx)
    let (s, f) := s.withPoison ins (linesOf (reg.base + gathDst b) (n * gathPitch d)) [] fun s => s.gathEffect o d b idx
    s.endOp o f

/-! ## LDEDUP (R351) -/

/-- Distinct values in order of first occurrence, and each entry's place among them. -/
def dedup (l : List Nat) : List Nat × List Nat :=
  let ds := distinct l
  (ds, l.map ds.idxOf)

/-- LDEDUP (R351). -/
def execLdedup (g d a b : Nat) (s : State) : Out :=
  runWord .eLookup 1 g (fun s => do
    let x ← s.rx a
    let n ← s.rx b
    need (n.toNat ≤ 4096) (flt .FM 24)
    need (x.toNat % 4 == 0) (flt .FM 8)
    let reg := s.slotRegion false
    let k := n.toNat
    areaFits reg x.toNat (12 * k)
    s.raceCore (areaTouch reg x.toNat (4 * k)) (areaTouch reg (x.toNat + 4 * k) (8 * k))
    let s ← s.readCheck (reg.base + x.toNat) (4 * k)
    let (ds, inv) := dedup (wordsAt s.mem (reg.base + x.toNat) k)
    let s := s.store (reg.base + x.toNat + 4 * k) (ds.flatMap (natLe 4))
    let s := s.store (reg.base + x.toNat + 8 * k) (inv.flatMap (natLe 4))
    return s.wx 1 d (word ds.length)) s

/-! ## LPOOL (R352) -/

def poolRows (b : List Byte) : Nat := fieldAt b 0 4
def poolPitch (b : List Byte) : Nat := fieldAt b 4 4
def poolInv (b : List Byte) : Nat := fieldAt b 8 4
def poolPtr (b : List Byte) : Nat := fieldAt b 12 4
def poolOut (b : List Byte) : Nat := fieldAt b 16 4
def poolG (b : List Byte) : Nat := fieldAt b 20 2
def poolH (b : List Byte) : Nat := fieldAt b 22 2
def poolFmt (b : List Byte) : Nat := fieldAt b 24 1

/-- Bytes from one pooled row to the next. -/
def poolOutPitch (b : List Byte) : Nat := 64 * ((4 * poolH b + 63) / 64)

/-- The pointers of a pool. -/
def poolPtrs (m : Memory) (base : Nat) (b : List Byte) : List Nat := wordsAt m (base + poolPtr b) (poolG b + 1)

/-- The row that entry `e` of the inverse list names. -/
def poolRowAt (m : Memory) (base : Nat) (b : List Byte) (e : Nat) : Nat :=
  poolRows b + memNat m (base + poolInv b + 4 * e) 4 * poolPitch b

/-- The pointers never fall. -/
def poolRises (m : Memory) (base : Nat) (b : List Byte) : Bool :=
  let ps := poolPtrs m base b
  (List.range (poolG b)).all fun g => ps.getD g 0 ≤ ps.getD (g + 1) 0

/-- The entries between the least pointer and the greatest that lie in local scratch; none is left out where the pointers rise within
it. -/
def poolEntries (m : Memory) (reg : Region) (b : List Byte) : List Nat :=
  let ps := poolPtrs m reg.base b
  let lo := (ps.min?).getD 0
  let hi := min ((ps.max?).getD 0) ((reg.size - poolInv b) / 4)
  (List.range (hi - lo)).map (lo + ·)

/-- Bytes of a row of a pool. -/
def poolRowBytes (b : List Byte) : Nat := rowBytes (poolH b) (storageBits (poolFmt b))

/-- Each entry of every group: its row's offset. None where the pointers fall, or an entry or a row runs past local scratch: CP-12. -/
def poolGroups (m : Memory) (reg : Region) (b : List Byte) : Option (List (List Nat)) :=
  let ps := poolPtrs m reg.base b
  if poolRises m reg.base b && poolInv b + 4 * ps.getLastD 0 ≤ reg.size then
    let gs := (List.range (poolG b)).map fun g =>
      (List.range (ps.getD (g + 1) 0 - ps.getD g 0)).map fun i => poolRowAt m reg.base b (ps.getD g 0 + i)
    if gs.all fun g => g.all fun o => o + poolRowBytes b ≤ reg.size then some gs else none
  else none

/-- LS-03: the inverse list that rising pointers reach, or a row that it names, runs past local scratch (log entry 69). -/
def poolAreasFit (m : Memory) (reg : Region) (b : List Byte) : Bool :=
  poolInv b ≤ reg.size && poolRows b ≤ reg.size &&
    (!poolRises m reg.base b ||
      (poolInv b + 4 * (poolPtrs m reg.base b).getLastD 0 ≤ reg.size &&
        (poolEntries m reg b).all fun e => poolRowAt m reg.base b e + poolRowBytes b ≤ reg.size))

/-- The areas a pool may read (07 R177): pointers, inverse list, rows, so far as they lie in local scratch. -/
def poolReads (m : Memory) (reg : Region) (b : List Byte) : List (Nat × Nat) :=
  let es := poolEntries m reg b
  let rows := (distinct (es.map (poolRowAt m reg.base b))).filter (· < reg.size)
  (poolPtr b, 4 * (poolG b + 1)) :: (poolInv b + 4 * es.headD 0, 4 * es.length) ::
    rows.map fun o => (o, min (poolRowBytes b) (reg.size - o))

/-- LPOOL (R352). -/
def execLpool (g a op tag : Nat) (s : State) : Out :=
  runWord .eLookup 2 g (fun s => do
    let blk ← s.controlBlock a
    let b := blk.bytes
    need (zeroBytes b 25 63) (flt .FM 21)
    need (isFloat (poolFmt b)) (flt .FM 15)
    need (1 ≤ poolG b && poolG b ≤ 4096 && 1 ≤ poolH b && poolH b ≤ 4096) (flt .FM 24)
    need (poolRows b % 64 == 0 && poolPitch b % 64 == 0 && poolOut b % 64 == 0 && poolInv b % 4 == 0 && poolPtr b % 4 == 0)
      (flt .FM 8)
    let reg := s.slotRegion false
    areaFits reg (poolPtr b) (4 * (poolG b + 1))
    areaFits reg (poolOut b) (poolG b * poolOutPitch b)
    need (poolAreasFit s.mem reg b) (flt .LS 3)
    let s ← s.loadBlock blk
    let rd := (poolReads s.mem reg b).flatMap fun r => areaTouch reg r.1 r.2
    let wr := areaTouch reg (poolOut b) (poolG b * poolOutPitch b)
    s.raceEngine rd wr
    let s ← s.raiseTag tag 1
    return s.addOp (some tag) (.lpool b op) (rd.map readMark ++ wr.map writeMark)) s

/-- The pool of one column of a group (06 R168). -/
def poolValue (op : Nat) (xs : List Num) : Num :=
  if op = 2 then (match xs with
    | [] => .inf true
    | y :: ys => ys.foldl (pickNum true) y)
  else if xs.isEmpty then .zero
  else
    let sum := rne32 (exactSum xs)
    if op = 1 then rne32 (sum.div (.ofNat xs.length)) else sum

/-- One pooled row as FP32 codes. -/
def poolRow (m : Memory) (base : Nat) (b : List Byte) (op : Nat) (offs : List Nat) : List Nat :=
  let w := storageBits (poolFmt b) / 8
  (List.range (poolH b)).map fun h =>
    encodeFmt 0x09 0 false 0 (poolValue op (offs.map fun o => decodeFmt (poolFmt b) (memNat m (base + o + h * w) w)))

/-- A pool completes. -/
def State.poolDone (s : State) (o : Op) (b : List Byte) (op : Nat) : State :=
  let reg := s.lookupRegion o
  match poolGroups s.mem reg b with
  | none => s.failOp o { cls := .CP, num := 12 }
  | some gs =>
    let ins := (poolReads s.mem reg b).flatMap fun r => linesOf (reg.base + r.1) r.2
    let base := reg.base + poolOut b
    let rows := gs.map (poolRow s.mem reg.base b op)
    let (s, f) := s.withPoison ins (linesOf base (poolG b * poolOutPitch b)) [] fun s =>
      .ok ((rows.zipIdx).foldl (fun s r => s.store (base + r.2 * poolOutPitch b) (r.1.flatMap (natLe 4))) s)
    s.endOp o f

/-! ## LHAND (06 R169; 13 R353) -/

def handSeq (b : List Byte) : Nat := fieldAt b 0 3
def handMember (b : List Byte) : Nat := fieldAt b 4 1
def handTag (b : List Byte) : Nat := fieldAt b 5 1
def handTo (b : List Byte) : Nat := fieldAt b 8 4
def handFrom (b : List Byte) : Nat := fieldAt b 12 4
def handBytes (b : List Byte) : Nat := fieldAt b 16 4

/-- Hand-offs a lookup core holds. -/
def State.handOffs (s : State) (core : Nat) : Nat :=
  (s.ops.filter fun o => o.core == core && (match o.kind with
    | .lhand .. => true
    | _ => false)).length

/-- LHAND (R353). -/
def execLhand (g a tag : Nat) (s : State) : Out :=
  runWord .eLookup 2 g (fun s => do
    let blk ← s.controlBlock a
    let b := blk.bytes
    need (zeroBytes b 3 3 && handMember b < 32 && handTag b < 64 && zeroBytes b 6 7 && zeroBytes b 20 63) (flt .FM 21)
    need (handTo b % 64 == 0 && handFrom b % 64 == 0 && handBytes b % 64 == 0) (flt .FM 8)
    need (64 ≤ handBytes b && handBytes b ≤ 262144) (flt .FM 24)
    let reg := s.slotRegion false
    areaFits reg (handFrom b) (handBytes b)
    let s ← s.loadBlock blk
    let rd := areaTouch reg (handFrom b) (handBytes b)
    s.raceEngine rd []
    let s ← s.raiseTag tag 1
    need (s.handOffs s.ctx.core < 16) (.block (.handOffs s.ctx.core))
    return s.addOp (some tag) (.lhand b [] false) (rd.map readMark)) s

/-- A fault of a hand-off for the receiving team's join of its tag; the landing is discarded (R353; 07 R179). -/
def State.handFault (s : State) (o : Op) (t : Task) (core tag : Nat) (f : FaultRec) : State :=
  let s := s.lowerTag t.tid core tag
  let t := s.taskAt t.tid
  (s.setTask t.tid { t with tagFaults := t.tagFaults ++ [⟨o.id, core, tag, { f with fcmd := fcmdOf o }⟩] }).finishOp o

/-- A hand-off in place in the receiving team's cluster memory (06 R169): marked until the team's join. -/
def State.handLand (s : State) (o : Op) (t : Task) (core : Nat) (b : List Byte) : State :=
  let reg := s.clusterOf t.tid
  let n := handBytes b
  let touch := reg.touch (handTo b) n
  match ({ s with ops := s.ops.filter (·.id != o.id) } : State).landingMet t.tid o.id touch with
  | some m => s.handFault o t core (handTag b) (rcFault 5 m)
  | none =>
    let from_ := (s.lookupRegion o).base + handFrom b
    let (s, f) := s.withPoison (linesOf from_ n) (linesOf (reg.base + handTo b) n) [] fun s =>
      .ok (s.store (reg.base + handTo b) (memRead s.mem from_ n))
    let s := s.lowerTag t.tid core (handTag b)
    let t := s.taskAt t.tid
    (s.setTask t.tid { t with landed := t.landed ++ [⟨core, handTag b, writeMark touch⟩] }).endOp o f

/-- HAND_OFF_LANDING (06 R169): landed, held while the tag's count is 0 or the team is evacuated, or discarded. -/
def execHandOffLanding (op : Nat) (s : State) : Out :=
  match s.opAt op with
  | none => notNow "HAND_OFF_LANDING"
  | some o =>
    match o.kind with
    | .lhand b bs held =>
      match s.bySeq (s.taskAt o.tid).p (handSeq b) with
      | none => .next (s.finishOp o)
      | some t =>
        if t.size ≤ handMember b then .next (s.finishOp o)
        else
          let core := t.cores.getD (handMember b % max 1 t.cores.length) 0
          let away : Bool := match t.state with
            | .hard _ | .waitLeases | .queued => true
            | _ => false
          if away || t.tagCount core (handTag b) = 0 then
            if held then notNow "HAND_OFF_LANDING"
            else .next (s.modOp op fun o => { o with kind := .lhand b bs true })
          else if t.clusterSize < handTo b + handBytes b then .next (s.handFault o t core (handTag b) { cls := .LS, num := 3 })
          else .next ((s.actFor o).handLand o t core b)
    | _ => notNow "HAND_OFF_LANDING"

end Sys2Proof.Machine
end

