-- ==== Sys2Proof/Machine/Engines.lean ====
section
/-! DEFINITION. The start and the completion of an engine operation, whichever engine runs it, and the conditions of blocks (01 R14,
R27; 02 R63; 06 R152 to R156; 07 R176 to R179). -/
namespace Sys2Proof.Machine

/-- The follow-on a copy carries is discarded with it (06 R156). -/
def State.dropFollow (s : State) (c : CopyCmd) : State :=
  match c.follow.bind s.opAt with
  | some f => if f.carried then s.finishOp f else s
  | none => s

/-- The follow-on is due: it waits at the copy engine for its place in the matrix queue (06 R156). -/
def State.releaseFollow (s : State) (c : CopyCmd) : State :=
  match c.follow.bind s.opAt with
  | some f =>
    if f.carried then
      let k := s.coreAt f.core
      (s.modOp f.id fun o => { o with carried := false }).setCore f.core { k with held := k.held ++ [f.id] }
    else s
  | none => s

/-- A copy ends with a fault found after its issue: it completes, its follow-on goes with it. -/
def State.failCopy (s : State) (o : Op) (c : CopyCmd) (f : FaultRec) : State := (s.dropFollow c).failOp o f

/-- Marked as started. -/
def State.startOp (s : State) (o : Op) : State := s.modOp o.id fun o => { o with started := true }

/-- A start with checks: RC-04 first, then the command's own. -/
def State.startWith (s : State) (o : Op) (check : Except StartFail Unit) : State :=
  match s.windowRace o with
  | some f => s.failOp o f
  | none =>
    match check with
    | .ok _ => s.startOp o
    | .error e => s.startFailed o e

/-- The operation waits to start, and its team's engines run (01 R32). -/
def State.mayStartOp (s : State) (o : Op) : Bool := !o.started && !o.carried && (s.taskAt o.tid).served

/-- COPY_START (06 R152; 07 R178; 13 R342): an engine operation is checked and starts. -/
def execCopyStart (op : Nat) (s : State) : Out :=
  match s.opAt op with
  | none => notNow "COPY_START"
  | some o =>
    if !s.mayStartOp o then notNow "COPY_START"
    else
      let s := s.actFor o
      let p := (s.taskAt o.tid).p
      match o.kind with
      | .copy c =>
        match s.windowRace o with
        | some f => .next (s.failCopy o c f)
        | none => .next (s.startOp o)
      | .tile _ | .lpool .. => .next (s.startOp o)
      | .dsend b .. => .next (s.startWith o (s.accessLeases o.tid (s.sendAccess p b)))
      | .dcomb b => .next (s.startWith o (s.accessLeases o.tid (s.combAccess p b)))
      | .lgath b n => .next (s.startWith o (s.gathStart o b n))
      | _ => notNow "COPY_START"

/-- A copy completes: its bytes land, its follow-on is due (06 R152 to R157). -/
def State.copyEnds (s : State) (o : Op) (c : CopyCmd) : State :=
  match s.copyPlan (s.taskAt o.tid).p o.tid o.cid o.core c with
  | none => s.failCopy o c noFrame
  | some p =>
    match s.copyDone p c.draws c.rows with
    | (s, none) => (s.releaseFollow c).finishOp o
    | (s, some f) => if f.cls = .AC then (s.releaseFollow c).failOp o f else s.failCopy o c f

/-- A tile-engine form completes (12 R312 to R317). -/
def State.tileEnds (s : State) (o : Op) (c : TileCmd) : State :=
  let outs := linesOf (tileAddr o.cid c.d 0) (layOf c.twD).size ++ (match c.form with
    | .prune e => linesOf (tileAddr o.cid e 0) (layOf c.twE).size
    | _ => [])
  let (s, f) := s.withPoison (linesOf (tileAddr o.cid c.a 0) (layOf c.twA).size) outs
    [(8 * tileAddr o.cid c.d 0, 8 * (layOf c.twD).earea)] fun s => .ok (s.tileEffect o.cid c)
  s.endOp o f

/-- COPY_COMPLETION (02 R63): the last effect of an engine operation lands and its tag's count falls. A write of it waits for what a
release before it covers (07 R186), a dispatch send for all that comes before it (07 R183; log entry 9). -/
def execCopyCompletion (op : Nat) (s : State) : Out :=
  match s.opAt op with
  | none => notNow "COPY_COMPLETION"
  | some o =>
    match o.kind with
    | .frecv t w ch => match s.receiveBuffered o t w ch with
      | some s => .next s
      | none => notNow "COPY_COMPLETION"
    | k =>
      if !(s.taskAt o.tid).served || !o.started || !s.letsWrite o then notNow "COPY_COMPLETION"
      else
        let s := s.actFor o
        match k with
        | .copy c => .next (s.copyEnds o c)
        | .tile c => .next (s.tileEnds o c)
        | .dsend b rows fmt bad n _ =>
          if (s.undone o.before).isEmpty then .next (s.sendDone o b rows fmt bad n) else notNow "COPY_COMPLETION"
        | .dcomb b => .next (s.combDone o b)
        | .lgath b n => .next (s.gathDone o b n)
        | .lpool b k => .next (s.poolDone o b k)
        | _ => notNow "COPY_COMPLETION"

/-! ## Blocks (01 R14) -/

/-- The array of a team on a core: the core's own, or the one saved while the team is off it (01 R25). -/
def State.teamArr (s : State) (t : Task) (core : Nat) : ArrayState := (amGet t.saved core).getD (s.coreAt core).arr

/-- A draining command of the team names the queue (06 R146). -/
def State.drainingOf (s : State) (tid core q : Nat) : Bool :=
  s.ops.any fun o => o.core == core && o.tid == tid &&
    (match o.kind with
     | .matrix (.mmul c) _ => (match c.drain with | some d => d.q == q | none => false)
     | .matrix (.mdrain d) _ => d.q == q
     | _ => false)

/-- Whether the condition of a block still stands for a context. -/
def State.blockHolds (s : State) (c : Ctx) (b : Block) : Bool :=
  let t := s.taskAt c.tid
  match b with
  | .matrixQueue core => !s.matrixRoom c.tid core
  | .copyPlaces core => copyPlacesOf core ≤ s.placesTaken core
  | .yokeQueue span => 64 ≤ (s.yokeQueue span).length
  | .yokeOwn cid => s.yokeBusy cid
  | .spawnQueue p n => 1024 < s.spawnQueue p + n
  | .dispatchWaits die => 256 ≤ s.waitsOf die
  | .handOffs core => 16 ≤ s.handOffs core
  | .tagsAny m => t.tagsWord c.core &&& m == 0
  | .tagsAll m => t.tagsWord c.core &&& m != m
  | .pop q n => ((s.teamArr t c.core).queues.getD q .empty).slabs.length < n && s.drainingOf c.tid c.core q
  | .barrier b _ => (t.bar b).arrived.contains c.member

/-- The block of a context that is in force, with when it began. -/
def State.blockedSince (s : State) (c : Ctx) : Option Nat :=
  match c.block with
  | some r => if s.blockHolds c r.why then some r.since else none
  | none => none

/-- A context is ready: active, not ended, its next bundle not known to block. -/
def State.ctxReady (s : State) (cid : Nat) : Bool :=
  match amGet s.ctxs cid with
  | none => false
  | some c => !c.ended && (s.blockedSince c).isNone

end Sys2Proof.Machine
end

