-- ==== Sys2Proof/Machine/Sched.lean ====
section
/-! DEFINITION. The task scheduler: the switch of a core's context, stabling, the return of a stabled team, the placing of tasks
(01 R13 to R18, R22 to R29, R38; 02 R43, R45, R46; 04 R94, R95; 19 R408, R419; 22 R458 to R460). -/
namespace Sys2Proof.Machine

/-- The first task of paddock `p` with TASKSEQ `seq` that satisfies `ok`; a copy launch answers to 0. -/
def State.findTask (s : State) (p seq : Nat) (ok : Task → Bool) : Option Task :=
  (s.tasks.find? fun e => e.2.p == p && e.2.seq == seq && ok e.2).map (·.2)

/-! ## The current context (01 R13, R15) -/

/-- The context may issue: its team runs, is not halted for the debugger, and the context has not ended. -/
def State.ctxIssues (s : State) (cid : Nat) : Bool :=
  match amGet s.ctxs cid with
  | none => false
  | some c => (s.taskAt c.tid).state == .running && (s.taskAt c.tid).debugHalt.isNone && !c.ended

/-- The context in a slot may issue. -/
def State.slotLive (s : State) (core slot : Nat) : Bool := ((s.coreAt core).slots.getD slot none).any s.ctxIssues

/-- The context in a slot that may issue and whose next bundle would not block (R14). -/
def State.slotReady (s : State) (core slot : Nat) : Bool :=
  ((s.coreAt core).slots.getD slot none).any fun c => s.ctxIssues c && s.ctxReady c

/-- The first ready slot after the current one, the current one last (R15). -/
def State.switchTo (s : State) (core : Nat) : Option Nat :=
  ((List.range 4).map fun i => ((s.coreAt core).cur + 1 + i) % 4).find? (s.slotReady core)

/-- The core leaves its current context (R13, R15): it has blocked or ended, or there is none, or its count has run out and another is
ready. -/
def State.switchDue (s : State) (core : Nat) : Bool :=
  let k := s.coreAt core
  k.due || !s.slotLive core k.cur || (1024 ≤ k.cnt && (List.range 4).any fun n => n != k.cur && s.slotReady core n)

/-- CONTEXT_SWITCH (R15): one cycle, after which the count starts anew. -/
def execContextSwitch (core : Nat) (s : State) : Out :=
  match s.switchTo core with
  | none => notNow "CONTEXT_SWITCH"
  | some n =>
    if s.switchDue core then .next { s.setCore core { s.coreAt core with cur := n, cnt := 0, due := false } with cycle := s.cycle + 1 }
    else notNow "CONTEXT_SWITCH"

/-! ## Leaving and taking the slots (01 R16, R25, R28, R31; 02 R46) -/

/-- The number of members on team core `j` of `k`. -/
def Task.onCore (t : Task) (k j : Nat) : Nat := (t.size + k - 1 - j) / k

/-- The slots of team core `j`: member m runs on core m mod k, in slot m div k (R16). -/
def Task.slotsOf (t : Task) (k j : Nat) : List (Option Nat) :=
  (List.range 4).map fun n => if n * k + j < t.size then some (t.tid * 32 + n * k + j) else none

/-- Where the save region of team core `j` keeps the lane slices, the resume records, the array (log entry 88). -/
def laneSave (tid j : Nat) : Nat := saveAddr tid j 0
def recordSave (tid j : Nat) : Nat := saveAddr tid j (2 ^ 18)
def arraySave (tid j : Nat) : Nat := saveAddr tid j (2 ^ 20)

/-- The bytes of a weight plane (01 R25): its type word, its storage image, its check columns, whether it is poisoned. -/
def Plane.bytes (p : Plane) : List Byte :=
  natLe 8 p.tw.toNat ++ memRead p.img 0 (layOf p.tw).size ++ p.chk.flatMap (fun c => natLe 6 c.1.toNat ++ natLe 6 c.2.toNat) ++
    natLe 1 p.bad.toNat

/-- Those of accumulators, with what goes with them. -/
def sumBytes (acc : List (List (BitVec 48))) (int : Bool) (sat : List (List Bool)) (chk : List (BitVec 48 × BitVec 48)) : List Byte :=
  natLe 1 int.toNat ++ acc.flatMap (·.flatMap fun v => natLe 6 v.toNat) ++ sat.flatMap (·.flatMap fun b => natLe 1 b.toNat) ++
    chk.flatMap fun c => natLe 6 c.1.toNat ++ natLe 6 c.2.toNat

/-- Those of a result queue: its status, then each slab with its sizes. -/
def RQueue.bytes (q : RQueue) : List Byte :=
  natLe 1 q.slabs.length ++ natLe 1 (q.nan.toNat + 2 * q.sat.toNat + 4 * q.retried.toNat) ++ natLe 4 q.drains ++
    q.slabs.flatMap fun s => natLe 1 s.fmt ++ natLe 1 s.nr ++ natLe 1 s.nc ++ natLe 1 s.bad.toNat ++ s.vals.flatMap (·.flatMap (natLe 4))

/-- What is saved of an array (01 R25, R28): both planes, the accumulators and the base store, the planned state, the commands queued,
the result queues. -/
def ArrayState.bytes (a : ArrayState) : List Byte :=
  a.cur.bytes ++ a.shadow.bytes ++ sumBytes (flipAcc a.acc a.flips) a.accInt a.accSat a.chk ++ sumBytes a.base a.baseInt a.baseSat a.baseChk ++
    natLe 8 a.planTw.toNat ++ natLe 8 a.planShadow.toNat ++ natLe 1 (a.planValid.toNat + 2 * a.planInt.toNat) ++ natLe 2 a.planM ++
    natLe 2 a.planN ++ a.mq.flatMap (natLe 8) ++ a.queues.flatMap RQueue.bytes

/-- The state of an array written to the save region of the team's core; one that holds nothing has none. -/
def State.saveArray (s : State) (tid j : Nat) (a : ArrayState) : State :=
  if a == .empty then s else s.lay (arraySave tid j) a.bytes

/-- The resume record of a copy (06 R158): the 32 engine registers, the two bases, the tag, the rows completed. -/
def resumeRecord (o : Op) (c : CopyCmd) : List Byte :=
  c.ce.flatMap (fun w => natLe 8 w.toNat) ++ natLe 8 c.srcBase.toNat ++ natLe 8 c.dstBase.toNat ++ natLe 8 (o.tag.getD 0) ++
    natLe 8 c.rows ++ List.replicate 32 0

/-- The resume records of a team's copies on a core, in the order of issue. -/
def State.resumeRecords (s : State) (tid core : Nat) : List Byte :=
  s.ops.flatMap fun o => match o.kind with
    | .copy c => if o.tid = tid ∧ o.core = core ∧ o.started then resumeRecord o c else []
    | _ => []

/-- At a halt they are written to the save region of each core (06 R158; 01 R32). -/
def State.saveRecords (s : State) (tid : Nat) : State :=
  (s.taskAt tid).cores.zipIdx.foldl (fun s cj =>
    let r := s.resumeRecords tid cj.1
    if r.isEmpty then s else (s.actAs (unitOfCore cj.1) tid).lay (recordSave tid cj.2) r) s

/-- A wait for room in a queue, kept as how long it has lasted while the team is off its cores (06 R146). -/
def MProg.turnWait (g : MProg) (now : Nat) : MProg := { g with waitSince := g.waitSince.map (now - ·) }

/-- The waits of a team's drains stop or go on. -/
def State.turnWaits (s : State) (tid : Nat) : State :=
  { s with ops := s.ops.map fun o => match o.kind with
    | .matrix c g => if o.tid = tid then { o with kind := .matrix c (g.turnWait s.cycle) } else o
    | _ => o }

/-- A chunk that streams as its team leaves is abandoned (01 R32): what soft errors did to its accumulators goes with it. -/
def State.abandonChunk (s : State) (core : Nat) : State :=
  if (s.coreAt core).arr.mq.any (streaming s) then s.modArr core fun a => { a with flips := [] } else s

/-- The team leaves its slots: its dirty register-cache lines go home, its contexts to shadow storage, its arrays, queues and lane
slices to its save region. -/
def State.park (s : State) (tid : Nat) (st : TaskState) : State :=
  let s := (s.taskAt tid).cores.foldl State.abandonChunk (s.flushTeam tid)
  let t := s.taskAt tid
  let saved := t.cores.foldl (fun m c => amSet m c (s.coreAt c).arr) t.saved
  let s := if t.slice = 0 then s
    else t.cores.zipIdx.foldl (fun s cj => s.copyLines (laneAddr cj.1 0 0) (laneSave tid cj.2) 131072) s
  let s := t.cores.zipIdx.foldl (fun s cj => (s.actAs (unitOfCore cj.1) tid).saveArray tid cj.2 (s.coreAt cj.1).arr) s
  let s := t.cores.foldl (fun s c =>
    s.setCore c { s.coreAt c with slots := List.replicate 4 none, cur := 0, cnt := 0, due := false, arr := .empty }) s
  (s.setTask tid { t with state := st, saved := saved }).turnWaits tid

/-- The team takes its slots, with what is saved of its arrays. Slot 0 is current on each of its cores, with a count of 0 (log entry 3). -/
def State.takeSlots (s : State) (tid : Nat) : State :=
  let t := s.taskAt tid
  let s := t.cores.zipIdx.foldl (fun s cj => s.setCore cj.1 { s.coreAt cj.1 with
    slots := t.slotsOf t.cores.length cj.2, cur := 0, cnt := 0, due := false, arr := (amGet t.saved cj.1).getD .empty }) s
  (s.setTask tid { t with state := .running, saved := [], fresh := true }).turnWaits tid

/-- The errors that a context met in shadow storage are found as it is read: corrected, or the team may not run on with it and ends
with AC-02 (23 R475, R476; log entry 133). -/
def State.readShadow (s : State) (tid : Nat) : State :=
  if s.latent.isEmpty then s
  else
    let of (l : Nat) : Bool := 2 ^ 142 + tid * 2048 ≤ l && l < 2 ^ 142 + (tid + 1) * 2048
    let es := s.latent.filter fun e => of e.1
    let s := es.foldl (fun s e => s.settleLine e.1) s
    if es.any fun e => s.poison.contains e.1 then
      ({ s with poison := s.poison.filter fun l => !of l }).endTask tid { cls := .AC, num := 2 }
    else s

/-- The team is back in its slots, everything saved restored before its first bundle. -/
def State.unpark (s : State) (tid : Nat) : State :=
  let t := s.taskAt tid
  let s := if t.slice = 0 then s
    else t.cores.zipIdx.foldl (fun s cj => s.copyLines (laneSave tid cj.2) (laneAddr cj.1 0 0) 131072) s
  (s.takeSlots tid).readShadow tid

/-- A team that is placed, or resumed, is the most recently placed (R22); its seats are its cores (R12). -/
def State.stampPlaced (s : State) (tid : Nat) : State :=
  let t := s.taskAt tid
  { s.setTask tid { t with placedAt := s.nextOp, seat := t.cores } with nextOp := s.nextOp + 1 }

/-! ## What a halt does to the engines (01 R32) -/

/-- The operation is a YMATCH. -/
def Op.isMatch (o : Op) : Bool :=
  match o.kind with
  | .yoke c => (match c.kind with
    | .match_ _ => true
    | _ => false)
  | _ => false

/-- A YMATCH that the unit executes as a halt is asked for is abandoned and leaves it; it enters the queue again when the team is back
(R32). -/
def State.abandonMatch (s : State) (tid : Nat) : State :=
  let ids := (s.ops.filter fun o => o.tid == tid && o.started && o.isMatch).map (·.id)
  let t := s.taskAt tid
  let back (o : Op) : Op := if ids.contains o.id then { o with started := false } else o
  let s := { s with yokes := s.yokes.map fun (e : Nat × List Nat) => (e.1, e.2.filter fun k => !ids.contains k), ops := s.ops.map back }
  s.setTask tid { t with redo := t.redo ++ ids }

/-- The copies of a team that run stop at row boundaries, each with the rows it has completed (06 R158). -/
def State.haltCopies (s : State) (tid : Nat) : State :=
  (s.ops.filter fun o => o.tid == tid && o.started && s.letsWrite o).foldl (fun s o =>
    match o.kind with
    | .copy c =>
      match s.copyPlan (s.taskAt tid).p tid o.cid o.core c with
      | some pl =>
        let (s, c) := (s.actFor o).haltCopy pl c
        s.modOp o.id fun o => { o with kind := .copy c }
      | none => s
    | _ => s) s

/-- The engines of a team halt: the copies stop, their resume records are written (01 R32). -/
def State.haltEngines (s : State) (tid : Nat) : State := (s.haltCopies tid).saveRecords tid

/-! ## Stabling (01 R24 to R28) -/

/-- When the earliest block in force of a team began, if every member that has not ended is blocked (R24). -/
def State.teamBlocked (s : State) (t : Task) : Option Nat :=
  let cs := (t.cids.map s.ctxAt).filter fun c => !c.ended
  let bs := cs.filterMap s.blockedSince
  if bs.length < cs.length then none else bs.min?

/-- STABLING (R24): the team stops issue and starts its move. -/
def execStabling (p seq : Nat) (s : State) : Out :=
  match s.findTask p seq fun t => t.state == .running && t.xform.isNone && t.lookup.isNone && t.debugHalt.isNone with
  | none => notNow "STABLING"
  | some t =>
    let limit := t.stableWait.toNat % 2 ^ 32
    match s.teamBlocked t with
    | none => notNow "STABLING"
    | some since =>
      if limit != 0 && limit < s.cycle - since && t.cores.all fun c => (s.coreAt c).arr.mq.isEmpty then
        .next (s.setTask t.tid { t with state := .stabling none })
      else notNow "STABLING"

/-- A command of the control ring finishes (21 R437): RESULT and RETVAL, then DONE, then the interrupt where it asks for one. -/
def State.finishCtl (s : State) (slot : Nat) (result ret : Nat) : State :=
  let a := hostAddr (s.ctl.base.toNat + 64 * slot)
  let flags := memNat s.mem (a + 1) 1
  let m := memPut (memPut s.mem (a + 2) 2 result) (a + 40) 8 ret
  let s := { s with mem := memPut m (a + 1) 1 (flags - flags % 2 + 1) }
  if flags / 2 % 2 = 1 then s.interrupt 0 0 else s

/-- The pre-emption of a task is over. -/
def State.endPreempt (s : State) (tid result : Nat) : State :=
  let done := s.preempts.filter fun r => r.tid == tid
  let s := { s with preempts := s.preempts.filter fun r => r.tid != tid }
  done.foldl (fun s r => match r.slot with
    | some k => s.finishCtl k result 0
    | none => s) s

/-- A hard pre-emption of the task is under way. -/
def State.hardDue (s : State) (tid : Nat) : Bool := s.preempts.any fun r => r.tid == tid && r.hard

/-- STABLING_MOVE_COMPLETE (R27, R35): the team is in shadow storage; a soft pre-emption asked for meanwhile has no further effect, a
hard one goes on. -/
def execStablingMoveComplete (p seq : Nat) (s : State) : Out :=
  match s.findTask p seq fun t => match t.state with
    | .stabling _ => true
    | _ => false with
  | none => notNow "STABLING_MOVE_COMPLETE"
  | some t =>
    let w := match t.state with
      | .stabling w => w
      | _ => none
    if s.hardDue t.tid then .next ((s.haltEngines t.tid).park t.tid (.hard false))
    else .next ((s.park t.tid (.stabled w)).endPreempt t.tid 0)

/-- The teams in the slots of a team's cores. -/
def State.occupants (s : State) (t : Task) : List Nat :=
  ((t.cores.flatMap fun c => (s.coreAt c).slots.filterMap id).map fun cid => (s.ctxAt cid).tid).dedup

/-- A member of the task has a bundle still to issue. -/
def State.live (s : State) (t : Task) : Bool := t.cids.any fun cid => !(s.ctxAt cid).ended

/-- The number of the wake with which a team waits to come back; one whose members have all ended waits for nothing (log entry 83). -/
def State.wakeOf (s : State) (t : Task) : Option Nat :=
  match t.state with
  | .stabled w => if s.live t then w else none
  | _ => none

/-- The team waits for its return or, having taken its slots, for its first bundle (R29). -/
def State.comes (s : State) (t : Task) : Bool :=
  match t.state with
  | .running => t.fresh && t.debugHalt.isNone && s.live t
  | _ => (s.wakeOf t).isSome

/-- Whether a woken team stands before wake `w` for a core of `t`. -/
def State.earlierWake (s : State) (t : Task) (w : Nat) : Bool :=
  s.tasks.any fun e => (s.wakeOf e.2).any (· < w) && e.2.cores.any t.cores.contains

/-- An occupant can be displaced: it runs, is not halted for the debugger (13 R356), and is not itself a team whose return is awaited
(R29; log entry 83). -/
def State.mayMove (s : State) (t : Task) : Bool := t.state == .running && t.debugHalt.isNone && !s.comes t

/-- The woken team back in its slots; an occupant is displaced and counts as a stabled team whose wake has fired (R28). None where
an earlier wake stands before it, or an occupant may not be displaced. -/
def State.returnTeam (s : State) (t : Task) : Option State :=
  match s.wakeOf t with
  | some w =>
    let os := s.occupants t
    if s.earlierWake t w || !os.all (fun o => s.mayMove (s.taskAt o)) then none
    else
      let s := os.foldl (fun s o => { s.park o (.stabled (some s.nextOp)) with nextOp := s.nextOp + 1 }) s
      some (s.unpark t.tid)
  | none => none

/-- TEAM_RETURN (R28). -/
def execTeamReturn (p seq : Nat) (s : State) : Out :=
  match (s.findTask p seq fun _ => true).bind s.returnTeam with
  | none => notNow "TEAM_RETURN"
  | some s => .next s

/-- The tasks with the wakes that have fired numbered from `n`, and the next number: wakes of one step fire in the order of the list,
that of rising task number (log entry 128). -/
def markWakes (woken : Task → Bool) (n : Nat) : AMap Task → AMap Task × Nat
  | [] => ([], n)
  | (k, t) :: m =>
    match t.state, woken t with
    | .stabled none, true =>
      let r := markWakes woken (n + 1) m
      ((k, { t with state := .stabled (some n) }) :: r.1, r.2)
    | .stabling none, true =>
      let r := markWakes woken (n + 1) m
      ((k, { t with state := .stabling (some n) }) :: r.1, r.2)
    | _, _ =>
      let r := markWakes woken n m
      ((k, t) :: r.1, r.2)

/-- A member of the task that has not ended no longer waits. -/
def State.memberAwake (s : State) (t : Task) : Bool :=
  t.cids.any fun cid => !(s.ctxAt cid).ended && (s.blockedSince (s.ctxAt cid)).isNone

/-- The wakes that have fired are recorded: those of stabled teams, and of teams on their way to shadow storage, a member of which
no longer waits (R27). -/
def State.fireWakes (s : State) : State :=
  let r := markWakes s.memberAwake s.nextOp s.tasks
  { s with tasks := r.1, nextOp := r.2 }

/-! ## Where a team may go (01 R16, R26; 02 R43, R45; 04 R94; 22 R458 to R460) -/

/-- A budget rounded up to 64 KiB. -/
def roundRegion (n : Nat) : Nat := (n + 65535) / 65536 * 65536

/-- Bytes of the save region on a core with `n` members: what the descriptor declares beyond the device's minimum, which holds the
members' parts of the lane slices and a resume record for each copy place (R25; 02 R46; 06 R158; log entry 80). -/
def Task.saveNeed (t : Task) (n : Nat) : Nat := t.save + 16 * t.slice * n + 320 * copyPlacesOf 0

/-- Bytes that `n` members take in the scratchpad of a core: the region, tile and run homes, stack regions, the save region. -/
def Task.coreNeed (t : Task) (n : Nat) : Nat :=
  roundRegion t.scratchBudget + n * (t.tiles * 32768 + 128 + 16 * 6272 + 8192) + t.saveNeed n

/-- The task's budgets can be met at all; else LS-05 (R45, R94, R419). -/
def Task.fits (t : Task) : Bool :=
  let n := t.onCore (min t.size 8) 0
  let data : Bool := t.nodata || t.code.dataLen ≤ t.scratchBudget
  match t.lookup with
  | some _ => t.scratchBudget ≤ 253952 && data
  | none => data && t.slice * n ≤ 8192 && t.coreNeed n ≤ 1572864 && roundRegion t.clusterBudget ≤ 6291456

/-- The cluster is in the paddock's mask, and was as the last scheduling round began (R461). -/
def Paddock.offered (d : Paddock) (cl : Nat) : Bool := d.clmask.getLsbD cl && d.offer.getLsbD cl

/-- The enabled paddocks that have a cluster. -/
def State.sharers (s : State) (cl : Nat) : List Nat := (s.paddocks.filter fun e => e.2.en && e.2.offered cl).map (·.1)

/-- The paddock that may place teams on a cluster: its only one, or the holder (R460; at first the lowest sharer). -/
def State.holderOf (s : State) (cl : Nat) : Option Nat :=
  let ps := s.sharers cl
  match amGet s.holders cl with
  | some (h, _) => if 2 ≤ ps.length && ps.contains h then some h else ps.head?
  | none => ps.head?

/-- The paddock's teams may run on a cluster. -/
def State.mayUse (s : State) (p cl : Nat) : Bool :=
  (s.paddockAt p).offered cl && (s.holderOf cl).all (· == p)

/-- Teams whose homes lie on a core. -/
def State.residents (s : State) (core : Nat) : List Task := (s.tasks.filter fun e => e.2.cores.contains core).map (·.2)

/-- The lowest multiple of 64 KiB at which `size` bytes are free below `limit`; `fuel` bounds the search. -/
def firstFit (limit size : Nat) (taken : List (Nat × Nat)) : Nat → Nat → Option Nat
  | 0, _ => none
  | fuel + 1, b =>
    if limit < b + size then none
    else if taken.all fun r => b + size ≤ r.1 || r.1 + r.2 ≤ b then some b
    else firstFit limit size taken fuel (b + 65536)

/-- The base of a scratch region for team core `j` of `k` on a core, where the core can take it (R26): shadow storage holds the new
task's contexts beside those of every team whose homes lie there, members that have ended among them (log entry 139). -/
def State.coreSite (s : State) (t : Task) (k j core : Nat) : Option Nat :=
  let rs := s.residents core
  let n := t.onCore k j
  let held (r : Task) : Nat := r.onCore r.cores.length (r.coreIdx core)
  let woken (r : Task) : Bool := (s.wakeOf r).isSome
  if s.ready.testBit core && (s.coreAt core).slots.all (·.isNone) && rs.all (fun r => r.p == t.p && !woken r) &&
      (rs.isEmpty || (rs.map held).sum + n ≤ 8) && (rs.map fun r => r.coreNeed (held r)).sum + t.coreNeed n ≤ 1572864 then
    firstFit 1572864 (roundRegion t.scratchBudget)
      (rs.map fun r => (r.scratchBase.getD (r.coreIdx core) 0, r.scratchSize)) 25 0
  else none

/-- The lowest `k` cores of a list that can take the team, with the bases of its regions; `j` counts those chosen. -/
def State.pickCores (s : State) (t : Task) (k : Nat) : Nat → List Nat → Option (List (Nat × Nat))
  | j, [] => if j = k then some [] else none
  | j, c :: cs =>
    if j = k then some []
    else
      match s.coreSite t k j c with
      | some b => (s.pickCores t k (j + 1) cs).map ((c, b) :: ·)
      | none => s.pickCores t k j cs

/-! ## Operating points (22 R468, R469) -/

/-- The cluster of an island, if it has one. -/
def islandCluster (i : Nat) : Option Nat :=
  if i < 384 then some (i / 8) else if i < 768 then some ((i - 384) / 8) else if i < 816 then some (i - 768) else none

/-- A cluster holds a team. -/
def State.clusterBusy (s : State) (cl : Nat) : Bool := s.tasks.any fun e => e.2.cluster == cl && e.2.cores.any (· < 384)

/-- The fastest point of a cluster's islands: PTOP of the paddock that places teams there. -/
def State.topPoint (s : State) (cl : Nat) : Nat :=
  match s.holderOf cl with
  | some p => (s.paddockAt p).ptop
  | none => 0

/-- The operating point of an island: of a cluster's, within PTOP, and not slower than 5 while it holds a team. -/
def State.point (s : State) (i : Nat) : Nat :=
  let pt := (amGet s.power.points i).getD 0
  match islandCluster i with
  | some cl =>
    let pt := max (s.topPoint cl) pt
    if s.clusterBusy cl then min 5 pt else pt
  | none => pt

/-- No island of a cluster that takes a team stays slower than point 5. -/
def State.wakeIslands (s : State) (cl : Nat) : State :=
  let raise (e : Nat × Nat) : Nat × Nat := (e.1, if islandCluster e.1 = some cl then min 5 e.2 else e.2)
  { s with power := { s.power with points := s.power.points.map raise } }

/-! ## Sites -/

/-- A place for a team: the cluster, the cores with the bases of their regions, the base in cluster memory. -/
structure Site where
  cluster : Nat
  cores : List (Nat × Nat)
  base : Nat
  deriving DecidableEq, Repr

/-- The place a cluster offers to a team. -/
def State.clusterSite (s : State) (t : Task) (cl : Nat) : Option Site :=
  if s.ready.testBit (384 + cl) && s.mayUse t.p cl then
    let taken := (s.tasks.filter fun e => e.2.cluster == cl && e.2.cores.any (· < 384)).map fun e => (e.2.clusterBase, e.2.clusterSize)
    match firstFit 6291456 (roundRegion t.clusterBudget) taken 97 0, s.pickCores t (min t.size 8) 0 ((List.range 8).map (8 * cl + ·)) with
    | some b, some cs => some ⟨cl, cs, b⟩
    | _, _ => none
  else none

/-- The place the paddock's clusters offer, the lowest first. -/
def State.siteFor (s : State) (t : Task) : Option Site := (List.range 48).findSome? (s.clusterSite t)

/-! ## Placement (01 R12, R16; 02 R43; 04 R95; 19 R408, R419) -/

/-- The bytes of the data image (R419). -/
def State.dataImage (s : State) (t : Task) : List Byte :=
  match s.window t.p t.code.win with
  | none => []
  | some d => (List.range t.code.dataLen).map fun i =>
    match s.winRead d [t.code.off + t.code.len + i] with
    | .ok b => BitVec.ofNat 8 b
    | .error _ => 0

/-- The lines of HBM that hold it. -/
def State.dataLines (s : State) (t : Task) : List Nat :=
  match s.window t.p t.code.win with
  | none => []
  | some d => s.coordLines d (boxCoords [(t.code.off + t.code.len, t.code.dataLen)])

/-- The scalars at task start (R408). -/
def Task.startX (t : Task) : Vector Word 64 :=
  let v := ((Vector.replicate 64 (0 : Word)).setIfInBounds 2 (word t.inst)).setIfInBounds 3 (word t.ninst)
  t.args.zipIdx.foldl (fun v a => v.setIfInBounds (4 + a.2) a.1) v

/-- Member `m` at task start, on core `core` in slot `slot` (R408). -/
def Task.startCtx (t : Task) (m core slot : Nat) : Ctx :=
  { Ctx.blank with
    tid := t.tid
    member := m
    core := core
    slot := slot
    pc := word t.entry
    x := t.startX
    d := t.dims.foldl (fun v e => v.setIfInBounds e.1 (some e.2)) Ctx.blank.d
    sliceBase := slot * t.slice
    sliceSize := t.slice }

/-- A scratch region at placement: zeros, and the data image from offset 0 (R419). -/
def State.fillRegion (s : State) (a size : Nat) (data : List Byte) : State := (s.wipe a size).store a (data.take size)

/-- The homes of a member at placement hold zeros (04 R95, 05 R117). -/
def State.wipeHomes (s : State) (cid : Nat) : State := (s.wipe (tileAddr cid 0 0) 524288).wipe (runAddr cid 0 0) 131072

/-- TASK_PLACEMENT (R16, R43): regions, homes, contexts and slots. -/
def State.placeAt (s : State) (t : Task) (site : Site) : State :=
  let data := if t.nodata then [] else s.dataImage t
  let s := if t.nodata then s else s.l2Touch false false (s.dataLines t)
  let size := if t.lookup.isSome then 253952 else roundRegion t.scratchBudget
  let csize := if t.lookup.isSome then 0 else roundRegion t.clusterBudget
  let cores := site.cores.map (·.1)
  let k := cores.length
  let s := site.cores.foldl (fun s cb => s.fillRegion (coreAddr cb.1 cb.2) size data) s
  let s := if csize = 0 then s else s.wipe (clusterAddr site.cluster site.base) csize
  let s := if t.lookup.isSome then s else s.wakeIslands site.cluster
  let t := { t with
    cores := cores
    cluster := site.cluster
    scratchBase := site.cores.map (·.2)
    scratchSize := size
    clusterBase := site.base
    clusterSize := csize
    bars := List.replicate 8 { phase := 0, arrived := [] } }
  let s := (List.range t.size).foldl (fun s m =>
    (s.wipeHomes (t.tid * 32 + m)).setCtx (t.tid * 32 + m) (t.startCtx m (cores.getD (m % k) 0) (m / k))) s
  ((s.setTask t.tid t).takeSlots t.tid).stampPlaced t.tid

/-! ## Moving a team (01 R34) -/

/-- A team off its cores has its operations on these numbers. -/
def awayCore (j : Nat) : Nat := 432 + j

/-- A place of a mark after the move. -/
def moveSpace (f : Nat → Nat) (cl : Nat) : MarkSpace → MarkSpace
  | .scratch c => .scratch (f c)
  | .cluster _ => .cluster cl
  | sp => sp

def moveMark (f : Nat → Nat) (cl : Nat) (m : Mark) : Mark := { m with space := moveSpace f cl m.space }

/-- A map whose keys change. -/
def moveKeys {α : Type} (f : Nat → Nat) (m : AMap α) : AMap α := m.foldl (fun r e => amSet r (f e.1) e.2) []

/-- Everything of a team that names its cores and its cluster names the new ones, but for its seats; its blocks are met anew. -/
def State.moveTeam (s : State) (tid : Nat) (f : Nat → Nat) (cl : Nat) : State :=
  let t := s.taskAt tid
  let mine (id : Nat) : Bool := s.ops.any fun o => o.id == id && o.tid == tid
  let carried := t.cores.map fun c => (f c, (s.coreAt c).held.filter mine)
  let s := t.cores.foldl (fun s c => s.setCore c { s.coreAt c with held := (s.coreAt c).held.filter fun id => !mine id }) s
  let s := carried.foldl (fun s e => s.setCore e.1 { s.coreAt e.1 with held := (s.coreAt e.1).held ++ e.2 }) s
  let moveOp (o : Op) : Op := if o.tid = tid then { o with core := f o.core, marks := o.marks.map (moveMark f cl) } else o
  let moveCtx (c : Ctx) : Ctx := if c.tid = tid then { c with core := f c.core, block := none } else c
  let s := { s with ops := s.ops.map moveOp, ctxs := s.ctxs.map fun (e : Nat × Ctx) => (e.1, moveCtx e.2) }
  s.setTask tid { t with
    cores := t.cores.map f
    cluster := cl
    tags := moveKeys (fun k => f (k / 64) * 64 + k % 64) t.tags
    tagFaults := t.tagFaults.map fun e => { e with core := f e.core }
    landed := t.landed.map fun e => { e with core := f e.core, mark := moveMark f cl e.mark }
    done := t.done.map fun e => { e with core := f e.core }
    saved := moveKeys f t.saved }

/-- A region of whole 64 KiB moved between its place `a` and the evacuation frames from number `i` on: `out` of its place or back
(R34). -/
def State.moveRegion (s : State) (out : Bool) (fs : List Nat) (i a n : Nat) : State :=
  (List.range (n / 65536)).foldl (fun s k =>
    match (fs[i + k]?).bind s.framePlace with
    | some b =>
      let r := if out then s.copyLines (a + k * 65536) b 65536 else s.copyLines b (a + k * 65536) 65536
      r.l2Touch false out (linesOf b 65536)
    | none => s) s

/-- The regions of a team, one after another in the evacuation frames: the scratch regions by team core, then the cluster-memory region
(log entry 88). -/
def State.moveRegions (s : State) (out : Bool) (t : Task) (fs : List Nat) (cores : List (Nat × Nat)) (cl base : Nat) : State :=
  let n := t.scratchSize / 65536
  let s := cores.zipIdx.foldl (fun s e => s.moveRegion out fs (e.2 * n) (coreAddr e.1.1 e.1.2) t.scratchSize) s
  s.moveRegion out fs (cores.length * n) (clusterAddr cl base) t.clusterSize

/-- TASK_RESUME of an evacuated team (R34): regions filled from the evacuation, the frames free again, the team on its new cores. -/
def State.resumeAt (s : State) (t : Task) (site : Site) : State :=
  let s := (s.wakeIslands site.cluster).moveRegions false t t.evac site.cores site.cluster site.base
  let d := s.paddockAt t.p
  let s := s.setPaddock t.p { d with evac := d.evac ++ t.evac }
  let s := s.setTask t.tid { t with scratchBase := site.cores.map (·.2), clusterBase := site.base, evac := [] }
  ((s.moveTeam t.tid (fun c => (site.cores.map (·.1)).getD (c - 432) c) site.cluster).unpark t.tid).stampPlaced t.tid

/-! ## The scheduling round (01 R22, R26, R29) -/

/-- A lookup program's core, assigned and idle (06 R167). -/
def State.lookupSite (s : State) (t : Task) (k : Nat) : Option Site :=
  if amGet s.lookups k == some t.p && s.ready.testBit (528 + k) && (s.coreAt (384 + k)).slots.all (·.isNone) then
    some ⟨0, [(384 + k, 0)], 0⟩
  else none

/-- The slots of a soft-pre-empted team are free, no woken team waits for them, and its cluster is its paddock's to use. -/
def State.softSite (s : State) (t : Task) : Bool :=
  (s.occupants t).isEmpty && !s.earlierWake t s.nextOp && s.mayUse t.p t.cluster

/-- A queued or pre-empted task placed, if there is a place for it. -/
def State.tryPlace (s : State) (t : Task) : Option State :=
  if t.hold then none
  else
    match t.state with
    | .queued =>
      if !(s.paddockAt t.p).en then none
      else
        (match t.lookup with
         | some k => s.lookupSite t k
         | none => s.siteFor t).map (s.placeAt t)
    | .soft => if s.softSite t then some ((s.unpark t.tid).stampPlaced t.tid) else none
    | .hard true => (s.siteFor t).map (s.resumeAt t)
    | _ => none

/-- The task waits for a place. -/
def Task.waits (t : Task) : Bool :=
  match t.state with
  | .queued | .soft | .hard true => !t.hold
  | _ => false

/-- The order of R22: by level, then the paddocks in turn, then arrival; a pre-empted task keeps the place of its arrival (log entry
81). -/
def State.placeKey (s : State) (t : Task) : Nat :=
  let before := (s.tasks.filter fun e => e.2.waits && e.2.p == t.p && e.2.prio == t.prio && e.1 < t.tid).length
  (t.prio * 2 ^ 40 + before) * 64 + t.p

/-- Sorted by key. -/
def insertKey (x : Nat × Nat) : List (Nat × Nat) → List (Nat × Nat)
  | [] => [x]
  | y :: ys => if x.1 < y.1 then x :: y :: ys else y :: insertKey x ys

/-- The tasks that wait for a place, in the order of R22. -/
def State.placeOrder (s : State) : List Nat :=
  ((s.tasks.filter fun e => e.2.waits).foldl (fun l e => insertKey (s.placeKey e.2, e.1) l) []).map (·.2)

/-- SCHEDULER_SOFT_PREEMPTION (R22): the most recently placed running team of the paddock two levels or more below, where its slots
would make a place. -/
def State.softVictim (s : State) (t : Task) : Option Nat :=
  let able (v : Task) : Bool := v.p == t.p && t.prio + 2 ≤ v.prio && v.state == .running && v.xform.isNone && v.lookup.isNone
  let newest := s.tasks.foldl (fun (b : Option Task) e =>
    if able e.2 && b.all (fun v => v.placedAt < e.2.placedAt) then some e.2 else b) none
  match newest with
  | some v => if t.lookup.isNone && ((s.park v.tid .soft).siteFor t).isSome then some v.tid else none
  | none => none

/-- A pre-emption is asked for: a running team is to halt; of a stabled or soft-pre-empted one a hard request halts the engines (R32,
R35). -/
def State.askPreempt (s : State) (tid : Nat) (hard : Bool) (slot : Option Nat) : State :=
  let s := { s with preempts := s.preempts ++ [(⟨tid, hard, slot⟩ : Preempt)] }
  let halting (s : State) : State := s.setTask tid { s.taskAt tid with state := .halting hard }
  match (s.taskAt tid).state with
  | .running | .halting false => halting (s.abandonMatch tid)
  | .stabling _ => if hard then s.abandonMatch tid else s
  | .stabled _ | .soft =>
    if hard then
      let s := (s.abandonMatch tid).haltEngines tid
      s.setTask tid { s.taskAt tid with state := .hard false }
    else s
  | _ => s

/-- The tasks of a list placed one after another; after one that finds no place, no later one of its paddock and level is. -/
def State.placeAll (s : State) : List Nat → List (Nat × Nat) → State
  | [], _ => s
  | tid :: ts, shut =>
    let t := s.taskAt tid
    if shut.contains (t.p, t.prio) then s.placeAll ts shut
    else if t.state == .queued && !t.fits then (s.setTask tid (t.refused .LS 5)).placeAll ts shut
    else
      match s.tryPlace t with
      | some s => s.placeAll ts shut
      | none =>
        let s := match t.state, s.softVictim t with
          | .queued, some v => s.askPreempt v false none
          | _, _ => s
        s.placeAll ts ((t.p, t.prio) :: shut)

/-- The woken teams, in the order of their wakes. -/
def State.wokenTeams (s : State) : List Nat :=
  (s.tasks.foldl (fun l e => match s.wakeOf e.2 with
    | some w => insertKey (w, e.1) l
    | none => l) []).map (·.2)

/-- Each time-shared cluster has a holder: at first its lowest sharer. -/
def State.noteHolders (s : State) : State :=
  (List.range 48).foldl (fun s cl =>
    match s.holderOf cl with
    | some h =>
      if 2 ≤ (s.sharers cl).length then
        if (amGet s.holders cl).any (·.1 == h) then s else { s with holders := amSet s.holders cl (h, s.cycle) }
      else { s with holders := amDel s.holders cl }
    | none => { s with holders := amDel s.holders cl }) s

/-- A round counted of a team that waits. -/
def State.countRound (s : State) (e : Nat × Task) : Nat × Task := (e.1, if s.comes e.2 then { e.2 with rounds := e.2.rounds + 1 } else e.2)

/-- A team has seen four rounds since its wake without a bundle, with nothing in its way that R29 excepts: no pre-emption of its
cluster, and no occupant that cannot be displaced. -/
def State.overdue (s : State) (t : Task) : Bool :=
  4 ≤ t.rounds && s.comes t && !(s.preempts.any fun r => (s.taskAt r.tid).cluster == t.cluster) &&
    (s.occupants t).all fun o => (s.taskAt o).state == .running && (s.taskAt o).debugHalt.isNone

/-- The microseconds of the reference counter that have ended since the last round. -/
def State.roundMicros (s : State) : Nat := s.cycle / 1700 - s.round / 1700

/-- The microseconds for which a task of a paddock has waited for a time-shared cluster held by another count in TSWAIT (22 R472). -/
def State.noteWaits (s : State) : State :=
  let waits (p : Nat) : Bool := s.tasks.any fun e => e.2.p == p && e.2.waits && e.2.lookup.isNone && e.2.xform.isNone
  let shut (p : Nat) : Bool := (List.range 48).any fun cl =>
    (s.paddockAt p).offered cl && 2 ≤ (s.sharers cl).length && !(s.holderOf cl).any (· == p)
  (s.paddocks.map (·.1)).foldl (fun s p => if waits p && shut p then s.telemetry p 9 s.roundMicros else s) s

/-- The islands of the clusters on which a paddock places teams: cores, arrays, cluster memories (22 R468). -/
def State.islandsOf (s : State) (p : Nat) : List Nat :=
  ((List.range 48).filter fun cl => s.holderOf cl == some p).flatMap fun cl =>
    (List.range 8).flatMap (fun k => [8 * cl + k, 384 + 8 * cl + k]) ++ [768 + cl]

/-- The microseconds in which an island of a paddock ran slower than PTOP because of the power limit count in THRTL (22 R472). -/
def State.noteThrottle (s : State) : State :=
  let slow (p : Nat) : Bool := (s.islandsOf p).any fun i => 0 < (amGet s.power.steps i).getD 0 && (s.paddockAt p).ptop < s.point i
  if s.power.steps.isEmpty then s
  else (s.paddocks.map (·.1)).foldl (fun s p => if slow p then s.telemetry p 8 s.roundMicros else s) s

/-- Clusters are offered as the masks now say (22 R461). -/
def State.offerClusters (s : State) : State :=
  { s with paddocks := s.paddocks.map fun e => (e.1, { e.2 with offer := e.2.clmask }) }

/-- SCHEDULING_ROUND (R29), one a microsecond: woken teams return, displacing none that has yet to try a bundle; then tasks are placed.
No fifth round comes before a woken team has issued. -/
def execSchedulingRound (s : State) : Out :=
  if s.tasks.any fun e => s.overdue e.2 then notNow "SCHEDULING_ROUND"
  else
    let s := s.offerClusters.noteHolders
    let s := s.wokenTeams.foldl (fun s tid => (s.returnTeam (s.taskAt tid)).getD s) s
    let s := ((s.placeAll s.placeOrder []).noteWaits).noteThrottle
    .next { s with round := s.cycle, tasks := s.tasks.map s.countRound }

end Sys2Proof.Machine
end

