-- ==== Sys2Proof/Machine/Preempt.lean ====
section
/-! DEFINITION. Pre-emption, evacuation and resumption, the hand-over of time-shared clusters, the end of tasks, the debugger's
release (01 R20, R21, R30 to R35; 13 R356; 21 R448, R449; 22 R460, R461). -/
namespace Sys2Proof.Machine

/-! ## The halt (01 R31 to R33) -/

/-- Shadow storage on each of the team's cores has room for its contexts beside those it holds (R11, R33), members that have ended
among them (log entry 139). -/
def State.shadowRoom (s : State) (t : Task) : Bool :=
  t.cores.zipIdx.all fun cj =>
    let others := (s.residents cj.1).filter fun r => r.tid != t.tid
    (others.map fun r => r.onCore r.cores.length (r.coreIdx cj.1)).sum + t.onCore t.cores.length cj.2 ≤ 8

/-! ## Evacuation (01 R34; 21 R448) -/

/-- Bytes of a save region for what an array may hold: 1 MiB, unless the team has used none of it (log entry 80). -/
def State.arrayRoom (s : State) (t : Task) (core : Nat) : Nat :=
  let used : Bool := s.ops.any fun o => o.tid == t.tid && o.core == core && (match o.kind with
    | .matrix .. => true
    | _ => false)
  if used || s.teamArr t core != .empty then 2 ^ 20 else 0

/-- Bytes of the save region of team core `j`, on core `core`. -/
def State.saveRoom (s : State) (t : Task) (core j : Nat) : Nat := t.saveNeed (t.onCore t.cores.length j) + s.arrayRoom t core

/-- The frames an evacuation needs (21 R448): the members' images, the save region of each core, the regions. -/
def State.evacFrames (s : State) (t : Task) : Nat :=
  let saves := (t.cores.zipIdx.map fun cj => s.saveRoom t cj.1 cj.2).sum
  (2240 * t.size + saves + t.scratchSize * t.cores.length + t.clusterSize + 65535) / 65536

/-- The frames of a paddock's evacuation area that are free for a further team: not those that the hard pre-emptions under way will
take. -/
def State.freeEvac (s : State) (p : Nat) : Nat :=
  let coming := s.tasks.filter fun e => e.2.p == p && s.hardDue e.1 && e.2.evac.isEmpty
  (s.paddockAt p).evac.length - (coming.map fun e => s.evacFrames e.2).sum

/-- PREEMPTION_HALT (R31 to R33): every core of the team has halted. A soft pre-emption that lacks shadow storage becomes hard; where
the frames for that are too few, the driver's command has RESULT 3 and the team runs on (21 R448; log entry 140). -/
def execPreemptionHalt (p seq : Nat) (s : State) : Out :=
  match s.findTask p seq fun t => match t.state with
    | .halting _ => true
    | _ => false with
  | none => notNow "PREEMPTION_HALT"
  | some t =>
    let soft := t.state == .halting false
    if soft && s.shadowRoom t then .next (((s.haltEngines t.tid).park t.tid .soft).endPreempt t.tid 0)
    else if soft && !s.hardDue t.tid && s.freeEvac p < s.evacFrames t then
      .next ((s.setTask t.tid { t with state := .running, hold := false }).endPreempt t.tid 3)
    else
      let s := { s with preempts := s.preempts.map fun (r : Preempt) => if r.tid = t.tid then { r with hard := true } else r }
      .next ((s.haltEngines t.tid).park t.tid (.hard false))


/-- A loop-stack entry of the image: START, LAST, REMAIN, KIND (0 count, 1 traverse). -/
def LoopEntry.bytes (e : LoopEntry) : List Byte :=
  natLe 8 e.start.toNat ++ natLe 8 e.last.toNat ++ natLe 8 (e.count.getD 0).toNat ++ natLe 8 e.count.isNone.toNat

/-- An in-flight result of the image: file (numbered as in 08 R202, 7 for MX), number, remaining distance, value of X and P. -/
def InFlight.bytes (f : InFlight) (last : Nat) : List Byte :=
  let (file, n, v) : Nat × Nat × Nat := match f.res with
    | .x n v => (0, n, v.toNat)
    | .xReply n _ => (0, n, 0)
    | .p n v => (1, n, v.toNat)
    | .v n _ => (2, n, 0)
    | .tw n _ => (3, n, 0)
    | .d n _ => (4, n, 0)
    | .ce n _ => (5, n, 0)
    | .csr n _ => (6, n, 0)
    | .mx n _ => (7, n, 0)
  natLe 1 file ++ natLe 2 n ++ natLe 5 (f.point - last) ++ natLe 8 v

/-- The image of a context (21 R450); in a trap handler its in-flight results are the handler's, then those captured (08 R206). -/
def State.ctxImage (s : State) (cid : Nat) : List Byte :=
  let c := s.ctxAt cid
  let t := s.taskAt c.tid
  let s := { s with me := cid }.modArr c.core fun _ => s.teamArr t c.core
  let w (x : Word) : List Byte := natLe 8 x.toNat
  let r (n : Nat) : List Nat := List.range n
  let preds := (r 16).foldl (fun a k => if c.pAt k then a + 2 ^ k else a) 0
  let loops := c.loops.reverse.flatMap LoopEntry.bytes
  let captured := c.captured.toList.flatMap fun k => k.inflight.map fun f => (f, k.lastIdx)
  let flying := c.inflight.map (fun f => (f, c.lastIdx)) ++ captured
  let flights := natLe 16 flying.length ++ flying.flatMap fun f => f.1.bytes f.2
  let csrs := [0, 1, 2, 3, 4, 5, 6, 7, 8, 9, 0x10, 0x11, 0x12, 0x13, 0x21, 0x22, 0x30, 0x31, 0x32]
  let head := w c.pc ++ (r 64).flatMap (fun k => w (c.xAt k)) ++ natLe 8 preds ++
    (r 16).flatMap (fun k => natLe 2 (match c.dAt k with
      | some v => 32768 + v
      | none => 0)) ++ csrs.flatMap (fun n => w (s.csr n)) ++ natLe 8 0
  let loops := loops ++ List.replicate (128 - loops.length) 0
  let rest := (r 16).flatMap (fun k => w (c.twAt k)) ++ (r 32).flatMap (fun k => w (c.ceAt k)) ++ (r 8).flatMap fun k => w (s.mxReg k)
  let all := head ++ loops ++ rest ++ flights
  (all ++ List.replicate (2240 - all.length) 0).take 2240

/-- Bytes written into evacuation frames from byte `at_` of their stretch on, frame by frame; `fuel` bounds the frames. -/
def State.putEvac (s : State) (fs : List Nat) : Nat → Nat → List Byte → State
  | 0, _, _ => s
  | _, _, [] => s
  | fuel + 1, at_, bs =>
    let n := 65536 - at_ % 65536
    let s := match (fs[at_ / 65536]?).bind s.framePlace with
      | some b =>
        let a := b + at_ % 65536
        (s.lay a (bs.take n)).l2Touch false true (linesOf a (bs.take n).length)
      | none => s
    s.putEvac fs fuel (at_ + n) (bs.drop n)

/-- What an evacuation lays behind the regions: the members' images, then for each core its save region: the parts of its lane slices,
the resume records, and behind what the descriptor sizes the state of the array (log entry 88). -/
def State.putImages (s : State) (t : Task) (fs : List Nat) : State :=
  let k := t.cores.length
  let first := t.scratchSize * k + t.clusterSize
  let s := t.cids.zipIdx.foldl (fun s e => s.putEvac fs 2 (first + 2240 * e.2) (s.ctxImage e.1)) s
  (t.cores.zipIdx.foldl (fun (r : State × Nat) cj =>
    let n := t.onCore k cj.2
    let lanes := (List.range 16).flatMap fun l => memRead s.mem (laneSave t.tid cj.2 + l * 8192) (t.slice * n)
    let a := s.teamArr t cj.1
    let u := r.1.putEvac fs 8 r.2 (lanes ++ s.resumeRecords t.tid cj.1)
    (if a == .empty then u else u.putEvac fs 20 (r.2 + t.saveNeed n) a.bytes, r.2 + s.saveRoom t cj.1 cj.2)) (s, first + 2240 * t.size)).1

/-- EVACUATION (R34): regions, images and save regions go to the paddock's evacuation frames; the cores' room is free then. TEAMINFO keeps the
place that the team had (R12). -/
def execEvacuation (p seq : Nat) (s : State) : Out :=
  match s.findTask p seq fun t => t.state == .hard false with
  | none => notNow "EVACUATION"
  | some t =>
    let n := s.evacFrames t
    let d := s.paddockAt p
    if d.evac.length < n then notNow "EVACUATION"
    else
      let fs := d.evac.take n
      let s := s.actAs (unitOfCore (t.cores.headD 0)) t.tid
      let s := s.moveRegions true t fs (List.zip t.cores t.scratchBase) t.cluster t.clusterBase
      let s := s.putImages t fs
      let d := s.paddockAt p
      let s := s.setPaddock p { d with evac := d.evac.drop n }
      let s := s.setTask t.tid { t with state := .hard true, evac := fs, seat := t.cores }
      .next ((s.moveTeam t.tid (fun c => awayCore (t.coreIdx c)) 48).endPreempt t.tid 0)

/-- TASK_RESUME (R33, R34): a soft-pre-empted team on its cores, an evacuated one on the cluster named. -/
def execTaskResume (p seq cluster : Nat) (s : State) : Out :=
  match s.findTask p seq fun t => !t.hold with
  | none => notNow "TASK_RESUME"
  | some t =>
    match t.state with
    | .soft => if cluster = t.cluster ∧ s.softSite t then .next ((s.unpark t.tid).stampPlaced t.tid) else notNow "TASK_RESUME"
    | .hard true =>
      match s.clusterSite t cluster with
      | some site => .next (s.resumeAt t site)
      | none => notNow "TASK_RESUME"
    | _ => notNow "TASK_RESUME"

/-! ## Hand-over (22 R460, R461) -/

/-- The teams of a paddock on a cluster. -/
def State.teamsOn (s : State) (p cl : Nat) : List Task :=
  (s.tasks.filter fun e => e.2.p == p && e.2.cluster == cl && e.2.cores.any (· < 384) && e.2.fault.isNone).map (·.2)

/-- All of them are hard pre-empted, but for those whose hard pre-emption is under way. -/
def State.clearCluster (s : State) (p cl : Nat) : State :=
  (s.teamsOn p cl).foldl (fun s t => if s.hardDue t.tid then s else s.askPreempt t.tid true none) s

/-- The cluster as it will be when they have gone. -/
def State.ifCleared (s : State) (p cl : Nat) : State :=
  (s.teamsOn p cl).foldl (fun s t =>
    let s := s.park t.tid (.hard true)
    s.setTask t.tid { s.taskAt t.tid with cores := [], hold := true }) s

/-- The sharers after paddock `h`, in ascending number, wrapping. -/
def State.sharersAfter (s : State) (cl h : Nat) : List Nat :=
  let ps := s.sharers cl
  ps.filter (h < ·) ++ ps.filter (· < h)

/-- A task of the paddock could be placed on the cluster if its holder's teams were gone. -/
def State.couldPlace (s : State) (q cl : Nat) : Bool :=
  s.tasks.any fun e => e.2.p == q && e.2.waits && e.2.lookup.isNone &&
    (match e.2.state with
     | .soft => e.2.cluster == cl
     | _ => (s.clusterSite e.2 cl).isSome)

/-- The next sharer after `h` with a task that it could place on the cluster once the teams of `h` are gone (R460). -/
def State.nextHolder (s : State) (h cl : Nat) : Option Nat :=
  let clear := s.ifCleared h cl
  (s.sharersAfter cl h).find? fun q => ({ clear with holders := amSet clear.holders cl (q, 0) } : State).couldPlace q cl

/-- The holder's teams leave and `q` takes the cluster. -/
def State.handOver (s : State) (cl h q : Nat) : State :=
  let s := s.clearCluster h cl
  { s with holders := amSet s.holders cl (q, s.cycle) }

/-- TIME_SHARE_HAND_OVER (R460): after the holder's quantum, to the next sharer with a task it could place; deferred while evacuation
frames are too few (21 R448). -/
def execTimeShareHandOver (cluster : Nat) (s : State) : Out :=
  match amGet s.holders cluster, s.holderOf cluster with
  | some (h, since), some h' =>
    let d := s.paddockAt h
    let due : Bool := h == h' && d.tsquant * 1700 ≤ s.cycle - since
    let frames := (((s.teamsOn h cluster).filter fun t => !s.hardDue t.tid).map s.evacFrames).sum
    match s.nextHolder h cluster with
    | some q => if due && frames ≤ s.freeEvac h then .next (s.handOver cluster h q) else notNow "TIME_SHARE_HAND_OVER"
    | none => notNow "TIME_SHARE_HAND_OVER"
  | _, _ => notNow "TIME_SHARE_HAND_OVER"

/-! ## The end of tasks (01 R20, R21, R62) -/

/-- The task ends on a fault: its notice, a pre-emption of it is over, then everything of it goes, its leases with it (R21, R62; 20
R431; log entry 140). -/
def State.endFaulted (s : State) (t : Task) (f : FaultRec) : State :=
  (((((s.noticeFault t.origin t.seq f).flushTeam t.tid).endPreempt t.tid 0).dropTask t.tid)).afterTask t.origin

/-- A row of the task is on its way, or its log word to be written (07 R189). -/
def State.sendsLeft (s : State) (tid : Nat) : Bool := s.sends.any fun x => s.batchCid x.batch / 32 == tid

/-- A task that has been placed, and no fault has ended: on its cores, or stabled or pre-empted. -/
def Task.started (t : Task) : Bool :=
  match t.state with
  | .waitLeases | .queued | .ending => false
  | _ => true

/-- TASK_COMPLETION (R20): every member has ended, every operation has completed, every row sent has landed with its log word (07 R184,
R189), on its cores or off them; a copy launch ends with its copy's fault. -/
def execTaskCompletion (p seq : Nat) (s : State) : Out :=
  match s.findTask p seq fun t => t.started && !(s.ops.any fun o => o.tid == t.tid) &&
      !s.sendsLeft t.tid && t.cids.all fun cid => (s.ctxAt cid).ended with
  | none => notNow "TASK_COMPLETION"
  | some t =>
    match if t.xform.isSome then t.tagFaults.head? else none with
    | some e => .next (s.endFaulted t e.flt)
    | none => .next ((((s.flushTeam t.tid).endPreempt t.tid 0).dropTask t.tid).afterTask t.origin)

/-- Operations that a halt does not stop: counter and graph operations not yet performed, a running merge, unmerge or retirement
(R32). -/
def Op.runsOn (o : Op) : Bool :=
  match o.kind with
  | .counter c => !c.performed
  | .graph g => !g.performed
  | .yoke _ => o.started && !o.isMatch
  | _ => false

/-- FAULT_TASK_END (R21): what a halt does not stop has completed, the dispatch engine has sent what it accepted; the rest stops as at a
halt and is discarded. -/
def execFaultTaskEnd (p seq : Nat) (s : State) : Out :=
  match s.findTask p seq fun t => t.state == .ending with
  | none => notNow "FAULT_TASK_END"
  | some t =>
    if (s.ops.any fun o => o.tid == t.tid && o.runsOn) || s.sendsLeft t.tid then notNow "FAULT_TASK_END"
    else .next ((s.haltCopies t.tid).endFaulted t (t.fault.getD { cls := .PV, num := 3 }))

/-- DEBUGGER_RELEASE (13 R356): the team resumes at its next bundle. -/
def execDebuggerRelease (p seq : Nat) (s : State) : Out :=
  match s.findTask p seq fun t => t.debugHalt.isSome with
  | none => notNow "DEBUGGER_RELEASE"
  | some t => .next (s.setTask t.tid { t with debugHalt := none })

end Sys2Proof.Machine
end

