-- ==== Sys2Proof/Machine/Lease.lean ====
section
/-! DEFINITION. Leases granted together, frames made resident for them, the transfers of frames and the driver's notices (02 R54, R56
to R59; 20 R428; 21 R440, R442 to R447). -/
namespace Sys2Proof.Machine

/-! ## Notices (21 R443 to R445) -/

/-- NOTICE_OVF_CLEAR (R445): OVF cleared, the frames that stand at THRESH posted in ascending order as room allows. -/
def execNoticeOvfClear (p : Nat) (s : State) : Out :=
  let d := s.paddockAt p
  let s := s.setPaddock p { d with nq := { d.nq with ovf := false } }
  let due := (s.frames.filter fun e => e.2.state == 1 && e.2.owner == p && d.nq.thresh != 0 && d.nq.thresh ≤ e.2.cnt).map (·.1)
  .next (due.foldl (fun s f => s.noteFrame p f) s)

/-- NQHEAD (R443). -/
def execNqhead (p v : Nat) (s : State) : Out :=
  let d := s.paddockAt p
  .next (s.setPaddock p { d with nq := { d.nq with head := v % 65536 } })

/-! ## Leases (02 R56 to R58) -/

/-- The tiles a box touches. -/
def WinDesc.boxTiles (d : WinDesc) (box : List (Nat × Nat)) : List Nat :=
  (boxCoords (List.zipWith (fun r l => (r.1 / 2 ^ l, r.2 / 2 ^ l - r.1 / 2 ^ l + 1)) box d.tlog)).map fun ts =>
    (d.locate (List.zipWith (fun c l => c * 2 ^ l) ts d.tlog)).1

/-- The frame-map frames a lease touches. -/
def State.leaseFrames (s : State) (p : Nat) (l : Lease) : List Nat :=
  match s.window p l.win with
  | some d => if d.span.isSome then [] else (d.boxTiles l.box).filterMap (s.tileFrame d)
  | none => []

/-- A lease may be asked for, else LS-05 (R56): its box lies in its window, the window has its rights, its tiles are present. -/
def State.leaseOk (s : State) (p : Nat) (l : Lease) : Bool :=
  match s.window p l.win with
  | none => false
  | some d =>
    let inside : Bool := l.box.length == d.rank && (List.zipWith (fun r e => decide (r.1 ≤ r.2 ∧ r.2 < e)) l.box d.ext).all id
    inside && (!l.rd || d.rd) && (!l.wr || d.wr) && (d.boxTiles l.box).all fun n => (s.tileFrame d n).isSome

/-- The check of a grant, else LS-05 (21 R440): every frame the lease touches is the paddock's and not free. -/
def State.framesOk (s : State) (p : Nat) (l : Lease) : Bool :=
  (s.leaseFrames p l).all fun f => (s.frameAt f).owner == p && ((s.frameAt f).state == 1 || (s.frameAt f).state == 2)

/-- The task holds its leases. -/
def Task.granted (t : Task) : Bool := t.state != .waitLeases

/-- `a` is the spawner of `t`, or a spawner of its spawner; `fuel` bounds the chain. -/
def State.isAncestor (s : State) (a : Nat) : Nat → Task → Bool
  | 0, _ => false
  | fuel + 1, t =>
    match t.parent with
    | none => false
    | some q => q == a || s.isAncestor a fuel (s.taskAt q)

/-- Lease `m` of task `u` stands against a lease of `t`: granted to it, or asked for earlier (R58). A delegated lease does not conflict
with its spawner's, and of those that wait only its siblings' stand before it (R61). -/
def State.standsBefore (s : State) (u : Task) (m : Lease) (t : Task) (l : Lease) : Bool :=
  if u.granted || m.held then !(l.deleg && s.isAncestor u.tid (s.tasks.length + 1) t)
  else u.tid < t.tid && !(l.deleg && u.parent != t.parent)

/-- Some lease of `t` that it does not hold yet conflicts with one that stands against it (R58). -/
def State.leaseBlocked (s : State) (t : Task) : Bool :=
  s.tasks.any fun e => e.2.tid != t.tid && e.2.p == t.p && t.leases.any fun l =>
    !l.held && e.2.leases.any fun m => s.standsBefore e.2 m t l && s.leasesMeet t.p l m

/-- A granted lease touches the frame (21 R440). -/
def State.frameLeased (s : State) (f : Nat) : Bool :=
  s.tasks.any fun e => e.2.leases.any fun l => (e.2.granted || l.held) && (s.leaseFrames e.2.p l).contains f

/-! ## Transfers (21 R442, R446, R447) -/

/-- The PCI Express port, numbered as in 21 R452. -/
def portUnit : Nat := 638

/-- The transfer of a frame is over: its commands finish, MOVING clears. -/
def State.endXfer (s : State) (f result ret : Nat) : State :=
  let slots := ((amGet s.xfers f).map (·.slots)).getD []
  let s := { s with xfers := amDel s.xfers f }.setFrame f { s.frameAt f with moving := false }
  slots.foldl (fun s k => s.finishCtl k result ret) s

/-- A transfer begins. -/
def State.startXfer (s : State) (f : Nat) (x : Xfer) : State :=
  { s with xfers := amSet s.xfers f x }.setFrame f { s.frameAt f with moving := true }

/-- A physical frame that a transfer fills. -/
def State.targeted (s : State) (q : Nat) : Bool :=
  s.xfers.any fun e => match e.2.kind with
    | .migrate r => r == q
    | .back r => r == q
    | .offload _ => false

/-- A physical frame that no entry holds and no transfer fills. -/
def State.unusedFrame (s : State) (q : Nat) : Bool :=
  q < 9437184 && !s.targeted q && s.frames.all fun e => e.2.state != 1 || e.2.pframe != q

/-- The lowest physical frame of a paddock's spare pool that is not taken. -/
def State.spareFrame (s : State) (p : Nat) : Option Nat := ((s.paddockAt p).spare.filter fun q => !s.targeted q).min?

/-- What a lease does about a frame it needs (02 R59, 21 R446, R447): an outward transfer is cancelled, an offloaded frame is called
back; an empty pool is noticed once. -/
def State.needFrame (s : State) (p f : Nat) : State :=
  let back : Bool := (s.frameAt f).state == 2
  match amGet s.xfers f with
  | some x => match x.kind with
    | .offload _ => s.endXfer f 4 0
    | _ => s
  | none =>
    if !back then s
    else
      match s.spareFrame p with
      | some q => s.startXfer f ⟨.back q, []⟩
      | none =>
        let d := s.paddockAt p
        if d.poolNoted then s else (s.setPaddock p { d with poolNoted := true }).postNotice p f 1 0 |>.1

/-- A core whose copy engine may take the copy of a copy launch: on a cluster of the paddock, with a place (20 R428). -/
def State.copyCore (s : State) (p : Nat) : Option Nat :=
  (List.range 384).find? fun c => s.mayUse p (c / 8) && s.ready.testBit c && s.ready.testBit (384 + c / 8) &&
    s.placesTaken c < copyPlacesOf c

/-- The copy of a copy launch queued (20 R428); its draws are free values. -/
def State.queueCopy (s : State) (t : Task) (c : CopyCmd) : Option State :=
  match s.copyCore t.p, s.copyPlan t.p t.tid (t.tid * 32) 0 c with
  | some core, some pl =>
    let m := copyMode (c.ce.getD 0 0)
    let d := if m.kind = 2 ∧ m.rnd = 1 then pl.conversions else 0
    let n := (d + 1) / 2
    let ws := (List.range n).map fun i => (Config.noise (s.freeCtr + i)).toNat
    let o : Op := ⟨s.nextOp, t.tid, t.tid * 32, core, none, 0, .copy { c with draws := drawsOf ws d }, false, false, [], [], []⟩
    some ({ s with ops := s.ops ++ [o], nextOp := s.nextOp + 1, freeCtr := s.freeCtr + n }.setTask t.tid { t with state := .running })
  | _, _ => none

/-- What the scheduler does for a waiting task that nothing stands against: all its leases granted once every frame is resident, or a
frame called for; none where it can only wait on. A lease that may not be asked for, or whose frames fail the check as it is granted,
ends the task with LS-05 (R56, 21 R440). -/
def State.grantTo (s : State) (p : Nat) (t : Task) : Option State :=
  if !t.leases.all fun l => s.leaseOk p l && s.framesOk p l then some (s.setTask t.tid (t.refused .LS 5))
  else
    let fs := (t.leases.flatMap (s.leaseFrames p)).dedup
    let r := fs.foldl (fun s f => s.needFrame p f) s
    if fs.all fun f => (r.frameAt f).state == 1 then
      match t.xform with
      | none => some (r.setTask t.tid { t with state := .queued })
      | some c => r.queueCopy t c
    else if r = s then none
    else some r

/-- A task waits for its leases, and nothing stands against them, or one of them may not be asked for. -/
def State.grantable (s : State) (p : Nat) (t : Task) : Bool :=
  t.state == .waitLeases && (!t.leases.all (s.leaseOk p) || !s.leaseBlocked t)

/-- LEASE_GRANT (R58): the earliest of the waiting tasks with that number (copy launches all answer to 0) for which something can be
done. -/
def execLeaseGrant (p seq : Nat) (s : State) : Out :=
  match (s.tasks.filter fun e => e.2.p == p && e.2.seq == seq && s.grantable p e.2).findSome? fun e => s.grantTo p e.2 with
  | none => notNow "LEASE_GRANT"
  | some s => .next s

/-- Waiting tasks that need a frame whose return failed end with LS-05 (R447). -/
def State.failWaiting (s : State) (f : Nat) : State :=
  s.tasks.foldl (fun s e =>
    if e.2.state == .waitLeases && e.2.leases.any fun l => (s.leaseFrames e.2.p l).contains f then s.setTask e.1 (e.2.refused .LS 5)
    else s) s

/-- FRAME_RETURN (R447): a return transfer finishes. -/
def execFrameReturn (f : Nat) (ok : Bool) (s : State) : Out :=
  match amGet s.xfers f with
  | some x =>
    match x.kind with
    | .back q =>
      let e := s.frameAt f
      let p := e.owner
      if ok then
        let d := s.paddockAt p
        let s := (s.actAs portUnit 0).copyLines (hostAddr e.hostAddr) (hbmAddr q 0) 65536
        let s := s.setPaddock p { d with spare := d.spare.filter (· != q) }
        let s := s.setFrame f { e with state := 1, pframe := q, hostAddr := 0 }
        .next (s.endXfer f 0 q)
      else .next (((s.postNotice p f 2 0).1.failWaiting f).endXfer f 5 0)
    | _ => notNow "FRAME_RETURN"
  | none => notNow "FRAME_RETURN"

/-- MIGRATION_FLIP (R442): the frame lies in its new place; counter and NOTED clear. -/
def execMigrationFlip (f : Nat) (s : State) : Out :=
  match amGet s.xfers f with
  | some x =>
    match x.kind with
    | .migrate q =>
      let e := s.frameAt f
      let s := (s.copyLines (hbmAddr e.pframe 0) (hbmAddr q 0) 65536).l2Flush e.pframe
      .next ((s.setFrame f { e with pframe := q, cnt := 0, noted := false }).endXfer f 0 0)
    | _ => notNow "MIGRATION_FLIP"
  | none => notNow "MIGRATION_FLIP"

/-- Lines verified as they leave the module (23 R474), and whether one is poisoned. -/
def State.exitLines (s : State) (a n : Nat) : State × Bool := s.verify (linesOf a n)

/-- OFFLOAD_COMPLETE (R446; 23 R476): the frame is offloaded and its place joins the spare pool; one with a poisoned line, or a failed
host write, leaves it resident. -/
def execOffloadComplete (f : Nat) (ok : Bool) (s : State) : Out :=
  match amGet s.xfers f with
  | some x =>
    match x.kind with
    | .offload h =>
      if ok then
        let e := s.frameAt f
        let (s, bad) := (s.actAs portUnit 0).exitLines (hbmAddr e.pframe 0) 65536
        if bad then .next (s.endXfer f 2 0)
        else
          let s := { s with mem := memCopy s.mem (hbmAddr e.pframe 0) (hostAddr h) 65536 }.l2Flush e.pframe
          let d := s.paddockAt e.owner
          let s := s.setPaddock e.owner { d with spare := d.spare ++ [e.pframe], poolNoted := false }
          .next ((s.setFrame f { s.frameAt f with state := 2, pframe := 0, hostAddr := h, cnt := 0, noted := false }).endXfer f 0 0)
      else .next (s.endXfer f 5 0)
    | _ => notNow "OFFLOAD_COMPLETE"
  | none => notNow "OFFLOAD_COMPLETE"

end Sys2Proof.Machine
end

