-- ==== Sys2Proof/Machine/Rings.lean ====
section
/-! DEFINITION. Doorbells, the fetch of launch records, their rejection, what each kind of record does, and the completion interrupt's
timer (20 R422 to R435). -/
namespace Sys2Proof.Machine

/-! ## Host memory -/

/-- `n` bytes of host memory. -/
def State.hostBytes (s : State) (a n : Nat) : List Byte := memRead s.mem (hostAddr a) n

/-- A host access of `n` bytes from `a` fails. -/
def State.hostFails (s : State) (a n : Nat) : Bool := s.hostBad.any fun r => a < r.2 && r.1 < a + n

/-! ## Doorbells (R423, R425) -/

/-- SQTAIL: a value of 2^SQLOG or more is ignored with SQERR. -/
def execSqtail (p q v : Nat) (s : State) : Out :=
  let r := s.qpAt p q
  let v := v % 65536
  .next (s.setQp p q (if 2 ^ r.sqlog ≤ v then { r with sqerr := true } else { r with sqtail := v }))

/-- CQHEAD: a value of 2^CQLOG or more, or past the device's tail, is ignored with CQERR; else held entries are released. -/
def execCqhead (p q v : Nat) (s : State) : Out :=
  let r := s.qpAt p q
  let v := v % 65536
  let n := 2 ^ r.cqlog
  if n ≤ v || (r.cqtail + n - r.cqhead) % n < (v + n - r.cqhead) % n then .next (s.setQp p q { r with cqerr := true })
  else .next ((s.setQp p q { r with cqhead := v }).releaseHeld p q r.held.length)

/-- CQ_INTERRUPT_TIMER: CTIME µs have passed since the first entry not yet signalled. -/
def execCqInterruptTimer (p q : Nat) (s : State) : Out :=
  let r := s.qpAt p q
  if r.ien && r.ctime != 0 && r.unsignalled != 0 && r.ctime * 1700 ≤ s.cycle - r.firstAt then
    .next ((s.setQp p q { r with unsignalled := 0 }).interrupt (p + 1) r.vec)
  else notNow "CQ_INTERRUPT_TIMER"

/-! ## The fetch (R424, R425, R434) -/

/-- The record at SQHEAD. -/
def State.record (s : State) (p q : Nat) : List Byte :=
  let r := s.qpAt p q
  s.hostBytes (r.sqbase.toNat + 128 * r.sqhead) 128

/-- Ring `q` has a record to fetch: not while 64 entries are held, nor a graph launch while 64 instances run. -/
def State.ringDue (s : State) (p q : Nat) : Bool :=
  let d := s.paddockAt p
  let r := s.qpAt p q
  d.en && r.sqen && r.sqhead != r.sqtail && (d.qps.map fun x => x.held.length).sum < 64 &&
    (fieldAt (s.record p q) 2 1 != 4 || (s.insts.filter fun e => e.2.p == p).length < 64)

/-- The record of ring `q` if it is that ring's turn and its KIND is one of `kinds`; SQHEAD moves on. -/
def State.fetch (s : State) (p q : Nat) (kinds : Nat → Bool) : Option (State × List Byte) :=
  let d := s.paddockAt p
  match ((List.range 4).map fun i => (d.turn + i) % 4).find? (s.ringDue p) with
  | none => none
  | some k =>
    let b := s.record p q
    if k = q ∧ kinds (fieldAt b 2 1) then
      let r := s.qpAt p q
      let s := s.setPaddock p { d with turn := (q + 1) % 4 }
      some (s.setQp p q { r with sqhead := (r.sqhead + 1) % 2 ^ r.sqlog }, b)
    else none

/-! ## Rejection (R429) -/

/-- Reserved bytes of a record of kind 1 to 6, or of a node's record, are 0. -/
def recordClear (node : Bool) (b : List Byte) : Bool :=
  let k := fieldAt b 2 1
  fieldAt b 3 1 < 8 && (2 < k || fieldAt b 4 2 < 4096) && (k ≤ 2 || fieldAt b 48 4 == 0) && zeroBytes b 42 43 &&
    (node || zeroBytes b 38 47) && zeroBytes b 52 127

/-- A record's buffer: its address and length, for the kinds that have one. -/
def recordBuffer (b : List Byte) : Option (Nat × Nat) :=
  let k := fieldAt b 2 1
  if k ≤ 3 || k == 5 then some (fieldAt b 16 8, fieldAt b 24 4) else none

/-- The host read of a record's buffer returns its bytes. -/
def State.bufferRead (s : State) (b : List Byte) : Bool := (recordBuffer b).all fun r => !s.hostFails r.1 r.2

/-- Alignment, and ARGLEN against the buffer where that could be read. -/
def State.recordAligned (s : State) (b : List Byte) : Bool :=
  let a := fieldAt b 16 8
  match fieldAt b 2 1 with
  | 1 | 2 => fieldAt b 8 8 % 32 == 0 && fieldAt b 28 4 % 32 == 0 && fieldAt b 48 4 % 8 == 0 && a % 64 == 0 &&
      (!s.bufferRead b || fieldAt b 24 4 == 64 * memNat s.mem (hostAddr (a + 14)) 2)
  | 3 => a % 64 == 0 && fieldAt b 24 4 == 320
  | 5 => a % 64 == 0
  | _ => true

/-- CODEWIN holds the image; LCORE is the paddock's (R426, R427). -/
def State.recordCode (s : State) (p : Nat) (b : List Byte) : Bool :=
  let k := fieldAt b 2 1
  if 2 < k then true
  else
    match s.window p (fieldAt b 4 2 % 4096) with
    | none => false
    | some d => d.rank == 1 && d.fmt == 3 && d.rd && fieldAt b 8 8 + fieldAt b 28 4 + fieldAt b 48 4 ≤ d.ext.getD 0 0 &&
        (k != 2 || amGet s.lookups (fieldAt b 6 2) == some p)

/-- The conditions of R429 that a record of kind 1 to 3, or a node of a graph, meets; what a failed read of its buffer would have returned is
not judged. -/
def State.recordReasons (s : State) (p : Nat) (node : Bool) (b : List Byte) : List Nat :=
  let block : Bool := fieldAt b 2 1 != 3 || !s.bufferRead b || (s.hostBytes (fieldAt b 16 8 + 272) 48).all (· == 0)
  (if recordClear node b && block then [] else [2]) ++ (if s.recordAligned b then [] else [3]) ++
    (if s.recordCode p b then [] else [4]) ++ if s.bufferRead b then [] else [8]

/-- The record is rejected (R429). -/
def State.rejectRecord (s : State) (p q : Nat) (b : List Byte) (reason : Nat) : State :=
  let named : Bool := fieldAt b 2 1 == 4 || fieldAt b 2 1 == 6
  s.postEntry p ⟨fieldAt b 0 2, 2, q, reason, 0, if named then fieldAt b 32 4 else 0, if named then fieldAt b 36 2 else 0, none⟩

/-- A new launch; its number is answered. -/
def State.newLaunch (s : State) (p q : Nat) (b : List Byte) (handle version : Nat) : State × Nat :=
  let l := s.nextLaunch
  ({ s with
     launches := amSet s.launches l ⟨p, q, fieldAt b 0 2, fieldAt b 2 1, 0, handle, version, none⟩
     nextLaunch := l + 1 }, l)

/-- A record of kind 1 to 3: its task or copy, or its rejection. -/
def State.launchRecord (s : State) (p q : Nat) (b : List Byte) : State :=
  match (s.recordReasons p false b).min? with
  | some k => s.rejectRecord p q b k
  | none =>
    let (s, l) := s.newLaunch p q b 0 0
    let (s, seq) := s.startRecord p (.launch l) b (s.hostBytes (fieldAt b 16 8) (min (fieldAt b 24 4) 4096))
    match amGet s.launches l with
    | some r => { s with launches := amSet s.launches l { r with seq := seq } }
    | none => s

/-- KERNEL_LAUNCH (R426); a record of no known KIND is rejected here. -/
def execKernelLaunch (p q : Nat) (s : State) : Out :=
  match s.fetch p q fun k => k == 1 || k == 0 || 6 < k with
  | none => notNow "KERNEL_LAUNCH"
  | some (s, b) => .next (if fieldAt b 2 1 = 1 then s.launchRecord p q b else s.rejectRecord p q b 1)

/-- LOOKUP_KERNEL_LAUNCH (R426). -/
def execLookupKernelLaunch (p q : Nat) (s : State) : Out :=
  match s.fetch p q (· == 2) with
  | none => notNow "LOOKUP_KERNEL_LAUNCH"
  | some (s, b) => .next (s.launchRecord p q b)

/-- TRANSFORM_LAUNCH (R428). -/
def execTransformLaunch (p q : Nat) (s : State) : Out :=
  match s.fetch p q (· == 3) with
  | none => notNow "TRANSFORM_LAUNCH"
  | some (s, b) => .next (s.launchRecord p q b)

/-! ## Graphs (R433 to R435) -/

/-- The version a record names: it exists and is not retired; 0 on a graph launch is the latest such. -/
def State.namedVersion (s : State) (p h v : Nat) (latest : Bool) : Option Nat :=
  let live := (((amGet (s.paddockAt p).graphs h).getD []).filter fun e => !e.2.retired).map (·.1)
  if latest && v == 0 then live.max? else if live.contains v then some v else none

/-- Edges into node `n`, each counted as often as it is listed. -/
def edgesInto (nodes : List GraphNode) (n : Nat) : Nat := (nodes.map fun d => d.succs.count n).sum

/-- GRAPH_LAUNCH (R434): a new instance; every node whose counter starts at 0 is dispatched. -/
def execGraphLaunch (p q : Nat) (s : State) : Out :=
  match s.fetch p q (· == 4) with
  | none => notNow "GRAPH_LAUNCH"
  | some (s, b) =>
    if !recordClear false b then .next (s.rejectRecord p q b 2)
    else
      let h := fieldAt b 32 4
      match (s.namedVersion p h (fieldAt b 36 2) true).bind fun v => (s.graphVer p h v).map fun g => (v, g) with
      | none => .next (s.rejectRecord p q b 5)
      | some (v, g) =>
        let (s, l) := s.newLaunch p q b h v
        let counters := g.nodes.mapIdx fun n d => fieldAt d.record 38 2 + edgesInto g.nodes n
        let i := s.nextInst
        .next (({ s with insts := amSet s.insts i ⟨p, l, h, v, counters, [], [], false⟩, nextInst := i + 1 }).runInst i)

/-- The nodes left when those without a predecessor among them go, again and again; `fuel` bounds the rounds. -/
def peel (succs : List (List Nat)) : Nat → List Nat → List Nat
  | 0, r => r
  | fuel + 1, r => peel succs fuel (r.filter fun m => r.any fun k => (succs.getD k []).contains m)

/-- A graph description (R433): its nodes with their successors, or none where it is malformed. -/
def parseGraph (d : List Byte) : Option (List (List Byte × List Nat)) :=
  let n := fieldAt d 0 2
  if n = 0 ∨ 4096 < n ∨ d.length < 64 + 128 * n ∨ !zeroBytes d 2 3 ∨ !zeroBytes d 8 63 then none
  else
    let nodes := (List.range n).map fun i =>
      let r := (d.drop (64 + 128 * i)).take 128
      (r, (List.range (fieldAt r 40 2)).map fun k => fieldAt d (fieldAt r 44 4 + 2 * k) 2)
    if nodes.all fun (r, ss) => 1 ≤ fieldAt r 2 1 && fieldAt r 2 1 ≤ 3 && fieldAt r 40 2 ≤ 4095 &&
        fieldAt r 44 4 + 2 * fieldAt r 40 2 ≤ d.length && ss.all (· < n)
    then some nodes else none

/-- A version is held by the command processor: it has its nodes. -/
def GraphVer.held (v : GraphVer) : Bool := !v.nodes.isEmpty

/-- The handle and the version a seal makes: a new handle, the lowest free of 1,024, or the next version of `prev`. -/
def State.sealName (s : State) (p prev : Nat) : Option (Nat × Nat) :=
  let held (h : Nat) : Bool := ((amGet (s.paddockAt p).graphs h).getD []).any fun e => e.2.held
  if prev = 0 then (((List.range 1024).map (· + 1)).find? fun h => !held h).map fun h => (h, 1)
  else if held prev then some (prev, ((((amGet (s.paddockAt p).graphs prev).getD []).map (·.1)).max?).getD 0 + 1)
  else none

/-- SEAL (R433): the description is checked and copied; its entry is posted. -/
def execSeal (p q : Nat) (s : State) : Out :=
  match s.fetch p q (· == 5) with
  | none => notNow "SEAL"
  | some (s, b) =>
    let d := s.hostBytes (fieldAt b 16 8) (fieldAt b 24 4)
    let prev := fieldAt d 4 4
    let name := s.sealName p prev
    let graph := parseGraph d
    let ns := graph.getD []
    let cyclic := !(peel (ns.map (·.2)) ns.length (List.range ns.length)).isEmpty
    let content := ns.flatMap (fun n => s.recordReasons p true n.1) ++
      (if name.isNone then [5] else []) ++ (if graph.isNone then [6] else []) ++ (if cyclic then [7] else [])
    let reasons := s.recordReasons p false b ++ if s.bufferRead b then content else []
    match reasons.min?, name with
    | none, some (h, v) =>
      let nodes := ns.map fun (r, ss) => (⟨r, s.hostBytes (fieldAt r 16 8) (min (fieldAt r 24 4) 4096), ss⟩ : GraphNode)
      let e := s.paddockAt p
      let old := if prev = 0 then [] else (amGet e.graphs h).getD []
      let s := s.setPaddock p { e with graphs := amSet e.graphs h (amSet old v ⟨nodes, false⟩) }
      .next (s.postEntry p ⟨fieldAt b 0 2, 0, q, 0, 0, h, v, none⟩)
    | some k, _ => .next (s.rejectRecord p q b k)
    | none, none => .next (s.rejectRecord p q b 5)

/-- RETIRE (R435): the version is unusable for later launches and freed with its last instance. -/
def execRetire (p q : Nat) (s : State) : Out :=
  match s.fetch p q (· == 6) with
  | none => notNow "RETIRE"
  | some (s, b) =>
    if !recordClear false b then .next (s.rejectRecord p q b 2)
    else
      let h := fieldAt b 32 4
      let v := fieldAt b 36 2
      match s.namedVersion p h v false, s.graphVer p h v with
      | some _, some g =>
        let e := s.paddockAt p
        let s := s.setPaddock p { e with graphs := amSet e.graphs h (amSet ((amGet e.graphs h).getD []) v { g with retired := true }) }
        .next ((s.freeVersion p h v).postEntry p ⟨fieldAt b 0 2, 0, q, 0, 0, h, v, none⟩)
      | _, _ => .next (s.rejectRecord p q b 5)

end Sys2Proof.Machine
end

