-- ==== Sys2Proof/Machine/Driver.lean ====
section
/-! DEFINITION. The control ring and its commands, but for firmware and attestation (21 R436 to R450). -/
namespace Sys2Proof.Machine

/-! ## The ring (R436, R437) -/

/-- CTLTAIL (R436). -/
def execCtltail (v : Nat) (s : State) : Out := .next { s with ctl := { s.ctl with tail := v % 65536 } }

/-- A command of the ring: its slot and its operands. -/
structure CtlCmd where
  slot : Nat
  op : Nat
  a : Nat
  b : Nat
  c : Nat
  d : Nat
  deriving DecidableEq, Repr

/-- The command at CTLHEAD, where the ring is fetched and not empty. -/
def State.ctlHead (s : State) : Option CtlCmd :=
  if s.ctl.en && s.ctl.head != s.ctl.tail then
    let b := s.hostBytes (s.ctl.base.toNat + 64 * s.ctl.head) 64
    some ⟨s.ctl.head, fieldAt b 0 1, fieldAt b 8 8, fieldAt b 16 8, fieldAt b 24 8, fieldAt b 32 8⟩
  else none

/-- A command's step: it begins, and `f` is its effect. -/
def ctlStep (name : String) (mine : Nat → Bool) (f : State → CtlCmd → State) (s : State) : Out :=
  match s.ctlHead with
  | none => notNow name
  | some c =>
    if mine c.op then .next (f { s with ctl := { s.ctl with head := (s.ctl.head + 1) % 2 ^ s.ctl.log } } c)
    else notNow name

/-- A command whose effect is decided at once: the RESULT, the RETVAL and the state. -/
def ctlNow (name : String) (op : Nat) (f : State → CtlCmd → Nat × Nat × State) (s : State) : Out :=
  ctlStep name (· == op) (fun s c =>
    let (r, v, s) := f s c
    s.finishCtl c.slot r v) s

/-! ## The frame map (R438 to R442) -/

/-- A frame-map entry as software reads it (R439). -/
def FrameEntry.word (e : FrameEntry) : Nat :=
  e.state + 4 * e.owner + 256 * e.pin.toNat + 512 * e.moving.toNat + if e.state = 1 then 4096 * e.pframe else e.hostAddr

/-- The entry that FMSET writes, counter and MOVING as they were, NOTED clear (R445). -/
def frameEntryOf (v : Nat) (old : FrameEntry) : FrameEntry :=
  { old with
    state := bits v 0 2
    owner := bits v 2 6
    pin := bits v 8 1 == 1
    pframe := if bits v 0 2 = 1 then bits v 12 24 else 0
    hostAddr := if bits v 0 2 = 2 then bits v 16 48 * 65536 else 0
    noted := false }

/-- A new entry that FMSET refuses (R439, R440). -/
def State.badEntry (s : State) (f v : Nat) : Bool :=
  let st := bits v 0 2
  st == 3 || bits v 10 2 != 0 || (st == 0 && bits v 12 52 != 0) || (st == 2 && (bits v 12 4 != 0 || bits v 8 1 == 1)) ||
    (st == 1 && (bits v 36 28 != 0 || 9437184 ≤ bits v 12 24 || s.targeted (bits v 12 24) ||
      s.frames.any fun e => e.1 != f && e.2.state == 1 && e.2.pframe == bits v 12 24))

/-- FMSET (R440); an unknown OP is refused here. -/
def execFmset (s : State) : Out :=
  ctlStep "FMSET" (fun op => op == 1 || op == 0 || 0x16 < op) (fun s c =>
    if c.op ≠ 1 ∨ 2 ^ 24 ≤ c.a then s.finishCtl c.slot 1 0
    else if (s.frameAt c.a).moving || s.frameLeased c.a then s.finishCtl c.slot 2 0
    else if s.badEntry c.a c.b then s.finishCtl c.slot 1 0
    else (s.setFrame c.a (frameEntryOf c.b (s.frameAt c.a))).finishCtl c.slot 0 0) s

/-- FMGET (R438). -/
def execFmget (s : State) : Out :=
  ctlNow "FMGET" 2 (fun s c => if c.a < 2 ^ 24 then (0, (s.frameAt c.a).word, s) else (1, 0, s)) s

/-- The operands of WRFRM and RDFRM are good: a resident frame, multiples of 64 within it. -/
def State.frameSpan (s : State) (c : CtlCmd) : Bool :=
  c.a < 2 ^ 24 && (s.frameAt c.a).state == 1 && c.b % 64 == 0 && c.d % 64 == 0 && c.b + c.d ≤ 65536

/-- WRFRM (R438). -/
def execWrfrm (s : State) : Out :=
  ctlNow "WRFRM" 3 (fun s c =>
    if !s.frameSpan c then (1, 0, s)
    else if s.hostFails c.c c.d then (5, 0, s)
    else
      let a := hbmAddr (s.frameAt c.a).pframe c.b
      (0, 0, ((s.actAs portUnit 0).l2Touch true true (linesOf a c.d)).store a (s.hostBytes c.c c.d))) s

/-- RDFRM (R438): an exit, where check words are verified (23 R474). -/
def execRdfrm (s : State) : Out :=
  ctlNow "RDFRM" 4 (fun s c =>
    if !s.frameSpan c then (1, 0, s)
    else if s.hostFails c.c c.d then (5, 0, s)
    else
      let a := hbmAddr (s.frameAt c.a).pframe c.b
      let (s, _) := ((s.actAs portUnit 0).l2Touch true false (linesOf a c.d)).exitLines a c.d
      (0, 0, { s with mem := memWrite s.mem (hostAddr c.c) (memRead s.mem a c.d) })) s

/-- A frame that is resident, pinned and owned by `p`. -/
def State.pinnedBy (s : State) (p f : Nat) : Bool :=
  (s.frameAt f).state == 1 && (s.frameAt f).pin && (s.frameAt f).owner == p

/-- WTSET (R438). -/
def execWtset (s : State) : Out :=
  ctlNow "WTSET" 5 (fun s c =>
    if c.a < 64 && c.b + 4 ≤ 2 ^ 24 && (List.range 4).all fun k => s.pinnedBy c.a (c.b + k) then
      (0, 0, s.setPaddock c.a { s.paddockAt c.a with wt := some c.b })
    else (1, 0, s)) s

/-- INVAL (R438): no port holds a descriptor or an entry of a tile table from one access to the next. -/
def execInval (s : State) : Out := ctlNow "INVAL" 6 (fun s c => (if c.a < 64 && c.b < 4096 then 0 else 1, 0, s)) s

/-- MIGRATE (R442): the move begins; DONE follows the flip. -/
def execMigrate (s : State) : Out :=
  ctlStep "MIGRATE" (· == 7) (fun s c =>
    let e := s.frameAt c.a
    if e.moving then s.finishCtl c.slot 2 0
    else if 2 ^ 24 ≤ c.a || e.state != 1 || !s.unusedFrame c.b then s.finishCtl c.slot 1 0
    else s.startXfer c.a ⟨.migrate c.b, [c.slot]⟩) s

/-- OFFLOAD (R446; 23 R476): the outward transfer begins. -/
def execOffload (s : State) : Out :=
  ctlStep "OFFLOAD" (· == 8) (fun s c =>
    let e := s.frameAt c.a
    let hurt : Bool := s.poison.any fun l => l / 1024 == e.pframe
    if 2 ^ 24 ≤ c.a || c.b % 65536 != 0 then s.finishCtl c.slot 1 0
    else if e.state != 1 || e.pin || e.moving || s.frameLeased c.a || hurt then s.finishCtl c.slot 2 0
    else s.startXfer c.a ⟨.offload c.b, [c.slot]⟩) s

/-- RETURN (R447): the return to a named frame begins, or the command joins the one in progress. -/
def execReturnFrame (s : State) : Out :=
  ctlStep "RETURN" (· == 9) (fun s c =>
    match amGet s.xfers c.a with
    | some x => match x.kind with
      | .back q => { s with xfers := amSet s.xfers c.a ⟨.back q, x.slots ++ [c.slot]⟩ }
      | _ => s.finishCtl c.slot 2 0
    | none =>
      if 2 ^ 24 ≤ c.a || (s.frameAt c.a).state != 2 || !s.unusedFrame c.b then s.finishCtl c.slot 1 0
      else s.startXfer c.a ⟨.back c.b, [c.slot]⟩) s

/-- POOL (R438): free physical frames join the spare pool. -/
def execPool (s : State) : Out :=
  ctlNow "POOL" 10 (fun s c =>
    let d := s.paddockAt c.a
    let qs := (List.range (min c.c 9437185)).map (c.b + ·)
    if c.a < 64 && qs.all fun q => s.unusedFrame q && !(s.paddocks.any fun e => e.2.spare.contains q) then
      (0, 0, s.setPaddock c.a { d with spare := d.spare ++ qs, poolNoted := d.poolNoted && qs.isEmpty })
    else (1, 0, s)) s

/-- CELLS (R438). -/
def execCells (s : State) : Out :=
  ctlNow "CELLS" 11 (fun s c =>
    let d := s.paddockAt c.a
    if c.a < 64 && c.b < 8 && s.pinnedBy c.a c.c then (0, 0, s.setPaddock c.a { d with cells := amSet d.cells c.b c.c })
    else (1, 0, s)) s

/-- EVAC (R438): frames of the paddock join its evacuation area. -/
def execEvac (s : State) : Out :=
  ctlNow "EVAC" 12 (fun s c =>
    let d := s.paddockAt c.a
    let fs := (List.range (min c.c 16777217)).map (c.b + ·)
    if c.a < 64 && fs.all fun f => f < 2 ^ 24 && (s.frameAt f).state == 1 && (s.frameAt f).owner == c.a && !d.evac.contains f &&
        !(s.tasks.any fun e => e.2.evac.contains f) then
      (0, 0, s.setPaddock c.a { d with evac := d.evac ++ fs })
    else (1, 0, s)) s

/-! ## Tasks (R448 to R450) -/

/-- The task that a command names, if it has not ended. -/
def State.taskNamed (s : State) (c : CtlCmd) : Option Task :=
  s.findTask c.a (c.b % 2 ^ 24) fun t => t.xform.isNone && t.state != .ending

/-- PREEMPT (R448, R449). -/
def execPreempt (s : State) : Out :=
  ctlStep "PREEMPT" (· == 13) (fun s c =>
    let hard : Bool := c.c % 2 = 1
    match s.taskNamed c with
    | none => s.finishCtl c.slot 6 0
    | some t =>
      let placed : Bool := t.cores.any (· < 384)
      if t.lookup.isSome then s.finishCtl c.slot 1 0
      else if s.preempts.any fun r => r.tid == t.tid then s.finishCtl c.slot 2 0
      else if placed && (hard || (t.state == .running && !s.shadowRoom t)) && s.freeEvac t.p < s.evacFrames t then s.finishCtl c.slot 3 0
      else
        let held := s.setTask t.tid { t with hold := t.hold || c.c / 2 % 2 = 1 }
        match t.state with
        | .running => held.askPreempt t.tid hard (some c.slot)
        | .stabling _ => (if hard then held else s).askPreempt t.tid hard (some c.slot)
        | .stabled _ => if hard then held.askPreempt t.tid true (some c.slot) else s.finishCtl c.slot 0 0
        | .soft => if hard then held.askPreempt t.tid true (some c.slot) else held.finishCtl c.slot 0 0
        | _ => held.finishCtl c.slot 0 0) s

/-- RESUME (R438). -/
def execResume (s : State) : Out :=
  ctlNow "RESUME" 14 (fun s c =>
    match s.taskNamed c with
    | none => (6, 0, s)
    | some t => (0, 0, s.setTask t.tid { t with hold := false })) s

/-- ENDTASK (R448, R449): a pre-emption in progress finishes with RESULT 0, then the task ends with PV-03. -/
def execEndtask (s : State) : Out :=
  ctlNow "ENDTASK" 15 (fun s c =>
    match s.taskNamed c with
    | none => (6, 0, s)
    | some t => (0, 0, (s.endPreempt t.tid 0).endTask t.tid { cls := .PV, num := 3 })) s

/-- CTXREAD (R450). -/
def execCtxread (s : State) : Out :=
  ctlNow "CTXREAD" 16 (fun s c =>
    match s.taskNamed c with
    | none => (6, 0, s)
    | some t =>
      let off : Bool := t.debugHalt.isSome || (match t.state with
        | .soft | .hard _ => t.hold
        | _ => false)
      if t.size ≤ c.c then (1, 0, s)
      else if !off then (2, 0, s)
      else if s.hostFails c.d 2240 then (5, 0, s)
      else (0, 0, { s with mem := memWrite s.mem (hostAddr c.d) (s.ctxImage (t.tid * 32 + c.c)) })) s

/-- LKASSIGN (R438): an idle lookup core changes hands. -/
def execLkassign (s : State) : Out :=
  ctlNow "LKASSIGN" 17 (fun s c =>
    if 48 ≤ c.a || 64 ≤ c.b then (1, 0, s)
    else if (s.coreAt (384 + c.a)).slots.any (·.isSome) then (2, 0, s)
    else (0, 0, { s with lookups := amSet s.lookups c.a c.b })) s

/-- DEBUG (R438). -/
def execDebug (s : State) : Out :=
  ctlNow "DEBUG" 18 (fun s c =>
    if c.a < 64 && c.b ≤ 1 then (0, 0, s.setPaddock c.a { s.paddockAt c.a with session := c.b == 1 }) else (1, 0, s)) s

/-- CTRCLR (R438, R445). -/
def execCtrclr (s : State) : Out :=
  ctlNow "CTRCLR" 19 (fun s c =>
    if c.a < 2 ^ 24 then (0, 0, s.setFrame c.a { s.frameAt c.a with cnt := 0, noted := false }) else (1, 0, s)) s

/-- The number of a slot of a window BAR: the driver's 4,096 first, then 1,024 for each paddock. -/
def barKey (pf : Bool) (p slot : Nat) : Nat := if pf then slot else 4096 + p * 1024 + slot

/-- BARMAP (R438). -/
def execBarmap (s : State) : Out :=
  ctlNow "BARMAP" 20 (fun s c =>
    let p := bits c.a 0 6
    let pf : Bool := bits c.a 8 1 == 1
    if bits c.a 6 2 != 0 || bits c.a 9 55 != 0 || (if pf then 4096 else 1024) ≤ c.b || bits c.c 13 51 != 0 then (1, 0, s)
    else if bits c.c 12 1 = 1 then (0, 0, { s with bars := amSet s.bars (barKey pf p c.b) ⟨p, bits c.c 0 12, c.d⟩ })
    else (0, 0, { s with bars := amDel s.bars (barKey pf p c.b) })) s

end Sys2Proof.Machine
end

