-- ==== Sys2Proof/Machine/Secure.lean ====
section
/-! DEFINITION. Firmware images, module reset and boot, attestation (21 R452 to R456). -/
namespace Sys2Proof.Machine

/-- `n` bytes that a function gives. -/
def bytesOf (f : Nat → Byte) (n : Nat) : List Byte := (List.range n).map f

/-- SVNMIN (R453, R454). -/
def State.svnMin (s : State) : Nat := max (Config.fuseSvn % 65536) s.boot.svn

/-- BOOTSTAT (R453). -/
def State.bootStat (s : State) : Nat := s.boot.stage + 256 * s.boot.failKind + 65536 * s.svnMin

/-- An image that is accepted (R454): its KIND and what it says of itself. -/
def State.verifyImage (s : State) (b : List Byte) : Option (Nat × FwImage) :=
  let f := fieldAt b
  let body := b.drop 5632
  let key := (b.drop 128).take 1952
  let sig := (b.drop 2080).take 3309
  let digest := (b.drop 12).take 64
  if 5632 ≤ b.length && f 0 4 == 0x46574C48 && 1 ≤ f 4 1 && f 4 1 ≤ 3 && f 5 1 ≤ 1 && f 8 4 == body.length &&
      zeroBytes b 76 127 && zeroBytes b 5389 5631 && shake256 key 64 == bytesOf Config.vendorDigest 64 &&
      mlDsaVerify key (b.take 128) sig && shake256 body 64 == digest && s.svnMin ≤ f 6 2 then
    some (f 4 1, ⟨f 6 2, f 5 1 == 1, digest⟩)
  else none

/-- FWSTAGE (R438): an image that verifies is stored for the next module reset. -/
def execFwstage (s : State) : Out :=
  ctlNow "FWSTAGE" 22 (fun s c =>
    if s.hostFails c.a c.b then (5, 0, s)
    else
      match s.verifyImage (s.hostBytes c.a c.b) with
      | none => (1, 0, s)
      | some (k, i) => (0, 0, { s with boot := { s.boot with staged := amSet s.boot.staged k i } })) s

/-- The image of a KIND that is booted: the one staged last, else the one that ran, else the one stored at manufacture; none where it
is not accepted. -/
def State.bootImage (s : State) (k : Nat) : Option FwImage :=
  let factory : FwImage := ⟨Config.factorySvn k % 65536, Config.factoryAdvance k, bytesOf (Config.factoryDigest k) 64⟩
  match amGet s.boot.staged k, amGet s.boot.running k with
  | some i, _ => if s.svnMin ≤ i.svn then some i else none
  | none, some i => if s.svnMin ≤ i.svn then some i else none
  | none, none => if Config.factoryOk k && s.svnMin ≤ factory.svn then some factory else none

/-- The units that run the image of a KIND: READY bits (R452, R454). -/
def unitsOf (k : Nat) : List Nat := if k = 1 then [639] else if k = 2 then [614, 615] else [640, 641]

/-- The images of the KINDs in order, those accepted so far, and the KIND of the first that is not: no later one is looked at. -/
def State.bootAll (s : State) : List Nat → AMap FwImage → AMap FwImage × Option Nat
  | [], m => (m, none)
  | k :: ks, m =>
    match s.bootImage k with
    | none => (m, some k)
    | some i => s.bootAll ks (amSet m k i)

/-- READY after boot: every unit that passes its self-test, but for those whose image was not accepted. -/
def readyAfter (booted : AMap FwImage) : Nat :=
  let held := [1, 2, 3].flatMap fun k => if (amGet booted k).isSome then [] else unitsOf k
  (List.range 642).foldl (fun a i => if Config.selfTest i && !held.contains i then a + 2 ^ i else a) 0

/-- MODULE_RESET (R454): the device's state as after reset, and boot: images verified in order, SVNMIN raised, READY set. The
memories keep their bytes; the model's own counters go on. -/
def execModuleReset (s : State) : Out :=
  let (booted, failed) := s.bootAll [1, 2, 3] []
  let svn := booted.foldl (fun v e => if e.2.advance then max v e.2.svn else v) s.boot.svn
  .next { State.reset with
    module := s.module
    freeCtr := s.freeCtr
    nextOp := s.nextOp
    nextTid := s.nextTid
    mem := s.mem
    poison := s.poison
    badSeal := s.badSeal
    sealer := s.sealer
    latent := s.latent
    irq := s.irq
    hostBad := s.hostBad
    ready := readyAfter booted
    boot := ⟨if failed.isSome then 4 else 3, failed.getD 0, svn, [], booted⟩ }

/-- The body digest and SVN of an image that runs; zeros where none does. -/
def State.imageDigest (s : State) (k : Nat) : List Byte :=
  match amGet s.boot.running k with
  | some i => i.digest
  | none => List.replicate 64 0

def State.imageSvn (s : State) (k : Nat) : Nat := ((amGet s.boot.running k).map (·.svn)).getD 0

/-- The report of ATTEST (R456). -/
def State.report (s : State) (nonce : List Byte) : List Byte :=
  let id := s.imageDigest 1
  let body := natLe 4 0x54414C48 ++ bytesOf Config.serial 16 ++ nonce ++ [1, 2, 3].flatMap s.imageDigest ++
    [1, 2, 3].flatMap (fun k => natLe 2 (s.imageSvn k)) ++ natLe 8 s.bootStat ++ natLe 8 s.cycle ++ natLe 6 0 ++
    bytesOf (Config.attestKey id) 1952 ++ bytesOf (Config.attestCert id) 3309
  body ++ bytesOf (Config.attestSign id body) 3309

/-- ATTEST (R456). -/
def execAttest (s : State) : Out :=
  ctlNow "ATTEST" 21 (fun s c =>
    if s.hostFails c.a 32 || s.hostFails c.b 8842 then (5, 0, s)
    else (0, 0, { s with mem := memWrite s.mem (hostAddr c.b) (s.report (s.hostBytes c.a 32)) })) s

end Sys2Proof.Machine
end

