-- ==== Sys2Proof/Machine/Power.lean ====
section
/-! DEFINITION. Operating points, the power limit and its samples, arbiters (22 R465 to R472). -/
namespace Sys2Proof.Machine

/-! ## Operating points (R468, R469) -/

/-- The steps that stand against an island. -/
def State.stepsOf (s : State) (i : Nat) : Nat := (amGet s.power.steps i).getD 0

/-- An island may run at a point: PCI Express, security block and management at 0 only; a cluster's within PTOP, and not slower than
5 while it holds a team; not faster than R471 has made it, nor an array faster than 5 while EMERG is set. -/
def State.pointOk (s : State) (i pt : Nat) : Bool :=
  i < 1024 && pt < 8 && (i < 1020 || pt == 0) && (s.stepsOf i == 0 || s.point i ≤ pt) &&
    (!s.power.emerg || i < 384 || 768 ≤ i || 5 ≤ pt) &&
    (match islandCluster i with
     | some cl => s.topPoint cl ≤ pt && (pt ≤ 5 || !s.clusterBusy cl)
     | none => true)

/-- The point of an island and how many steps of R471 stand against it. -/
def State.setPoint (s : State) (i pt steps : Nat) : State :=
  let put (m : AMap Nat) (v : Nat) : AMap Nat := if v = 0 then amDel m i else amSet m i v
  { s with power := { s.power with points := put s.power.points pt, steps := put s.power.steps steps } }

/-- ISLAND_OPERATING_POINT_CHANGE (R468): the controllers set the point; the steps of R471 against the island stay. -/
def execIslandOperatingPointChange (island point : Nat) (s : State) : Out :=
  if s.pointOk island point then .next (s.setPoint island point (s.stepsOf island)) else notNow "ISLAND_OPERATING_POINT_CHANGE"

/-! ## The power limit (R470, R471) -/

/-- PNOW: the samples of the last millisecond, one each 10 µs, averaged. -/
def Power.now (w : Power) : Nat := if w.samples.isEmpty then 0 else w.samples.sum / w.samples.length

/-- PNOW is below PLIMIT − 100 W. -/
def Power.isLow (w : Power) : Bool := w.now + 100 < w.plimit

/-- EMERG clears when PNOW is below PLIMIT (R471). -/
def Power.settle (w : Power) : Power := if w.now < w.plimit then { w with emerg := false } else w

/-- PLIMIT (R470). -/
def execPlimit (v : BitVec 64) (s : State) : Out :=
  let w := { s.power with plimit := max 1200 (min 2600 (v.toNat % 4096)) }
  .next { s with power := ({ w with low := if w.isLow then w.low else 0 } : Power).settle }

/-- One island moved to a point as a step of R471. -/
def State.stepTo (s : State) (i pt : Nat) : State := s.setPoint i pt (s.stepsOf i + (pt - s.point i))

/-- POWER_SAMPLE (R471), every 10 µs: a sample above 2,600 W sets EMERG and moves every matrix-array island to point 5. -/
def execPowerSample (w : Nat) (s : State) : Out :=
  let p := { s.power with samples := (w :: s.power.samples).take 100 }
  let s := { s with power := ({ p with low := if p.isLow then p.low + 1 else 0 } : Power).settle }
  if 2600 < w then
    .next ((List.range 384).foldl (fun s c => s.stepTo (384 + c) 5) { s with power := { s.power with emerg := true } })
  else .next s

/-- By how much a paddock's power exceeds PWRSHARE/64 of PLIMIT, times 64. -/
def State.excess (s : State) (p w : Nat) : Int := 64 * (w : Int) - ((s.paddockAt p).pwrShare * s.power.plimit : Nat)

/-- The cores of the clusters on which a paddock places teams. -/
def State.coresOf (s : State) (p : Nat) : List Nat := (List.range 384).filter fun c => s.holderOf (c / 8) == some p

/-- One step slower: the arrays, or once those are at 5 the cores (R471). -/
def State.slowDown (s : State) (p : Nat) : State :=
  let cs := s.coresOf p
  let slower (s : State) (i : Nat) : State := s.stepTo i (max (s.point i) (min 5 (s.point i + 1)))
  if cs.all fun c => 5 ≤ s.point (384 + c) then cs.foldl slower s else (cs.map (384 + ·)).foldl slower s

/-- One step reversed, the cores' first, never beyond PTOP; none where nothing is left to reverse. -/
def State.speedUp (s : State) (p : Nat) : Option State :=
  let cs := s.coresOf p
  let faster (s : State) (i : Nat) : State := s.setPoint i (s.point i - 1) (s.stepsOf i - 1)
  let slow (i : Nat) : Bool := 0 < s.stepsOf i && (s.paddockAt p).ptop < s.point i
  if cs.any slow then some ((cs.filter slow).foldl faster s)
  else
    let ms := (cs.map (384 + ·)).filter slow
    if ms.isEmpty then none else some (ms.foldl faster s)

/-- Paddocks by rising excess, the lower number first on ties. -/
def insertExcess (x : Int × Nat) : List (Int × Nat) → List (Int × Nat)
  | [] => [x]
  | y :: ys => if x.1 < y.1 || (x.1 == y.1 && x.2 < y.2) then x :: y :: ys else y :: insertExcess x ys

/-- The paddock of most excess, the lower number on ties. -/
def mostExcess : List (Int × Nat) → Option (Int × Nat)
  | [] => none
  | x :: xs =>
    match mostExcess xs with
    | some y => if y.1 < x.1 || (y.1 == x.1 && x.2 < y.2) then some x else some y
    | none => some x

/-- ENERGY of a paddock (R472): `w` watts for 100 µs; what does not make a millijoule yet is kept. -/
def State.countEnergy (s : State) (p w : Nat) : State :=
  let d := s.paddockAt p
  let e := d.energy + 100 * w
  (s.setPaddock p { d with energy := e % 1000 }).telemetry p 7 (e / 1000)

/-- POWER_STEP (R471), every 100 µs, with the power attributed to each paddock: a step down above PLIMIT, a step reversed when the
samples of a millisecond have all left PNOW below PLIMIT − 100 W and EMERG is clear. -/
def execPowerStep (attributed : List (Nat × Nat)) (s : State) : Out :=
  let as_ := attributed.filter fun a => a.1 < 64
  let s := as_.foldl (fun s a => s.countEnergy a.1 a.2) s
  let xs := as_.map fun a => (s.excess a.1 a.2, a.1)
  if s.power.plimit < s.power.now then
    match mostExcess xs with
    | some x => .next (s.slowDown x.2)
    | none => .next s
  else if 100 < s.power.low && !s.power.emerg then .next (((xs.foldl (fun l x => insertExcess x l) []).findSome? fun x => s.speedUp x.2).getD s)
  else .next s

/-! ## Arbiters (R465, R466) -/

/-- The share and the CAP bit of a paddock at an arbiter: 0 to 23 are the memory controllers, the others network ports. -/
def State.arbShare (s : State) (arb p : Nat) : Nat × Bool :=
  let d := s.paddockAt p
  if arb < 24 then (d.hbmShare, d.hbmCap) else (d.netShare, d.netCap)

/-- An arbiter after module reset: no round; the next begins at paddock 0. -/
def Arb.fresh : Arb := ⟨[], 63, []⟩

/-- A paddock that its cap does not hold back: fewer than 16 × share of the last 1,023 slots were its own. -/
def State.uncapped (s : State) (arb : Nat) (a : Arb) (p : Nat) : Bool :=
  !(s.arbShare arb p).2 || (a.recent.count p) < 16 * (s.arbShare arb p).1

/-- The next paddock in ascending number after the one served last, wrapping, that has credit. -/
def Arb.pick (a : Arb) (able : List Nat) : Option Nat :=
  ((List.range 64).map fun i => (a.last + 1 + i) % 64).find? fun p => able.contains p && 0 < (amGet a.credit p).getD 0

/-- One grant slot: the round goes on while some paddock that waits has credit, else a new one begins with the shares of all that wait;
where nobody waits the round is over; the slot is idle then, and where caps hold back every one with credit (log entry 104). -/
def State.grant (s : State) (arb : Nat) (waiting : List Nat) : Arb × Option Nat :=
  let a := (amGet s.arbs arb).getD .fresh
  let ps := waiting.filter (· < 64)
  let a := if ps.any fun p => 0 < (amGet a.credit p).getD 0 then a
    else { a with credit := ps.foldl (fun m p => amSet m p (s.arbShare arb p).1) [] }
  match a.pick (ps.filter (s.uncapped arb a)) with
  | some p =>
    (⟨amSet a.credit p ((amGet a.credit p).getD 0 - 1), p, (p :: a.recent).take 1023⟩, some p)
  | none => ({ a with recent := (64 :: a.recent).take 1023 }, none)

/-- The frame lies at the memory controller and belongs to the paddock. -/
def State.frameAtArb (s : State) (arb p f : Nat) : Bool :=
  let e := s.frameAt f
  e.state == 1 && e.owner == p && e.pframe / 393216 == arb

/-- ARBITER_GRANT (R465): one unit, a line transfer of a frame at this controller (counted as the line moves, see L2) or a flit. -/
def execArbiterGrant (arb : Nat) (waiting : List Nat) (frame : Option Nat) (s : State) : Out :=
  match s.grant arb waiting with
  | (a, none) => .next { s with arbs := amSet s.arbs arb a }
  | (a, some p) =>
    let s := { s with arbs := amSet s.arbs arb a }
    if arb < 24 then
      match frame with
      | none => .next s
      | some f => if s.frameAtArb arb p f then .next s else notNow "ARBITER_GRANT"
    else .next (s.telemetry p 6 1)

end Sys2Proof.Machine
end

