-- ==== Sys2Proof/Machine/Device.lean ====
section
/-! DEFINITION. The paddock registers, the registers of BAR0, the window BARs, function-level reset, scrubbing and soft errors
(20 R420, R422, R423; 21 R436, R438, R443; 22 R457 to R463; 23 R473 to R480). -/
namespace Sys2Proof.Machine

/-! ## Paddock registers (22 R457 to R461) -/

/-- A fifth enabled paddock would have one of the clusters of `m` in its mask, offered yet or not. -/
def State.crowded (s : State) (p : Nat) (m : BitVec 48) : Bool :=
  (List.range 48).any fun cl => m.getLsbD cl && 4 ≤ (s.paddocks.filter fun e => e.1 != p && e.2.en && e.2.clmask.getLsbD cl).length

/-- A cluster taken from a paddock (R461): its teams there are hard pre-empted; from a holder the next sharer takes it at once, one with
a task to place if there is one (log entry 84). -/
def State.loseCluster (s : State) (p cl : Nat) : State :=
  let held : Bool := (amGet s.holders cl).any (·.1 == p)
  let next := (s.nextHolder p cl).orElse fun _ => (s.sharersAfter cl p).head?
  let s := s.clearCluster p cl
  match held, next with
  | false, _ => s
  | true, some q => { s with holders := amSet s.holders cl (q, s.cycle) }
  | true, none => { s with holders := amDel s.holders cl }

/-- CLMASK (R459, R461): refused with CLERR where a cluster would have a fifth enabled paddock. -/
def execClmask (p : Nat) (v : BitVec 64) (s : State) : Out :=
  let d := s.paddockAt p
  let m := v.setWidth 48
  if d.en && s.crowded p m then .next (s.setPaddock p { d with clErr := true })
  else
    let lost := (List.range 48).filter fun cl => d.clmask.getLsbD cl && !m.getLsbD cl
    let s := s.setPaddock p { d with clmask := m }
    .next (lost.foldl (fun s cl => s.loseCluster p cl) s)

/-- PADDOCK_EN (R457 to R459): EN, with CLERR where a cluster would have a fifth enabled paddock; CLERR and VALERR cleared by 1. -/
def execPaddockEn (p : Nat) (v : BitVec 64) (s : State) : Out :=
  let d := s.paddockAt p
  let d := { d with clErr := d.clErr && !v.getLsbD 1, valErr := d.valErr && !v.getLsbD 2 }
  if v.getLsbD 0 && !d.en && s.crowded p d.clmask then .next (s.setPaddock p { d with clErr := true })
  else .next (s.setPaddock p { d with en := v.getLsbD 0 })

/-- PADDOCK_ALLOTMENT_WRITE (R457): a write of 0x08 or 0x10 with a field out of range is refused whole, with VALERR. -/
def execPaddockAllotmentWrite (p off : Nat) (v : BitVec 64) (s : State) : Out :=
  let d := s.paddockAt p
  let f := bits v.toNat
  let share (k : Nat) : Bool := 1 ≤ f k 7 && f k 7 ≤ 64
  if off = 8 then
    if share 0 && share 8 && share 16 && 10 ≤ f 32 16 then
      .next (s.setPaddock p { d with
        hbmShare := f 0 7, hbmCap := f 7 1 == 1, netShare := f 8 7, netCap := f 15 1 == 1, pwrShare := f 16 7, ptop := f 24 3,
        tsquant := f 32 16 })
    else .next (s.setPaddock p { d with valErr := true })
  else if off = 16 then
    if f 0 13 ≤ 4096 && f 16 3 ≤ 4 then .next (s.setPaddock p { d with winMax := f 0 13, qpMax := f 16 3 })
    else .next (s.setPaddock p { d with valErr := true })
  else notNow "PADDOCK_ALLOTMENT_WRITE"

/-! ## The registers of BAR0 (R423, R436, R443, R463, R479) -/

/-- A write that sets an EN bit of a queue pair is ignored at or above QPMAX, and before the paddock's command processor is ready (R422;
22 R458). -/
def State.pairShut (s : State) (p q : Nat) : Bool := (s.paddockAt p).qpMax ≤ q || !s.ready.testBit (614 + p % 2)

/-- SQLOG, SQEN, SQCQ: ignored where it changes SQLOG while SQEN is 1 (R423). -/
def State.writeSq (s : State) (p q : Nat) (v : Nat) : State :=
  let r := s.qpAt p q
  let on : Bool := bits v 5 1 == 1
  if (r.sqen && bits v 0 5 != r.sqlog) || (on && s.pairShut p q) then s
  else s.setQp p q { r with sqlog := bits v 0 5, sqen := on, sqcq := bits v 6 2 }

/-- Launches of pair `q` are outstanding: one has not finished, or an entry for it, or for its completion ring, is still held. -/
def State.cqBusy (s : State) (p q : Nat) : Bool :=
  s.launches.any (fun e => e.2.p == p && e.2.ring == q) || !(s.qpAt p q).held.isEmpty ||
    (s.paddockAt p).qps.any fun r => r.held.any (·.ring == q)

/-- The completion ring's register; CQEN cannot be cleared while launches are outstanding, and PHASE starts at 1 as it is set. -/
def State.writeCq (s : State) (p q : Nat) (v : Nat) : State :=
  let r := s.qpAt p q
  let want : Bool := bits v 5 1 == 1
  let on : Bool := want || (r.cqen && s.cqBusy p q)
  if (r.cqen && bits v 0 5 != r.cqlog) || (want && s.pairShut p q) then s
  else s.setQp p q { r with
    cqlog := bits v 0 5, cqen := on, ien := bits v 6 1 == 1, vec := bits v 7 2, ccount := bits v 16 8, ctime := bits v 32 16,
    phase := if on && !r.cqen then true else r.phase }

/-- A write at an offset of a queue pair's registers (R423). -/
def State.writeQp (s : State) (p q off : Nat) (v : Nat) : State :=
  let r := s.qpAt p q
  match off with
  | 0x00 => if r.sqen then s else s.setQp p q { r with sqbase := word (v / 128 * 128) }
  | 0x08 => s.writeSq p q v
  | 0x10 => if r.cqen then s else s.setQp p q { r with cqbase := word (v / 64 * 64) }
  | 0x18 => s.writeCq p q v
  | 0x38 => s.setQp p q { r with sqerr := r.sqerr && bits v 0 1 == 0, cqerr := r.cqerr && bits v 1 1 == 0 }
  | _ => s

/-- A write at an offset of a notification queue's registers (21 R443). -/
def State.writeNq (s : State) (p off : Nat) (v : Nat) : State :=
  let d := s.paddockAt p
  let q := d.nq
  match off with
  | 0x00 => s.setPaddock p { d with nq := { q with base := word (v / 16 * 16) } }
  | 0x08 =>
    let en : Bool := bits v 5 1 == 1
    s.setPaddock p { d with nq := { q with
      log := bits v 0 5, en := en, thresh := bits v 16 16, phase := if en && !q.en then true else q.phase } }
  | _ => s

/-- A write at an offset of the error registers (23 R479). -/
def State.writeEl (s : State) (off : Nat) (v : Nat) : State :=
  let e := s.elog
  match off with
  | 0x00 => { s with elog := { e with base := word (v / 32 * 32) } }
  | 0x08 =>
    let en : Bool := bits v 4 1 == 1
    { s with elog := { e with
      log := bits v 0 4, en := en, ien := bits v 5 1 == 1, phase := if en && !e.en then true else e.phase } }
  | 0x18 => { s with elog := { e with ovf := e.ovf && bits v 16 1 == 0 } }
  | 0x20 =>
    let a := bits v 0 16
    let b := bits v 16 16
    { s with elog := { e with sramPer := if a = 0 then e.sramPer else a, hbmPer := if b = 0 then e.hbmPer else b } }
  | _ => s

/-- Four way masks, of slices `sl` to `sl + 3` (22 R463). -/
def State.writeWays (s : State) (p sl : Nat) (v : Nat) : State :=
  let d := s.paddockAt p
  s.setPaddock p { d with ways := (List.range 4).foldl (fun m k => amSet m (sl + k) (bits v (16 * k) 16)) d.ways }

/-- CTLBASE, CTLLOG and CTLEN; a write that sets CTLEN before the command processor is ready has no effect (21 R436). -/
def State.writeCtl (s : State) (off : Nat) (v : Nat) : State :=
  let r := s.ctl
  let on : Bool := bits v 4 1 == 1
  if off = 0 then if r.en then s else { s with ctl := { r with base := word (v / 64 * 64) } }
  else if on && !s.ready.testBit 614 then s
  else { s with ctl := { r with log := if r.en then r.log else bits v 0 4, en := on } }

/-- REGISTER_WRITE (00 R7): an 8-byte write of BAR0; read-only and reserved registers ignore it. -/
def execRegisterWrite (off : Nat) (v : BitVec 64) (s : State) : Out :=
  let n := v.toNat
  if off % 8 ≠ 0 ∨ 16777216 ≤ off then notNow "REGISTER_WRITE"
  else if off ≤ 8 then .next (s.writeCtl off n)
  else if 0x4000 ≤ off ∧ off < 0x5000 then .next (s.writeNq ((off - 0x4000) / 64) (off % 64) n)
  else if 0x5000 ≤ off ∧ off < 0x5040 then .next (s.writeEl (off - 0x5000) n)
  else if 0xC000 ≤ off ∧ off < 0x10000 then
    .next (if off % 256 < 0xC0 then s.writeWays ((off - 0xC000) / 256) (off % 256 / 2) n else s)
  else if 0x100000 ≤ off ∧ off < 0x500000 then
    let o := off % 65536
    .next (if o < 0x400 then s.writeQp ((off - 0x100000) / 65536) (o / 256) (o % 256) n else s)
  else .next s

/-! ## Reads of BAR0 (00 R7) -/

/-- The registers of a queue pair (R423). -/
def State.readQp (s : State) (p q off : Nat) : Nat :=
  let r := s.qpAt p q
  match off with
  | 0x00 => r.sqbase.toNat
  | 0x08 => r.sqlog + 32 * r.sqen.toNat + 64 * r.sqcq
  | 0x10 => r.cqbase.toNat
  | 0x18 => r.cqlog + 32 * r.cqen.toNat + 64 * r.ien.toNat + 128 * r.vec + 65536 * r.ccount + 2 ^ 32 * r.ctime
  | 0x30 => r.sqhead
  | 0x38 => r.sqerr.toNat + 2 * r.cqerr.toNat + 4 * (!r.held.isEmpty).toNat
  | _ => 0

/-- The registers of a notification queue (21 R443). -/
def NoteQueue.read (q : NoteQueue) (off : Nat) : Nat :=
  match off with
  | 0x00 => q.base.toNat
  | 0x08 => q.log + 32 * q.en.toNat + 65536 * q.thresh
  | 0x18 => q.ovf.toNat + 65536 * q.tail
  | _ => 0

/-- The error registers (23 R479). -/
def ErrLog.read (e : ErrLog) (off : Nat) : Nat :=
  match off with
  | 0x00 => e.base.toNat
  | 0x08 => e.log + 16 * e.en.toNat + 32 * e.ien.toNat
  | 0x18 => e.tail + 65536 * e.ovf.toNat
  | 0x20 => e.sramPer + 65536 * e.hbmPer
  | _ => if 0x40 ≤ off ∧ off < 0x80 then e.counts.getD ((off - 0x40) / 8) 0 else 0

/-- The configuration registers of a paddock (22 R457). -/
def Paddock.read (d : Paddock) (off : Nat) : Nat :=
  match off with
  | 0x00 => d.clmask.toNat
  | 0x08 => d.hbmShare + 128 * d.hbmCap.toNat + 256 * d.netShare + 32768 * d.netCap.toNat + 65536 * d.pwrShare + 2 ^ 24 * d.ptop +
      2 ^ 32 * d.tsquant
  | 0x10 => d.winMax + 65536 * d.qpMax
  | 0x18 => d.en.toNat + 2 * d.clErr.toNat + 4 * d.valErr.toNat
  | _ => 0

/-- An 8-byte read of BAR0: RW, RO and W1C fields as they stand; WO fields, reserved fields and reserved offsets 0 (00 R7). -/
def State.registerRead (s : State) (off : Nat) : Nat :=
  let part (lo : Nat) : Nat := off - lo
  let up (n : Nat) (f : Nat → Nat) : Nat := (List.range n).foldl (fun a k => a + f k) 0
  if off % 8 ≠ 0 ∨ 16777216 ≤ off then 0
  else if off = 0x00 then s.ctl.base.toNat
  else if off = 0x08 then s.ctl.log + 16 * s.ctl.en.toNat
  else if off = 0x18 then s.ctl.head
  else if 0x1000 ≤ off ∧ off < 0x1080 then bits s.ready (8 * part 0x1000) 64
  else if off = 0x2000 then s.bootStat
  else if off = 0x3000 then s.power.plimit
  else if off = 0x3008 then s.power.now + 4096 * s.power.emerg.toNat
  else if 0x3400 ≤ off ∧ off < 0x3600 then up 16 fun k => s.point (2 * part 0x3400 + k) * 16 ^ k
  else if 0x4000 ≤ off ∧ off < 0x5000 then (s.paddockAt (part 0x4000 / 64)).nq.read (off % 64)
  else if 0x5000 ≤ off ∧ off < 0x5080 then s.elog.read (part 0x5000)
  else if 0x8000 ≤ off ∧ off < 0xA000 then (s.paddockAt (part 0x8000 / 128)).read (off % 128)
  else if 0xC000 ≤ off ∧ off < 0x10000 then
    if off % 256 < 0xC0 then up 4 fun k => (s.paddockAt (part 0xC000 / 256)).wayMask (off % 256 / 2 + k) * 65536 ^ k else 0
  else if 0x20000 ≤ off ∧ off < 0x24000 then (s.paddockAt (part 0x20000 / 256)).tele.getD (off % 256 / 8) 0
  else if 0x100000 ≤ off ∧ off < 0x500000 then
    if off % 65536 < 0x400 then s.readQp (part 0x100000 / 65536) (off % 65536 / 256) (off % 256) else 0
  else 0

/-- ELHEAD (23 R479). -/
def execElhead (v : Nat) (s : State) : Out := .next { s with elog := { s.elog with head := v % 65536 } }

/-! ## Window BARs (20 R421, 21 R438) -/

/-- Where byte `addr` of a window BAR lies: a resident frame's byte; none where nothing is mapped. -/
def State.barPlace (s : State) (pf : Bool) (p addr : Nat) : Option Nat :=
  let slot := addr / 67108864
  if (if pf then 4096 else 1024) ≤ slot then none
  else
    match amGet s.bars (barKey pf p slot) with
    | none => none
    | some b =>
      match s.window b.p b.win with
      | none => none
      | some d =>
        let tile := b.first + addr % 67108864 / 65536
        if d.tiles ≤ tile then none
        else ((s.tileFrame d tile).bind (s.winPlace d)).map (· + addr % 65536)

/-- Bytes cut at line boundaries, with the address of each piece; `fuel` bounds the pieces. -/
def cutLines : Nat → Nat → List Byte → List (Nat × List Byte)
  | 0, _, _ => []
  | fuel + 1, a, bs =>
    if bs.isEmpty then []
    else
      let n := 64 - a % 64
      (a, bs.take n) :: cutLines fuel (a + n) (bs.drop n)

/-- WINDOW_BAR_ACCESS (21 R438, 23 R473, R474, R476): a read completes with its bytes, all ones where nothing is mapped, and its EP
bit; a write lands, sealed afresh, or is dropped. -/
def execWindowBarAccess (pf : Bool) (p addr : Nat) (acc : HostAccess) (s : State) : Out :=
  match acc with
  | .read len =>
    let places := (List.range len).map fun i => s.barPlace pf p (addr + i)
    let ls := ((places.filterMap id).map (· / 64)).dedup
    let (s, bad) := ((s.actAs portUnit 0).l2Touch true false ls).verify ls
    let bs := places.map fun x => match x with
      | some a => memGet s.mem a
      | none => 0xFF
    .next { s with cpl := some (bs, bad) }
  | .write bytes =>
    .next ((cutLines (bytes.length + 1) addr bytes).foldl (fun s piece =>
      match s.barPlace pf p piece.1 with
      | some a => (s.l2Touch true true (linesOf a piece.2.length)).store a piece.2
      | none => s) (s.actAs portUnit 0))

/-! ## Function-level reset (20 R420) -/

/-- FUNCTION_LEVEL_RESET: the paddock's queues are disabled, its tasks end, held entries go, nothing more is posted. -/
def execFunctionLevelReset (vf : Nat) (s : State) : Out :=
  if vf = 0 ∨ 64 < vf then notNow "FUNCTION_LEVEL_RESET"
  else
    let p := vf - 1
    let d := s.paddockAt p
    let s := s.setPaddock p { d with qps := d.qps.map fun r => { r with sqen := false, cqen := false, held := [] } }
    let gone := s.insts.filter fun e => e.2.p == p
    let s := { s with launches := s.launches.filter fun e => e.2.p != p, insts := s.insts.filter fun e => e.2.p != p }
    let s := gone.foldl (fun s e => s.freeVersion p e.2.handle e.2.version) s
    .next (s.tasks.foldl (fun s e =>
      if e.2.p == p then (s.endPreempt e.1 0).endTask e.1 { cls := .PV, num := 3 } else s) s)

/-! ## Scrubbing and soft errors (23 R475, R480) -/

/-- SCRUB_READ (R475): an error of the line is corrected or poisons it. -/
def execScrubRead (line : Nat) (s : State) : Out := .next ((s.actAs (s.unitOfLine line) 0).settleLine line)

/-- A line that a stored bit can be struck in (log entry 133): one of memory; a copy, while the L2 slice or the cache line named by its
number holds what it copies; a line of a context that stands in shadow storage. -/
def State.lineThere (s : State) (l : Nat) : Bool :=
  if 2 ^ 142 ≤ l then
    let cid := (l - 2 ^ 142) / 64
    (amGet s.ctxs cid).isSome && (match (s.taskAt (s.ctxAt cid).tid).state with
      | .stabled _ | .soft | .hard false => true
      | _ => false)
  else if 2 ^ 141 ≤ l then
    let k := l - 2 ^ 141
    (s.homeLine (k / 32768) (k / 512 % 64) (k % 512)).isSome
  else if 2 ^ 140 ≤ l then
    ((amGet s.l2 ((l - 2 ^ 140) / 2 ^ 40)).getD []).any fun e => e.line == (l - 2 ^ 140) % 2 ^ 40 / 2
  else true

/-- SOFT_ERROR (R475, R477, R480). -/
def execSoftError (e : SoftError) (s : State) : Out :=
  match e with
  | .memory line bit =>
    if !s.lineThere line then notNow "SOFT_ERROR" else
    let old := (amGet s.latent line).getD []
    let now := if old.contains (bit % 512) then old.filter (· != bit % 512) else (bit % 512) :: old
    .next { s with latent := if now.isEmpty then amDel s.latent line else amSet s.latent line now }
  | .dataPath line bit =>
    let a := line * 64 + bit / 8 % 64
    let w := s.checkWord line
    let m := memSet s.mem a (memGet s.mem a ^^^ BitVec.ofNat 8 (2 ^ (bit % 8)))
    .next { s with mem := m, badSeal := if lineCrc m line = w then amDel s.badSeal line else amSet s.badSeal line w }
  | .accumulator core row col bit =>
    .next (s.modArr core fun a => { a with flips := a.flips ++ [(row % 128, col % 128, bit % 48)] })
  | .registerFile core slot reg =>
    match (s.coreAt core).slots.getD slot none with
    | some cid => .next (s.setCtx cid { s.ctxAt cid with damaged := union (s.ctxAt cid).damaged [reg] })
    | none => notNow "SOFT_ERROR"

end Sys2Proof.Machine
end

