-- ==== Sys2Proof/Machine/Dispatch.lean ====
section
/-! DEFINITION. One arm per instruction and device step: the meaning of each. -/
namespace Sys2Proof.Machine

/-- One word, as the issue of its bundle, or one step of the device. -/
def exec (i : Instr) (s : State) : Host.Outcome State Fault Refusal :=
  match i with
  | .add g d a b => Sys2Proof.Machine.execAdd g d a b s
  | .sub g d a b => Sys2Proof.Machine.execSub g d a b s
  | .addi g d a imm => Sys2Proof.Machine.execAddi g d a imm s
  | .movi g d imm => Sys2Proof.Machine.execMovi g d imm s
  | .mul g d a b => Sys2Proof.Machine.execMul g d a b s
  | .mulh g d a b => Sys2Proof.Machine.execMulh g d a b s
  | .mulhu g d a b => Sys2Proof.Machine.execMulhu g d a b s
  | .and g d a b => Sys2Proof.Machine.execAnd g d a b s
  | .or g d a b => Sys2Proof.Machine.execOr g d a b s
  | .xor g d a b => Sys2Proof.Machine.execXor g d a b s
  | .andn g d a b => Sys2Proof.Machine.execAndn g d a b s
  | .andi g d a imm => Sys2Proof.Machine.execAndi g d a imm s
  | .ori g d a imm => Sys2Proof.Machine.execOri g d a imm s
  | .xori g d a imm => Sys2Proof.Machine.execXori g d a imm s
  | .shl g d a b => Sys2Proof.Machine.execShl g d a b s
  | .shr g d a b => Sys2Proof.Machine.execShr g d a b s
  | .sar g d a b => Sys2Proof.Machine.execSar g d a b s
  | .shli g d a n => Sys2Proof.Machine.execShli g d a n s
  | .shri g d a n => Sys2Proof.Machine.execShri g d a n s
  | .sari g d a n => Sys2Proof.Machine.execSari g d a n s
  | .clz g d a => Sys2Proof.Machine.execClz g d a s
  | .popc g d a => Sys2Proof.Machine.execPopc g d a s
  | .min g d a b => Sys2Proof.Machine.execMin g d a b s
  | .max g d a b => Sys2Proof.Machine.execMax g d a b s
  | .minu g d a b => Sys2Proof.Machine.execMinu g d a b s
  | .maxu g d a b => Sys2Proof.Machine.execMaxu g d a b s
  | .sel g d a b c => Sys2Proof.Machine.execSel g d a b c s
  | .bfx g d a b => Sys2Proof.Machine.execBfx g d a b s
  | .bfi g d a b => Sys2Proof.Machine.execBfi g d a b s
  | .cmpeq g d a b => Sys2Proof.Machine.execCmpeq g d a b s
  | .cmpne g d a b => Sys2Proof.Machine.execCmpne g d a b s
  | .cmplt g d a b => Sys2Proof.Machine.execCmplt g d a b s
  | .cmpltu g d a b => Sys2Proof.Machine.execCmpltu g d a b s
  | .cmple g d a b => Sys2Proof.Machine.execCmple g d a b s
  | .cmpleu g d a b => Sys2Proof.Machine.execCmpleu g d a b s
  | .cmpeqi g d a imm => Sys2Proof.Machine.execCmpeqi g d a imm s
  | .cmplti g d a imm => Sys2Proof.Machine.execCmplti g d a imm s
  | .nop g n => Sys2Proof.Machine.execNop g n s
  | .br g imm => Sys2Proof.Machine.execBr g imm s
  | .brx g a => Sys2Proof.Machine.execBrx g a s
  | .call g imm => Sys2Proof.Machine.execCall g imm s
  | .callx g a => Sys2Proof.Machine.execCallx g a s
  | .ret g a => Sys2Proof.Machine.execRet g a s
  | .tend g => Sys2Proof.Machine.execTend g s
  | .trap g code => Sys2Proof.Machine.execTrap g code s
  | .loop g a off => Sys2Proof.Machine.execLoop g a off s
  | .loopi g n off => Sys2Proof.Machine.execLoopi g n off s
  | .loopt g d a b off => Sys2Proof.Machine.execLoopt g d a b off s
  | .pipe g a src => Sys2Proof.Machine.execPipe g a src s
  | .lclose g imm => Sys2Proof.Machine.execLclose g imm s
  | .pand g d a b => Sys2Proof.Machine.execPand g d a b s
  | .por g d a b => Sys2Proof.Machine.execPor g d a b s
  | .pxor g d a b => Sys2Proof.Machine.execPxor g d a b s
  | .pandn g d a b => Sys2Proof.Machine.execPandn g d a b s
  | .pnot g d a => Sys2Proof.Machine.execPnot g d a s
  | .pseti g d v => Sys2Proof.Machine.execPseti g d v s
  | .ptox g d => Sys2Proof.Machine.execPtox g d s
  | .xtop g a => Sys2Proof.Machine.execXtop g a s
  | .waitany g d a => Sys2Proof.Machine.execWaitany g d a s
  | .waitall g d a => Sys2Proof.Machine.execWaitall g d a s
  | .ffrdy g d a => Sys2Proof.Machine.execFfrdy g d a s
  | .pushm g a b => Sys2Proof.Machine.execPushm g a b s
  | .popm g a b => Sys2Proof.Machine.execPopm g a b s
  | .bara g d b => Sys2Proof.Machine.execBara g d b s
  | .barw g b => Sys2Proof.Machine.execBarw g b s
  | .fence g ord scope => Sys2Proof.Machine.execFence g ord scope s
  | .csrr g d csr => Sys2Proof.Machine.execCsrr g d csr s
  | .csrw g a csr => Sys2Proof.Machine.execCsrw g a csr s
  | .csrs g a csr => Sys2Proof.Machine.execCsrs g a csr s
  | .csrc g a csr => Sys2Proof.Machine.execCsrc g a csr s
  | .tret g => Sys2Proof.Machine.execTret g s
  | .dbrk g code => Sys2Proof.Machine.execDbrk g code s
  | .regwb g a => Sys2Proof.Machine.execRegwb g a s
  | .lqry g d a => Sys2Proof.Machine.execLqry g d a s
  | .vadd g o => Sys2Proof.Machine.execVadd g o s
  | .vsub g o => Sys2Proof.Machine.execVsub g o s
  | .vmul g o => Sys2Proof.Machine.execVmul g o s
  | .vfma g o => Sys2Proof.Machine.execVfma g o s
  | .vdiv g o => Sys2Proof.Machine.execVdiv g o s
  | .vmin g o => Sys2Proof.Machine.execVmin g o s
  | .vmax g o => Sys2Proof.Machine.execVmax g o s
  | .vneg g o => Sys2Proof.Machine.execVneg g o s
  | .vabs g o => Sys2Proof.Machine.execVabs g o s
  | .vand g o => Sys2Proof.Machine.execVand g o s
  | .vor g o => Sys2Proof.Machine.execVor g o s
  | .vxor g o => Sys2Proof.Machine.execVxor g o s
  | .vshl g o => Sys2Proof.Machine.execVshl g o s
  | .vshr g o => Sys2Proof.Machine.execVshr g o s
  | .vsar g o => Sys2Proof.Machine.execVsar g o s
  | .vsel g o => Sys2Proof.Machine.execVsel g o s
  | .vcmpeq g o => Sys2Proof.Machine.execVcmpeq g o s
  | .vcmpne g o => Sys2Proof.Machine.execVcmpne g o s
  | .vcmplt g o => Sys2Proof.Machine.execVcmplt g o s
  | .vcmple g o => Sys2Proof.Machine.execVcmple g o s
  | .vcvt g c d rnd a raw tag sat => Sys2Proof.Machine.execVcvt g c d rnd a raw tag sat s
  | .vrco g d a => Sys2Proof.Machine.execVrco g d a s
  | .vmov g d a => Sys2Proof.Machine.execVmov g d a s
  | .vsplat g tag d a b => Sys2Proof.Machine.execVsplat g tag d a b s
  | .vrot g c d a b => Sys2Proof.Machine.execVrot g c d a b s
  | .vbcst g d a b => Sys2Proof.Machine.execVbcst g d a b s
  | .vred g d rnd a op mask => Sys2Proof.Machine.execVred g d rnd a op mask s
  | .vscan g c d rnd a => Sys2Proof.Machine.execVscan g c d rnd a s
  | .vexpd g c d a b => Sys2Proof.Machine.execVexpd g c d a b s
  | .vsetch g d a b => Sys2Proof.Machine.execVsetch g d a b s
  | .vgetch g d a => Sys2Proof.Machine.execVgetch g d a s
  | .vpopq g d q => Sys2Proof.Machine.execVpopq g d q s
  | .vcrot g d a b => Sys2Proof.Machine.execVcrot g d a b s
  | .vcbcst g d a b => Sys2Proof.Machine.execVcbcst g d a b s
  | .vcred g c d rnd a op => Sys2Proof.Machine.execVcred g c d rnd a op s
  | .vcscan g c d rnd a op => Sys2Proof.Machine.execVcscan g c d rnd a op s
  | .vldl g tag d a b => Sys2Proof.Machine.execVldl g tag d a b s
  | .vstl g a b => Sys2Proof.Machine.execVstl g a b s
  | .vopt g r rnd gr h => Sys2Proof.Machine.execVopt g r rnd gr h s
  | .vextr g d a b => Sys2Proof.Machine.execVextr g d a b s
  | .frcp g c d rnd a sat => Sys2Proof.Machine.execFrcp g c d rnd a sat s
  | .frsq g c d rnd a sat => Sys2Proof.Machine.execFrsq g c d rnd a sat s
  | .fsqrt g c d rnd a sat => Sys2Proof.Machine.execFsqrt g c d rnd a sat s
  | .fexp g c d rnd a sat => Sys2Proof.Machine.execFexp g c d rnd a sat s
  | .fexp2 g c d rnd a sat => Sys2Proof.Machine.execFexp2 g c d rnd a sat s
  | .flog g c d rnd a sat => Sys2Proof.Machine.execFlog g c d rnd a sat s
  | .flog2 g c d rnd a sat => Sys2Proof.Machine.execFlog2 g c d rnd a sat s
  | .ftanh g c d rnd a sat => Sys2Proof.Machine.execFtanh g c d rnd a sat s
  | .fsig g c d rnd a sat => Sys2Proof.Machine.execFsig g c d rnd a sat s
  | .fsin g c d rnd a sat => Sys2Proof.Machine.execFsin g c d rnd a sat s
  | .fcos g c d rnd a sat => Sys2Proof.Machine.execFcos g c d rnd a sat s
  | .frand g d a => Sys2Proof.Machine.execFrand g d a s
  | .ldb g d a imm => Sys2Proof.Machine.execLdb g d a imm s
  | .ldbu g d a imm => Sys2Proof.Machine.execLdbu g d a imm s
  | .ldh g d a imm => Sys2Proof.Machine.execLdh g d a imm s
  | .ldhu g d a imm => Sys2Proof.Machine.execLdhu g d a imm s
  | .ldw g d a imm => Sys2Proof.Machine.execLdw g d a imm s
  | .ldwu g d a imm => Sys2Proof.Machine.execLdwu g d a imm s
  | .ldd g d a imm => Sys2Proof.Machine.execLdd g d a imm s
  | .lda g d a imm => Sys2Proof.Machine.execLda g d a imm s
  | .stb g src a imm => Sys2Proof.Machine.execStb g src a imm s
  | .sth g src a imm => Sys2Proof.Machine.execSth g src a imm s
  | .stw g src a imm => Sys2Proof.Machine.execStw g src a imm s
  | .std g src a imm => Sys2Proof.Machine.execStd g src a imm s
  | .strl g src a imm => Sys2Proof.Machine.execStrl g src a imm s
  | .aadd g d a b size => Sys2Proof.Machine.execAadd g d a b size s
  | .aswp g d a b size => Sys2Proof.Machine.execAswp g d a b size s
  | .acas g d a b size => Sys2Proof.Machine.execAcas g d a b size s
  | .amin g d a b size => Sys2Proof.Machine.execAmin g d a b size s
  | .amax g d a b size => Sys2Proof.Machine.execAmax g d a b size s
  | .aminu g d a b size => Sys2Proof.Machine.execAminu g d a b size s
  | .amaxu g d a b size => Sys2Proof.Machine.execAmaxu g d a b size s
  | .qpops g q a b skip => Sys2Proof.Machine.execQpops g q a b skip s
  | .tlds g t a o => Sys2Proof.Machine.execTlds g t a o s
  | .tsts g t a o => Sys2Proof.Machine.execTsts g t a o s
  | .vldr g d a b fmt pitch => Sys2Proof.Machine.execVldr g d a b fmt pitch s
  | .vstx g a src fmt rnd sat pitch => Sys2Proof.Machine.execVstx g a src fmt rnd sat pitch s
  | .vpack g a src => Sys2Proof.Machine.execVpack g a src s
  | .vunpack g d a => Sys2Proof.Machine.execVunpack g d a s
  | .ldbCm g d a imm => Sys2Proof.Machine.execLdbCm g d a imm s
  | .ldbuCm g d a imm => Sys2Proof.Machine.execLdbuCm g d a imm s
  | .ldhCm g d a imm => Sys2Proof.Machine.execLdhCm g d a imm s
  | .ldhuCm g d a imm => Sys2Proof.Machine.execLdhuCm g d a imm s
  | .ldwCm g d a imm => Sys2Proof.Machine.execLdwCm g d a imm s
  | .ldwuCm g d a imm => Sys2Proof.Machine.execLdwuCm g d a imm s
  | .lddCm g d a imm => Sys2Proof.Machine.execLddCm g d a imm s
  | .ldaCm g d a imm => Sys2Proof.Machine.execLdaCm g d a imm s
  | .stbCm g src a imm => Sys2Proof.Machine.execStbCm g src a imm s
  | .sthCm g src a imm => Sys2Proof.Machine.execSthCm g src a imm s
  | .stwCm g src a imm => Sys2Proof.Machine.execStwCm g src a imm s
  | .stdCm g src a imm => Sys2Proof.Machine.execStdCm g src a imm s
  | .strlCm g src a imm => Sys2Proof.Machine.execStrlCm g src a imm s
  | .aaddCm g d a b size => Sys2Proof.Machine.execAaddCm g d a b size s
  | .aswpCm g d a b size => Sys2Proof.Machine.execAswpCm g d a b size s
  | .acasCm g d a b size => Sys2Proof.Machine.execAcasCm g d a b size s
  | .aminCm g d a b size => Sys2Proof.Machine.execAminCm g d a b size s
  | .amaxCm g d a b size => Sys2Proof.Machine.execAmaxCm g d a b size s
  | .aminuCm g d a b size => Sys2Proof.Machine.execAminuCm g d a b size s
  | .amaxuCm g d a b size => Sys2Proof.Machine.execAmaxuCm g d a b size s
  | .qpopsCm g q a b skip => Sys2Proof.Machine.execQpopsCm g q a b skip s
  | .tldsCm g t a => Sys2Proof.Machine.execTldsCm g t a s
  | .tstsCm g t a => Sys2Proof.Machine.execTstsCm g t a s
  | .cadd g d a b scope ord order => Sys2Proof.Machine.execCadd g d a b scope ord order s
  | .cswp g d a b scope ord order => Sys2Proof.Machine.execCswp g d a b scope ord order s
  | .ccas g d a b scope ord order => Sys2Proof.Machine.execCcas g d a b scope ord order s
  | .cmin g d a b scope ord order => Sys2Proof.Machine.execCmin g d a b scope ord order s
  | .cmax g d a b scope ord order => Sys2Proof.Machine.execCmax g d a b scope ord order s
  | .cld g d a scope ord order => Sys2Proof.Machine.execCld g d a scope ord order s
  | .tsett g t a => Sys2Proof.Machine.execTsett g t a s
  | .tgett g d t => Sys2Proof.Machine.execTgett g d t s
  | .dbind g d a => Sys2Proof.Machine.execDbind g d a s
  | .drebind g d a => Sys2Proof.Machine.execDrebind g d a s
  | .dclr g m => Sys2Proof.Machine.execDclr g m s
  | .dget g d a => Sys2Proof.Machine.execDget g d a s
  | .tflag g t clr set => Sys2Proof.Machine.execTflag g t clr set s
  | .tzero g t => Sys2Proof.Machine.execTzero g t s
  | .tmov g d a => Sys2Proof.Machine.execTmov g d a s
  | .treshp g d a b tag => Sys2Proof.Machine.execTreshp g d a b tag s
  | .ttrans g d a tag => Sys2Proof.Machine.execTtrans g d a tag s
  | .tcast g d a tag fmt => Sys2Proof.Machine.execTcast g d a tag fmt s
  | .tcvt g d a tag fmt rnd sat => Sys2Proof.Machine.execTcvt g d a tag fmt rnd sat s
  | .tqnt g d a tag fmt geom rnd => Sys2Proof.Machine.execTqnt g d a tag fmt geom rnd s
  | .tdqnt g d a tag fmt rnd sat => Sys2Proof.Machine.execTdqnt g d a tag fmt rnd sat s
  | .tcmpr g d a e tag => Sys2Proof.Machine.execTcmpr g d a e tag s
  | .mlds g a tag => Sys2Proof.Machine.execMlds g a tag s
  | .mswap g tag => Sys2Proof.Machine.execMswap g tag s
  | .mmul g q a start c tag fmt rnd sat => Sys2Proof.Machine.execMmul g q a start c tag fmt rnd sat s
  | .mmuln g a start c tag => Sys2Proof.Machine.execMmuln g a start c tag s
  | .mmulS g q a start c tag fmt rnd sat m => Sys2Proof.Machine.execMmulS g q a start c tag fmt rnd sat m s
  | .mmulnS g a start c tag m => Sys2Proof.Machine.execMmulnS g a start c tag m s
  | .mdrain g q tag fmt rnd sat => Sys2Proof.Machine.execMdrain g q tag fmt rnd sat s
  | .mxw g x a => Sys2Proof.Machine.execMxw g x a s
  | .mxr g d x => Sys2Proof.Machine.execMxr g d x s
  | .cew g x a => Sys2Proof.Machine.execCew g x a s
  | .cewi g x imm => Sys2Proof.Machine.execCewi g x imm s
  | .cer g d x => Sys2Proof.Machine.execCer g d x s
  | .cerst g => Sys2Proof.Machine.execCerst g s
  | .copy g tag a b => Sys2Proof.Machine.execCopy g tag a b s
  | .ymatch g v a b tag => Sys2Proof.Machine.execYmatch g v a b tag s
  | .ymerge g v a tag => Sys2Proof.Machine.execYmerge g v a tag s
  | .yunmerge g a tag => Sys2Proof.Machine.execYunmerge g a tag s
  | .yretire g a tag => Sys2Proof.Machine.execYretire g a tag s
  | .ystat g d => Sys2Proof.Machine.execYstat g d s
  | .tspawn g d a b => Sys2Proof.Machine.execTspawn g d a b s
  | .gdec g d a b => Sys2Proof.Machine.execGdec g d a b s
  | .gread g d a => Sys2Proof.Machine.execGread g d a s
  | .dsend g a tag => Sys2Proof.Machine.execDsend g a tag s
  | .drecv g a b tag => Sys2Proof.Machine.execDrecv g a b tag s
  | .dflush g tag => Sys2Proof.Machine.execDflush g tag s
  | .dcomb g a tag => Sys2Proof.Machine.execDcomb g a tag s
  | .fsend g a b tag => Sys2Proof.Machine.execFsend g a b tag s
  | .frecv g t b tag => Sys2Proof.Machine.execFrecv g t b tag s
  | .lgath g a b tag => Sys2Proof.Machine.execLgath g a b tag s
  | .ldedup g d a b => Sys2Proof.Machine.execLdedup g d a b s
  | .lpool g a op tag => Sys2Proof.Machine.execLpool g a op tag s
  | .lhand g a tag => Sys2Proof.Machine.execLhand g a tag s
  | .contextSwitch core => Sys2Proof.Machine.execContextSwitch core s
  | .stabling p seq => Sys2Proof.Machine.execStabling p seq s
  | .stablingMoveComplete p seq => Sys2Proof.Machine.execStablingMoveComplete p seq s
  | .teamReturn p seq => Sys2Proof.Machine.execTeamReturn p seq s
  | .schedulingRound => Sys2Proof.Machine.execSchedulingRound s
  | .timeShareHandOver cluster => Sys2Proof.Machine.execTimeShareHandOver cluster s
  | .preemptionHalt p seq => Sys2Proof.Machine.execPreemptionHalt p seq s
  | .evacuation p seq => Sys2Proof.Machine.execEvacuation p seq s
  | .taskResume p seq cluster => Sys2Proof.Machine.execTaskResume p seq cluster s
  | .taskCompletion p seq => Sys2Proof.Machine.execTaskCompletion p seq s
  | .faultTaskEnd p seq => Sys2Proof.Machine.execFaultTaskEnd p seq s
  | .leaseGrant p seq => Sys2Proof.Machine.execLeaseGrant p seq s
  | .frameReturn f ok => Sys2Proof.Machine.execFrameReturn f ok s
  | .matrixCommandStart core => Sys2Proof.Machine.execMatrixCommandStart core s
  | .mldsLoadComplete core => Sys2Proof.Machine.execMldsLoadComplete core s
  | .mswapTakesEffect core => Sys2Proof.Machine.execMswapTakesEffect core s
  | .mmulChunkEnd core => Sys2Proof.Machine.execMmulChunkEnd core s
  | .slabPush core => Sys2Proof.Machine.execSlabPush core s
  | .drainWaitTimeout core => Sys2Proof.Machine.execDrainWaitTimeout core s
  | .followOnEntry core => Sys2Proof.Machine.execFollowOnEntry core s
  | .copyStart op => Sys2Proof.Machine.execCopyStart op s
  | .copyCompletion op => Sys2Proof.Machine.execCopyCompletion op s
  | .yokeCommandStart span => Sys2Proof.Machine.execYokeCommandStart span s
  | .yokeCommandCompletion span => Sys2Proof.Machine.execYokeCommandCompletion span s
  | .handOffLanding op => Sys2Proof.Machine.execHandOffLanding op s
  | .dispatchRowLanding op => Sys2Proof.Machine.execDispatchRowLanding op s
  | .dflushCompletion op => Sys2Proof.Machine.execDflushCompletion op s
  | .dispatchWaitCompletion op => Sys2Proof.Machine.execDispatchWaitCompletion op s
  | .fabricPayloadArrival src => Sys2Proof.Machine.execFabricPayloadArrival src s
  | .counterOperationPerform op => Sys2Proof.Machine.execCounterOperationPerform op s
  | .counterReplyArrival op => Sys2Proof.Machine.execCounterReplyArrival op s
  | .graphCounterDecrement op => Sys2Proof.Machine.execGraphCounterDecrement op s
  | .cacheLinePowerState core line st => Sys2Proof.Machine.execCacheLinePowerState core line st s
  | .functionLevelReset vf => Sys2Proof.Machine.execFunctionLevelReset vf s
  | .sqtail p q v => Sys2Proof.Machine.execSqtail p q v s
  | .cqhead p q v => Sys2Proof.Machine.execCqhead p q v s
  | .kernelLaunch p q => Sys2Proof.Machine.execKernelLaunch p q s
  | .lookupKernelLaunch p q => Sys2Proof.Machine.execLookupKernelLaunch p q s
  | .transformLaunch p q => Sys2Proof.Machine.execTransformLaunch p q s
  | .graphLaunch p q => Sys2Proof.Machine.execGraphLaunch p q s
  | .seal p q => Sys2Proof.Machine.execSeal p q s
  | .retire p q => Sys2Proof.Machine.execRetire p q s
  | .cqInterruptTimer p q => Sys2Proof.Machine.execCqInterruptTimer p q s
  | .ctltail v => Sys2Proof.Machine.execCtltail v s
  | .fmset => Sys2Proof.Machine.execFmset s
  | .fmget => Sys2Proof.Machine.execFmget s
  | .wrfrm => Sys2Proof.Machine.execWrfrm s
  | .rdfrm => Sys2Proof.Machine.execRdfrm s
  | .wtset => Sys2Proof.Machine.execWtset s
  | .inval => Sys2Proof.Machine.execInval s
  | .migrate => Sys2Proof.Machine.execMigrate s
  | .migrationFlip f => Sys2Proof.Machine.execMigrationFlip f s
  | .offload => Sys2Proof.Machine.execOffload s
  | .offloadComplete f ok => Sys2Proof.Machine.execOffloadComplete f ok s
  | .returnFrame => Sys2Proof.Machine.execReturnFrame s
  | .pool => Sys2Proof.Machine.execPool s
  | .cells => Sys2Proof.Machine.execCells s
  | .evac => Sys2Proof.Machine.execEvac s
  | .preempt => Sys2Proof.Machine.execPreempt s
  | .resume => Sys2Proof.Machine.execResume s
  | .endtask => Sys2Proof.Machine.execEndtask s
  | .ctxread => Sys2Proof.Machine.execCtxread s
  | .lkassign => Sys2Proof.Machine.execLkassign s
  | .debug => Sys2Proof.Machine.execDebug s
  | .ctrclr => Sys2Proof.Machine.execCtrclr s
  | .barmap => Sys2Proof.Machine.execBarmap s
  | .attest => Sys2Proof.Machine.execAttest s
  | .fwstage => Sys2Proof.Machine.execFwstage s
  | .windowBarAccess pf p addr acc => Sys2Proof.Machine.execWindowBarAccess pf p addr acc s
  | .nqhead p v => Sys2Proof.Machine.execNqhead p v s
  | .noticeOvfClear p => Sys2Proof.Machine.execNoticeOvfClear p s
  | .clmask p v => Sys2Proof.Machine.execClmask p v s
  | .paddockEn p v => Sys2Proof.Machine.execPaddockEn p v s
  | .paddockAllotmentWrite p off v => Sys2Proof.Machine.execPaddockAllotmentWrite p off v s
  | .plimit v => Sys2Proof.Machine.execPlimit v s
  | .powerSample w => Sys2Proof.Machine.execPowerSample w s
  | .powerStep attributed => Sys2Proof.Machine.execPowerStep attributed s
  | .arbiterGrant arb waiting frame => Sys2Proof.Machine.execArbiterGrant arb waiting frame s
  | .scrubRead line => Sys2Proof.Machine.execScrubRead line s
  | .elhead v => Sys2Proof.Machine.execElhead v s
  | .moduleReset => Sys2Proof.Machine.execModuleReset s
  | .debuggerRelease p seq => Sys2Proof.Machine.execDebuggerRelease p seq s
  | .registerWrite off v => Sys2Proof.Machine.execRegisterWrite off v s
  | .softError e => Sys2Proof.Machine.execSoftError e s
  | .remoteTargetUnreachable op => Sys2Proof.Machine.execRemoteTargetUnreachable op s
  | .islandOperatingPointChange island point => Sys2Proof.Machine.execIslandOperatingPointChange island point s

end Sys2Proof.Machine
end

