-- ==== Sys2Proof/Machine/Fetch.lean ====
section
/-! DEFINITION. From a code image to a bundle's instructions and their issue; what the machine does where the agenda is empty
(01 R13; 08 R196 to R200; 10 R276, R281). -/
namespace Sys2Proof.Machine

/-! ## Fetch (08 R198 to R202) -/

/-- The words of the task's image from `a` up to `e`. -/
def State.imageWords (s : State) (t : Task) (a e : Nat) : List Nat :=
  (List.range ((e - a) / 4)).filterMap fun i => s.codeWord t (a + 4 * i)

/-- The bundle at the PC of the context in issue: its instructions with their slots, and its length in words; else the first
encoding fault of R200, in that order. -/
def State.fetchBundle (s : State) : Except FaultRec (List SlotWord × Nat) :=
  let c := s.ctx
  let t := s.task
  let a := c.pc.toNat
  match s.startFault t a with
  | some n => .error (enFault n 0 a)
  | none =>
    let e := s.bundleEnd t 8 a
    let ws := s.imageWords t a e
    if e % 32 = 0 && (s.codeWord t e).any fun w => !startsBundle w then .error (enFault 6 0 a)
    else
      match decodeBundle (384 ≤ c.core) ws with
      | .error f => .error (enFault f.num f.word a)
      | .ok l =>
        match bundleClash (c.retire c.bidx).rrb l a with
        | some f => .error f
        | none => .ok (l, ws.length)

/-! ## Issue (08 R197, 07 R171, 10 R276) -/

/-- Word `n` of the open bundle is the one now run. -/
def State.atWord (s : State) (n : Nat) : State := { s with bun := { s.bun with word := n } }

/-- The word performs after the MB word of its bundle (10 R276). -/
def performsLate : Instr → Bool
  | .vopt .. => true
  | _ => false

/-- The position of channel C and of the noise source as another state has them. -/
def State.takeDraws (s from_ : State) : State :=
  { s with freeCtr := from_.freeCtr }.putCtx { s.ctx with rngposc := from_.ctx.rngposc }

/-- One word of the open bundle: a register read that fails stops it (23 R476, R480), else its meaning. -/
def runOne (faults : AMap FaultRec) (w : SlotWord) (s : State) : Out :=
  let s := s.atWord w.idx
  match amGet faults w.idx with
  | some f => if s.bun.stop.isSome then .next s else .next (s.stopAt (.fault f))
  | none => exec w.instr s

/-- The late words perform, with the draws that are theirs by slot order (10 R281). -/
def runLate (faults : AMap FaultRec) : List (SlotWord × State) → State → Out
  | [], s => .next s
  | (w, s0) :: l, s =>
    match runOne faults w (s.takeDraws s0) with
    | .next s' => runLate faults l (s'.takeDraws s)
    | o => o

/-- The words of an open bundle in slot order. A late word is judged in its place on memory `m`, as the bundle's other words and the late
words before it leave it, and performs at the end. -/
def runWords (faults : AMap FaultRec) (m : Memory) : List SlotWord → List (SlotWord × State) → State → Out
  | [], late, s => runLate faults late s
  | w :: ws, late, s =>
    if performsLate w.instr then
      match runOne faults w { s with mem := m } with
      | .next s' =>
        if s'.bun.stop.isNone then runWords faults s'.mem ws (late ++ [(w, s)]) (s.takeDraws s')
        else runWords faults m ws late { s with bun := s'.bun }
      | o => o
    else
      match runOne faults w s with
      | .next s' => runWords faults m ws late s'
      | o => o

/-- The memory that the words of a bundle leave to its late words (10 R276, R282). -/
def State.memBefore (s : State) (faults : AMap FaultRec) (ws : List SlotWord) : Memory :=
  let early := ws.filter fun w => !performsLate w.instr
  if early.length = ws.length then s.mem
  else
    match runWords faults s.mem early [] s with
    | .next s' => s'.mem
    | _ => s.mem

/-- The faults that the words of a bundle meet as they read their registers, by word. -/
def State.readFaults (s : State) (ws : List SlotWord) : AMap FaultRec :=
  ws.filterMap fun w => (s.readFault w.instr).map fun f => (w.idx, f)

/-- A decoded bundle of `n` words issues: results that are due reach their lines, its words use theirs, then run. -/
def State.runBundle (s : State) (ws : List SlotWord) (n : Nat) : Out :=
  let s := s.landRuns (ws.any fun w => match w.instr with | .tret _ => true | _ => false)
  let faults := s.readFaults ws
  let s := ws.foldl (fun s w => s.useLines (s.namedBy (ws.map (·.instr))) w.instr) s
  match ws, faults with
  | [w], [] => exec w.instr s
  | _, _ =>
    let o := s.openBundle n
    match runWords faults (o.memBefore faults ws) ws [] o with
    | .next s' => .next (closeBundle s s')
    | o => o

/-- The lines of HBM that hold the `n` words at the PC of the context in issue. -/
def State.codeLines (s : State) (n : Nat) : List Nat :=
  let t := s.task
  match s.window t.p t.code.win with
  | none => []
  | some d => s.coordLines d (boxCoords [(t.code.off + s.ctx.pc.toNat, 4 * n)])

/-- The context `cid` fetches its next bundle, an access of the L2 (22 R464; log entry 122), and issues it; an encoding fault is raised
at issue (08 R200). -/
def State.issueCtx (s : State) (cid : Nat) : Out :=
  let s := { s with me := cid, bun := .closed }
  match s.fetchBundle with
  | .ok (ws, n) => (s.l2Touch false false (s.codeLines n)).runBundle ws n
  | .error f => .next { s.raise f s.ctx.pc s.ctx.vecRead with cycle := s.cycle + 1 }

/-- A core spends a reference cycle (01 R13, R15): it switches where a switch is due, else its current context issues. -/
def State.issueOn (s : State) (core : Nat) : Out :=
  if s.switchDue core then
    if (s.switchTo core).isSome then execContextSwitch core s else .next { s with cycle := s.cycle + 1 }
  else
    match (s.coreAt core).slots.getD (s.coreAt core).cur none with
    | some cid => s.issueCtx cid
    | none => .next { s with cycle := s.cycle + 1 }

/-! ## What comes next (log entry 1) -/

/-- The device steps that operations, cores, spans, tasks, transfers and rings may be ready for. -/
def State.pendingSteps (s : State) : List (State → Out) :=
  s.ops.flatMap (fun o => [execCopyStart o.id, execCopyCompletion o.id, execHandOffLanding o.id, execDflushCompletion o.id,
    execDispatchWaitCompletion o.id, execCounterOperationPerform o.id, execCounterReplyArrival o.id, execGraphCounterDecrement o.id]) ++
  s.sends.map (fun x => execDispatchRowLanding x.op) ++
  s.cores.flatMap (fun e => [execFollowOnEntry e.1, execMatrixCommandStart e.1, execMldsLoadComplete e.1, execMswapTakesEffect e.1,
    execMmulChunkEnd e.1, execSlabPush e.1, execDrainWaitTimeout e.1]) ++
  (List.range 6).flatMap (fun n => [execYokeCommandStart n, execYokeCommandCompletion n]) ++
  s.tasks.flatMap (fun e => [execLeaseGrant e.2.p e.2.seq, execFaultTaskEnd e.2.p e.2.seq, execTaskCompletion e.2.p e.2.seq,
    execPreemptionHalt e.2.p e.2.seq, execEvacuation e.2.p e.2.seq, execStablingMoveComplete e.2.p e.2.seq, execTeamReturn e.2.p e.2.seq,
    execStabling e.2.p e.2.seq, execTaskResume e.2.p e.2.seq e.2.cluster]) ++
  (List.range 48).map (fun n => execTimeShareHandOver n) ++
  s.xfers.flatMap (fun e => [execMigrationFlip e.1, execOffloadComplete e.1 true, execFrameReturn e.1 true]) ++
  [execFmset, execFmget, execWrfrm, execRdfrm, execWtset, execInval, execMigrate, execOffload, execReturnFrame, execPool, execCells, execEvac,
    execPreempt, execResume, execEndtask, execCtxread, execLkassign, execDebug, execCtrclr, execBarmap, execAttest, execFwstage] ++
  s.paddocks.flatMap (fun e => (List.range 4).flatMap fun q => [execKernelLaunch e.1 q, execLookupKernelLaunch e.1 q,
    execTransformLaunch e.1 q, execGraphLaunch e.1 q, execSeal e.1 q, execRetire e.1 q, execCqInterruptTimer e.1 q])

/-- The state after the first of a list of steps that can be performed. -/
def State.firstNext (s : State) : List (State → Out) → Option State
  | [] => none
  | f :: fs =>
    match f s with
    | .next s' => some s'
    | _ => s.firstNext fs

/-- Between two states the context has gone on: it has not merely stalled again as before (01 R13). -/
def State.wentOn (s s' : State) (cid : Nat) : Bool :=
  let c := s.ctxAt cid
  let c' := s'.ctxAt cid
  c'.pc != c.pc || c'.bidx != c.bidx || c'.inTrap != c.inTrap || c'.ended != c.ended || c'.block != c.block ||
    c'.tileStall != c.tileStall || (s'.taskAt c.tid).fresh != (s.taskAt c.tid).fresh || (s'.taskAt c.tid).state != (s.taskAt c.tid).state || (s'.taskAt c.tid).debugHalt != (s.taskAt c.tid).debugHalt

/-- A core's reference cycle, if it takes something further there: a switch, or a bundle that does not stall. -/
def State.advance (s : State) (core : Nat) : Option State :=
  match { s with focus := core + 1 }.issueOn core with
  | .next s' =>
    let went : Bool := if s.switchDue core then (s.switchTo core).isSome
      else ((s.coreAt core).slots.getD (s.coreAt core).cur none).any (s.wentOn s')
    if went then some s' else none
  | _ => none

/-- The first core of a list that goes on. -/
def State.firstAdvance (s : State) : List Nat → Option State
  | [] => none
  | c :: cs =>
    match s.advance c with
    | some s' => some s'
    | none => s.firstAdvance cs

/-- The tasks whose bound of R29 has been reached. -/
def State.overdueTasks (s : State) : List Task := (s.tasks.map (·.2)).filter s.overdue

/-- A reference cycle, or several, in which nothing else happens. -/
def State.tick (s : State) (n : Nat) : State := { s with cycle := s.cycle + n }

/-- The scheduler's own steps that are due: the return of a team that has waited four rounds, and a round a microsecond after the last
(01 R29). -/
def State.dueSteps (s : State) : List (State → Out) :=
  s.overdueTasks.map (fun t => execTeamReturn t.p t.seq) ++ (if s.round + 1700 ≤ s.cycle then [execSchedulingRound] else [])

/-- The cores whose turn is still to come in this pass over the cores: those of overdue teams, then those from `focus` on. -/
def State.turnCores (s : State) : List Nat :=
  s.overdueTasks.flatMap (·.cores) ++ (s.cores.map (·.1)).filter fun c => decide (s.focus ≤ c)

/-- The cores that have had their turn in this pass. -/
def State.pastCores (s : State) : List Nat := (s.cores.map (·.1)).filter fun c => decide (c < s.focus)

/-- What the machine does next of itself: a step of the scheduler that is due, else a bundle of a core that goes on whose turn is to
come, else, the pass being over, a device step that is ready, after which a new pass begins, else a bundle of a core that has had its
turn, else reference cycles pass until the next round. So a core that goes on for ever keeps nobody waiting. -/
def State.ownMove (s : State) : Out :=
  match s.firstNext s.dueSteps with
  | some s' => .next s'
  | none =>
    match s.firstAdvance s.turnCores with
    | some s' => .next s'
    | none =>
      match s.firstNext s.pendingSteps with
      | some s' => .next { s' with focus := 0 }
      | none =>
        match s.firstAdvance s.pastCores with
        | some s' => .next s'
        | none => .next (s.tick (max 1 (s.round + 1700 - s.cycle)))

/-- A move performed. An instruction word is no device step. -/
def State.perform (s : State) : Move → Out
  | .issue core => { s with focus := core + 1 }.issueOn core
  | .event i => if (encode i).isEmpty then exec i s else .fault (.notEnabled "an instruction word")
  | .tick n => .next (s.tick n)

/-! ## What follows every move (01 R14, R24, R27) -/

/-- A block whose condition does not hold any more has ended (R24). -/
def State.clearBlocks (s : State) : State :=
  let clear (e : Nat × Ctx) : Nat × Ctx :=
    (e.1, if e.2.block.isSome && (s.blockedSince e.2).isNone then { e.2 with block := none } else e.2)
  { s with ctxs := s.ctxs.map clear }

/-- Whether the next bundle of a context that is not current would block is found by trying it (R14). -/
def State.probe (s : State) (cid : Nat) : State :=
  match s.issueCtx cid with
  | .next s' =>
    match (s'.ctxAt cid).block with
    | some r => s.setCtx cid { s.ctxAt cid with block := some ⟨r.why, s.cycle⟩ }
    | none => s
  | _ => s

/-- The contexts of a core that may issue, have no block in force and are not current, or are to be left. -/
def State.untried (s : State) (core : Nat) : List Nat :=
  let k := s.coreAt core
  (List.range 4).filterMap fun n =>
    (k.slots.getD n none).filter fun cid => (n != k.cur || k.due) && s.ctxIssues cid && (s.ctxAt cid).block.isNone

/-- A team none of whose members can issue has tried its bundles; an abandoned YMATCH of it goes to its queue (01 R29, R32; log entry
116). -/
def State.noteStuck (s : State) : State :=
  s.tasks.foldl (fun s e =>
    if e.2.state == .running && (e.2.fresh || e.2.rounds != 0 || !e.2.redo.isEmpty) && (s.teamBlocked e.2).isSome then
      (s.redoYokes e.1 (e.2.cores.headD 0)).notFresh e.1
    else s) s

/-- Blocks that have ended are dropped, blocks that are there are found, wakes that have fired are recorded. -/
def State.noteBlocks (s : State) : State :=
  let s := s.clearBlocks
  (((s.cores.flatMap fun e => s.untried e.1).foldl (fun s cid => s.probe cid) s).noteStuck).fireWakes

/-- What follows every move. -/
def settle : Out → Out
  | .next s => .next s.noteBlocks
  | o => o

/-! ## Moves -/

/-- One move: the agenda's next, or the machine's own. -/
def State.move (s : State) : Out :=
  match s.agenda with
  | m :: ms => settle ({ s with agenda := ms }.perform m)
  | [] => settle s.ownMove

/-! ## An image placed from outside (log entry 15) -/

/-- The instruction can run on lookup cores only (08 R208). -/
def lookupOnly (i : Instr) : Bool := decodedOn true i && !decodedOn false i

/-- The eight words of a packet: the instruction `v`, its first word with B = 1, and NOP 0 after it. -/
def packetOf (v : Nat) : List Nat :=
  let w0 := v % 2 ^ 31 + 2 ^ 31
  let w1 := v / 2 ^ 32 % 2 ^ 32
  let w2 := v / 2 ^ 64 % 2 ^ 32
  let xs := if isX w1 then (if isX w2 then [w1, w2] else [w1]) else []
  w0 :: xs ++ List.replicate (7 - xs.length) 0x90000000

/-- The memory of `placeImage`: in frame 0 the descriptor of window 0 (rank 1, UINT8, 65,536 elements), in frame 1 its tile table,
in frame 2 the packet. -/
def placeImage (m : Memory) (v : Nat) : Memory :=
  let m := memWrite m 0 (natLe 8 (3 * 2 ^ 56) ++ natLe 8 0x31 ++ natLe 4 65536 ++ natLe 28 0 ++ natLe 8 1 ++ natLe 8 1)
  let m := memWrite m 65536 (natLe 8 (2 ^ 32 + 2))
  memWrite m 131072 ((packetOf v).flatMap bytesOfWord)

/-- The state with a team of one running the packet's first bundle next: paddock 0 with window 0, the task, its context. -/
def State.placeProgram (s : State) (v : Nat) : State :=
  let core := match decodeTableWord 96 v with
    | some i => if lookupOnly i then 384 else 0
    | none => 0
  let tid := s.nextTid
  let t : Task := { Task.blank with
    tid := tid, tiles := 16, slice := 8192, state := .running, code := ⟨0, 0, 32, 0⟩, cores := [core], scratchBase := [0]
    scratchSize := 253952, clusterSize := 65536, bars := List.replicate 8 { phase := 0, arrived := [] }, seat := [core] }
  let s := { s with
    mem := placeImage s.mem v
    nextTid := tid + 1
    me := tid * 32
    focus := core
    agenda := []
    bun := .closed }
  let s := ((s.setFrame 0 ⟨1, 0, false, false, 0, 0, 0, false⟩).setFrame 1 ⟨1, 0, false, false, 1, 0, 0, false⟩).setFrame 2
    ⟨1, 0, false, false, 2, 0, 0, false⟩
  let s := s.setPaddock 0 { s.paddockAt 0 with en := true, wt := some 0, winMax := max 1 (s.paddockAt 0).winMax }
  let s := (s.setTask tid t).setCtx (tid * 32) (t.startCtx 0 core 0)
  s.setCore core { s.coreAt core with slots := [some (tid * 32), none, none, none], cur := 0, cnt := 0 }

end Sys2Proof.Machine
end

