-- ==== Sys2Proof/Machine/Step.lean ====
section
/-! DEFINITION. One step of the machine, and the placing of one instruction where the next step fetches. -/
namespace Sys2Proof.Machine

/-- One step: one move of the agenda, or the machine's own next move where the agenda is empty (log entry 1). -/
def step (s : State) : Host.Outcome State Fault Refusal := s.move

/-- `s` with the instruction of `nbits` bits whose bits are `w` placed as the first bundle of a running team (log entry 15). -/
def State.withFetchWord (s : State) (nbits w : Nat) : State := s.placeProgram (w % 2 ^ nbits)

end Sys2Proof.Machine
end

