-- ==== Sys2Proof/Safety.lean ====
section
/-! DEFINITION. What counts as a safe run, and the invariants of the machine that claims use. -/
namespace Sys2Proof.Machine

/-- No task has ended, or is about to end, on a fault (00 R9). -/
def State.faultFree (s : State) : Prop := ∀ e ∈ s.tasks, e.2.fault = none

/-- A step is safe where it answers a state in which no task has met a fault. -/
def State.stepSafe (s : State) : Prop := ∃ t, step s = .next t ∧ t.faultFree

/-- The memory is in its canonical form (log entry 2). -/
def State.memCanonical (s : State) : Prop := Memory.wf s.mem = true

/-- No bundle is in progress: the state is one between bundles (log entry 6). -/
def State.betweenBundles (s : State) : Prop := s.bun.isOpen = false

/-- Every stabled team, a member of which no longer waits, has its wake recorded (01 R27). -/
def State.wakesRecorded (s : State) : Prop :=
  ∀ e ∈ s.tasks, e.2.state = .stabled none →
    ∀ cid ∈ e.2.cids, (s.ctxAt cid).ended = true ∨ (s.blockedSince (s.ctxAt cid)).isSome = true

/-! ## A word in its bundle (08 R192, R208; 11 R292; log entry 6) -/

/-- A word of kind `k` under guard `g` runs as the next word of the open bundle: nothing before it in the bundle has stopped it, its
core decodes it, its guard holds, and no acquire holds it back. -/
structure State.canRun (s : State) (k : WordKind) (g : Nat) : Prop where
  isOpen : s.bun.isOpen = true
  going : s.bun.stop = none
  decoded : k.decoded (decide (384 ≤ s.ctx.core)) = true
  guard : s.ctx.pAt g = true
  acquired : k.waitsAcquire = true → s.acquiring = false

/-- What a word of kind `k` that has run leaves: a core access inside the cluster takes its place in the commit order (07 R171, R183). -/
def WordKind.order (k : WordKind) (t : State) : State := if k.accesses then t.commitOrder else t

/-- Scalar name `k` can be read: no counter reply is awaited for it (11 R292). -/
def State.readable (s : State) (k : Nat) : Prop := physX s.ctx.rrb k = 0 ∨ amGet s.ctx.unready (physX s.ctx.rrb k) = none

/-- The value a word reads under scalar name `k` (09 R221, R222). -/
def State.xval (s : State) (k : Nat) : Word := s.ctx.xAt (physX s.ctx.rrb k)

/-- A run register as 05 R115 has it: sixteen rows of at most 64 runs, each count 1 to 4,096, no chainage above 4,096. -/
def VReg.wf (v : VReg) : Prop :=
  v.rows.length = 16 ∧ ∀ r ∈ v.rows, r.length ≤ 64 ∧ chain r ≤ 4096 ∧ ∀ q ∈ r, 1 ≤ q.cnt ∧ q.cnt ≤ 4096

end Sys2Proof.Machine
end

