-- ==== Sys2Proof/Certificates/Slice0/Obligations.lean ====
section
/-! DEFINITION. The statements for the provers, each the formal text of rules of spec/ or of a property of the model named so. -/
open Sys2Proof Sys2Proof.Machine

/-! ## Encoding and decoding (08 R191 to R214) -/

/-- 08 R191 to R214: words written out from the encoding tables decode to the instructions they stand for, X words with them; an
unassigned opcode (EN-01), a field that must be 0 and is not (EN-02) and a surplus X word (EN-07) are refused. -/
def Obligations.DecodeSampleWords : Prop :=
  decodeWords [0x80050420] = .ok (.add 0 5 1 2) ∧
  decodeWords [0x00883FF3, 0x70000000] = .ok (.addi 3 8 15 ⟨63, [0]⟩) ∧
  decodeWords [0x07050420, 0x70000009] = .ok (.sel 0 5 1 2 9) ∧
  decodeWords [0x90000000] = .ok (.nop 0 0) ∧
  decodeWords [0x907FFFF4] = .ok (.br 4 ⟨262143, []⟩) ∧
  decodeWords [0x19000000] = .ok (.tret 0) ∧
  decodeWords [0xA0C30840, 0x70000015] = .ok (.vfma 0 ⟨0, 0, 3, 0, 2, 4, some ⟨5, 1, 0, 0, 0⟩⟩) ∧
  decodeWords [0x32D50410] = .error .operand ∧
  decodeWords [0xB1110810] = .ok (.fexp2 0 1 1 0 2 1) ∧
  decodeWords [0xC2C20470] = .ok (.std 0 2 1 ⟨7, []⟩) ∧
  decodeWords [0xD8030850, 0x7000001D] = .ok (.cadd 0 3 2 5 5 1 1) ∧
  decodeWords [0xE9031060] = .ok (.copy 0 3 4 6) ∧
  decodeWords [0x81C00000] = .error .unassigned ∧
  decodeWords [0x15800010] = .error .operand ∧
  decodeWords [0x80050420, 0x70000000] = .error .extraX

/-- 08 R191 to R214: every well-formed instruction that has words decodes from them to itself, whatever the bit B of its first word says;
the words after the first are X words, none of the words has a bit above the 31 that R191 gives the fields. -/
def Obligations.EncodeDecodeAgree : Prop :=
  ∀ (i : Instr) (w : Nat) (xs : List Nat), i.wf = true → encode i = w :: xs →
    decodeWords (w :: xs) = .ok i ∧ decodeWords ((w + 2 ^ 31) :: xs) = .ok i ∧ w < 2 ^ 31 ∧ isX w = false ∧
    ∀ x ∈ xs, isX x = true ∧ x < 2 ^ 31

/-! ## Fetch, issue and the end of a bundle (01 R13; 08 R192, R196 to R206) -/

namespace Sys2Proof.Machine

/-- Whether the word is TRET. -/
def isTret : Instr → Bool
  | .tret _ => true
  | _ => false

/-- The state in which the words of a bundle of `n` words of the context `cid` read their registers: the bundle is fetched, an access of
the L2 (log entry 122), and the run registers whose results are due, all of them before a TRET, have their lines dirty (01 R38). -/
def State.prepared (s : State) (cid n : Nat) (tret : Bool) : State :=
  let u := { s with me := cid, bun := .closed }
  (u.l2Touch false false (u.codeLines n)).landRuns tret

/-- The context `cid`, current on `core` with no switch due, is about to issue in the state `s`, and its bundle is the word `w` alone with
the X words `xs`, which decode to `i`. -/
structure State.fetchesAlone (s : State) (core cid w : Nat) (xs : List Nat) (i : Instr) : Prop where
  stays : s.switchDue core = false
  current : (s.coreAt core).slots.getD (s.coreAt core).cur none = some cid
  starts : ({ s with me := cid, bun := .closed } : State).startFault
    (s.taskAt (s.ctxAt cid).tid) (s.ctxAt cid).pc.toNat = none
  words : ({ s with me := cid, bun := .closed } : State).imageWords (s.taskAt (s.ctxAt cid).tid) (s.ctxAt cid).pc.toNat
    (({ s with me := cid, bun := .closed } : State).bundleEnd (s.taskAt (s.ctxAt cid).tid) 8 (s.ctxAt cid).pc.toNat) = w :: xs
  packet : let e := ({ s with me := cid, bun := .closed } : State).bundleEnd (s.taskAt (s.ctxAt cid).tid) 8 (s.ctxAt cid).pc.toNat
    e % 32 = 0 → ∀ v, ({ s with me := cid, bun := .closed } : State).codeWord (s.taskAt (s.ctxAt cid).tid) e = some v →
      startsBundle v = true
  extra : ∀ x ∈ xs, isX x = true
  reads : decodeWords (w :: xs) = .ok i
  decoded : decodedOn (decide (384 ≤ (s.ctxAt cid).core)) i = true
  csr : csrMissing (decide (384 ≤ (s.ctxAt cid).core)) i = false
  unharmed : (s.prepared cid (xs.length + 1) (isTret i)).readFault i = none

/-- A word of the instruction set that can run in a bundle but is squashed: its guard is 0. -/
structure State.squashes (s : State) (i : Instr) (w : Nat) : Prop where
  isOpen : s.bun.isOpen = true
  going : s.bun.stop = none
  acquired : s.acquiring = false
  first : (encode i).head? = some w
  decoded : decodedOn (decide (384 ≤ s.ctx.core)) i = true
  csr : csrMissing (decide (384 ≤ s.ctx.core)) i = false
  guard : s.ctx.pAt (w % 16) = false

/-- The context with all that an entry of its handler writes for fault `f`, to resume at `epc` (09 R232; 08 R206): the handler
TRAPVEC names as the bundle reads it (log entry 109). `op` is the number the handler's first operation would have. -/
def Ctx.trapped (c : Ctx) (f : FaultRec) (epc : Word) (op : Nat) : Ctx :=
  { c with
    captured := some ⟨c.inflight, c.bidx, c.lastIdx, c.lastWeight, op⟩
    inflight := []
    bidx := 0
    lastIdx := 0
    lastWeight := 0
    epc := epc
    cause := BitVec.ofNat 64 (f.cls.code + 16 * f.num + 1024 * f.join.toNat + 2048 * (f.word % 8))
    fdet := f.fdet
    ftypeA := f.ftypeA
    ftypeB := f.ftypeB
    fcmd := f.fcmd
    mxMd := if f.cls = .MD then BitVec.ofNat 64 f.aux else c.mxMd
    inTrap := true
    damaged := c.damaged.filter fun k => !(82 ≤ k && k ≤ 87)
    pc := (c.retire c.bidx).trapvec &&& ~~~3
    block := none }

/-- The target that an offset in the instruction fixes, in the bundle at `a` (09 R227, R234, R237, R240). -/
def offsetTarget (a : Word) : Instr → List Word
  | .br _ imm => [a + 4 * imm.value 18]
  | .call _ imm => [a + 4 * imm.value 18]
  | .lclose _ imm => [a + 4 * imm.value 18]
  | .loop _ _ off => [a + BitVec.ofNat 64 (4 * off)]
  | .loopi _ _ off => [a + BitVec.ofNat 64 (4 * off)]
  | .loopt _ _ _ _ off => [a + BitVec.ofNat 64 (4 * off)]
  | _ => []

/-- The weight that the instruction gives its bundle, which has `n` without it (09 R229). -/
def weightAfter (n : Nat) : Instr → Nat
  | .nop _ k => k
  | _ => n

/-- The results in flight once a traverse loop has reached an element: set_iteration's four, at latency 1 (09 R237). -/
def Ctx.reached (c : Ctx) (t : Traverse) : List InFlight :=
  ((((c.post 1 (.x t.d (BitVec.ofNat 64 t.elem))).post 1 (.x (t.d + 1) (BitVec.ofNat 64 t.row))).post 1
    (.p 6 (decide (t.ptrs.getD t.row 0 = t.elem)))).post 1 (.p 7 (decide (t.elem + 1 = t.ptrs.getD (t.row + 1) 0)))).inflight

end Sys2Proof.Machine

/-- 01 R13, 08 R198 to R200: where the agenda asks a core for its next bundle, or is empty, no step of the scheduler is due and that core
is the first that goes on, and the words at its context's PC decode to one instruction whose registers read without error, the step is
that instruction's, after the bundle's fetch and its use of its register-cache lines (01 R38), and then blocks and wakes are recorded (01 R14, R27). The order of
moves, a pass over the cores and a device step after each pass where the agenda is empty, is the model's choice (log entry 1). -/
def Obligations.StepRunsDecoded : Prop :=
  ∀ (s : State) (core cid w : Nat) (xs : List Nat) (i : Instr) (ms : List Move),
    let s1 (m : List Move) : State := { s with agenda := m, focus := core + 1 }
    let u (m : List Move) := (s1 m).prepared cid (xs.length + 1) (isTret i)
    let done (m : List Move) := exec i ((u m).useLines ((u m).namedBy [i]) i)
    let ran (m : List Move) := match done m with
      | .next t => Host.Outcome.next t.noteBlocks
      | o => o
    (s.agenda = .issue core :: ms → (s1 ms).fetchesAlone core cid w xs i → step s = ran ms) ∧
    (∀ pre post : List Nat, s.agenda = [] → s.firstNext s.dueSteps = none →
      (s.turnCores = pre ++ core :: post ∨
        (∀ k ∈ s.turnCores, s.advance k = none) ∧ s.firstNext s.pendingSteps = none ∧ s.pastCores = pre ++ core :: post) →
      (∀ k ∈ pre, s.advance k = none) →
      (s1 []).fetchesAlone core cid w xs i → (∀ t, done [] = .next t → s.wentOn t cid = true) → (∃ t, done [] = .next t) →
      step s = ran [])

/-- 08 R196, R197, R204: a word alone is a bundle of its own. It opens the bundle at the PC with the results that are due written, runs
there as every other statement has it, and the bundle is closed: the statements over an open bundle are those of such a step. That words
run one by one over an open bundle is the model's own form (log entry 6). -/
def Obligations.LoneWordIsABundle : Prop :=
  ∀ (s t : State) (i : Instr), s.bun.isOpen = false → (amGet s.ctxs s.me).isSome = true → encode i ≠ [] →
    let o := s.openBundle (encode i).length
    (o.bun.isOpen = true ∧ o.bun.stop = none ∧ o.bun.addr = s.ctx.pc ∧ o.bun.len = (encode i).length ∧
      o.ctx = s.ctx.retire s.ctx.bidx ∧ o.mem = s.mem ∧ o.tasks = s.tasks ∧ o.ops = s.ops) ∧
    (exec i o = .next t → exec i s = .next (closeBundle s t))

/-- 09 R226 to R228, R235, R236: at the commit a taken transfer goes to its target, and one that leaves loops pops the entries that its
target lies outside, with every entry above; at a loop's last bundle the loop goes back while more than one trip remains, and is popped
when the last one ends. 09 R237, R238: at a traverse loop's last bundle the next element is reached, in the first row that holds it, and
the loop goes back, while an element is left; else the loop is popped and its buffer is empty. A bundle that opens one reaches its first
element. -/
def Obligations.TransferAndLoopCommit : Prop :=
  (∀ s0 s : State, s.bun.stop = none → (∀ a ∈ s.bun.targets, s.targetFault s.task a = none) → s.bun.push = none → s.bun.trav = none →
    s.bun.tend = false → s.bun.trap = none → s.bun.tret = false →
    let t := closeBundle s0 s
    let kept (pc : Word) (es : List LoopEntry) : Prop := es <:+ s.ctx.loops ∧
      (∀ e ∈ es, e.start.toNat ≤ pc.toNat ∧ pc.toNat ≤ e.last.toNat) ∧
      ∀ e rest, e :: rest <:+ s.ctx.loops → (∀ f ∈ e :: rest, f.start.toNat ≤ pc.toNat ∧ pc.toNat ≤ f.last.toNat) → e :: rest <:+ es
    (∀ pc, s.bun.next = some pc → t.ctx.pc = pc ∧ t.mem = s.mem ∧ t.ctx.inflight = s.ctx.inflight ∧
      (if s.bun.pop then kept pc t.ctx.loops else t.ctx.loops = s.ctx.loops)) ∧
    (∀ e es k, s.bun.next = none → s.ctx.loops = e :: es → e.last = s.bun.addr → e.count = some k →
      (1 < k.toNat → t.ctx.pc = e.start ∧ t.ctx.loops = { e with count := some (k - 1) } :: es) ∧
      (k.toNat ≤ 1 → (∀ f, es.head? = some f → f.last ≠ s.bun.addr) →
        t.ctx.pc = s.bun.addr + BitVec.ofNat 64 (4 * s.bun.len) ∧ t.ctx.loops = es)) ∧
    (∀ e es v, s.bun.next = none → s.ctx.loops = e :: es → e.last = s.bun.addr → e.count = none → s.ctx.trav = some v →
      v.ptrs.headD 0 ≤ v.elem →
      (v.elem + 1 < v.ptrs.getLastD 0 → ∃ row, let w := { v with elem := v.elem + 1, row := row }
        v.ptrs.getD row 0 ≤ w.elem ∧ w.elem < v.ptrs.getD (row + 1) 0 ∧
        (∀ i < row, ¬(v.ptrs.getD i 0 ≤ w.elem ∧ w.elem < v.ptrs.getD (i + 1) 0)) ∧
        t.ctx.pc = e.start ∧ t.ctx.loops = e :: es ∧ t.ctx.trav = some w ∧ t.ctx.inflight = s.ctx.reached w) ∧
      (v.ptrs.getLastD 0 ≤ v.elem + 1 → (∀ f, es.head? = some f → f.last ≠ s.bun.addr) →
        t.ctx.pc = s.bun.addr + BitVec.ofNat 64 (4 * s.bun.len) ∧ t.ctx.loops = es ∧ t.ctx.trav = none ∧
        t.ctx.inflight = s.ctx.inflight))) ∧
  ∀ (s0 s : State) (e : LoopEntry) (v : Traverse), s.bun.stop = none → (∀ a ∈ s.bun.targets, s.targetFault s.task a = none) →
    s.bun.push = some e → e.last ≠ s.bun.addr → s.bun.trav = some v → s.bun.next = none → s.bun.tend = false → s.bun.trap = none →
    s.bun.tret = false →
    let t := closeBundle s0 s
    t.ctx.pc = s.bun.addr + BitVec.ofNat 64 (4 * s.bun.len) ∧ t.ctx.loops = e :: s.ctx.loops ∧ t.ctx.trav = some v ∧
      t.ctx.inflight = s.ctx.reached v

/-- 08 R197, R199, R204, 09 R235: a bundle whose words asked for no transfer and no loop, away from a loop's end, commits: the PC goes
past its words, the numbering goes on by its weight, one reference cycle passes; all else is as its words left it. 01 R14, R15, R29, 08
R197, 09 R230: a bundle that blocks or stalls leaves everything as before it but the reference cycle, the record of why and since when it
blocks, the switch its core then owes, the team's note that it has tried and the tiles it waits for; one with TEND ends its member and
drops its results and its loops. One reference cycle a bundle is the model's choice (log entry 22); the team's note that it has tried is
read by inference (log entry 83). -/
def Obligations.BundlesCommitAndWait : Prop :=
  (∀ s0 s : State, s.bun.stop = none → s.bun.targets = [] → s.bun.pend = [] → s.bun.push = none → s.bun.trav = none →
     s.bun.next = none → s.bun.tend = false → s.bun.trap = none → s.bun.tret = false → s.bun.close = none → s.task.redo = [] →
     s.task.fresh = false → s.task.rounds = 0 → s.ctx.tileStall = [] →
     (∀ e, s.ctx.loops.head? = some e → e.last ≠ s.bun.addr) →
     let c := s.ctx
     let t := closeBundle s0 s
     t.ctx = { c with
       pc := s.bun.addr + BitVec.ofNat 64 (4 * s.bun.len), lastIdx := c.bidx, lastWeight := s.bun.weight,
       bidx := c.bidx + s.bun.weight, block := none, tileStall := [] } ∧
     t.cycle = s.cycle + 1 ∧ t.mem = s.mem ∧ t.tasks = s.tasks ∧ t.ops = s.ops ∧ t.frames = s.frames ∧ t.bun = .closed ∧
     (∀ cid, cid ≠ s.me → t.ctxAt cid = s.ctxAt cid) ∧
     ∀ core, (t.coreAt core).arr = (s.coreAt core).arr ∧ (t.coreAt core).slots = (s.coreAt core).slots ∧
       (t.coreAt core).cur = (s.coreAt core).cur ∧ (t.coreAt core).due = (s.coreAt core).due ∧
       (t.coreAt core).cnt = (s.coreAt core).cnt + if core = c.core then 1 else 0) ∧
  ((∀ (s0 s : State) (b : Block), s.bun.stop = some (.block b) → ∃ since,
     (∀ r, s0.ctx.block = some r → since = if r.why = b then r.since else s0.cycle) ∧ (s0.ctx.block = none → since = s0.cycle) ∧
     let c := s0.ctx
     let tried := (s0.putCtx { c with block := some ⟨b, since⟩ }).notFresh c.tid
     closeBundle s0 s = { tried.setCore c.core { s0.coreAt c.core with due := true } with cycle := s0.cycle + 1 } ∧
     ∀ tid, tried.taskAt tid = if tid = c.tid ∧ (s0.task.fresh = true ∨ s0.task.rounds ≠ 0) then
       { s0.task with fresh := false, rounds := 0 } else s0.taskAt tid) ∧
   (∀ (s : State) (tid : Nat), s.notFresh tid = { s with tasks := (s.notFresh tid).tasks } ∧
     ∀ k, (s.notFresh tid).taskAt k = if k = tid ∧ ((s.taskAt tid).fresh = true ∨ (s.taskAt tid).rounds ≠ 0) then
       { s.taskAt tid with fresh := false, rounds := 0 } else s.taskAt k) ∧
   (∀ s0 s : State, s.bun.stop = some .stall → closeBundle s0 s = { s0.notFresh s0.ctx.tid with cycle := s0.cycle + 1 }) ∧
   (∀ (s0 s : State) (ops : List Nat), s.bun.stop = some (.stallOn ops) → ∃ waits : List Nat,
     (∀ k, k ∈ waits ↔ k ∈ s0.ctx.tileStall ∨ k ∈ ops) ∧
     closeBundle s0 s = { (s0.putCtx { s0.ctx with tileStall := waits }).notFresh s0.ctx.tid with cycle := s0.cycle + 1 }) ∧
   (∀ s0 s : State, s.bun.stop = none → s.bun.targets = [] → s.bun.tend = true → s.bun.tret = false →
     let t := closeBundle s0 s
     t.ctx.ended = true ∧ t.ctx.inflight = [] ∧ t.ctx.loops = [] ∧ t.mem = s.mem ∧ t.ops = s.ops ∧ t.ctxReady s.me = false ∧
       (t.coreAt s.ctx.core).due = true ∧ ∀ m, (t.setCtx s.me { t.ctx with block := m }).ctxReady s.me = false))

/-- 08 R192, R200: a squashed word that no acquire holds back changes nothing but what its encoding alone decides for its bundle: the
target that an offset fixes is still checked and NOP's weight still counts; a target in a register is not checked. -/
def Obligations.SquashedWords : Prop :=
  ∀ (s : State) (i : Instr) (w : Nat), i.wf = true → s.squashes i w →
    exec i s = .next { s with bun := { s.bun with
      targets := s.bun.targets ++ offsetTarget s.bun.addr i, weight := weightAfter s.bun.weight i } }

/-! ## Exceptions (00 R9; 08 R206; 09 R231, R232; 13 R355) -/

/-- 09 R232, 08 R206, 00 R9: a bundle that raises a recoverable fault while a handler is installed and none runs does not commit: of what
its words did nothing stands. The results in flight are captured, EPC takes the bundle's address, CAUSE, FDET, FTYPEA, FTYPEB and FCMD are
written, INTRAP is set and the handler, which TRAPVEC names as that bundle reads it (log entry 109), is next. With no handler, or in one,
the task ends and its record has the fault. 09 R243: a fault that a join reports is raised with CAUSE.JOIN = 1, and the operation's
record of it is gone. 08 R199, R202: a handler address at which no bundle starts ends the task with EN-08 or EN-10, whose detail names the
first fault (log entry 29). 23 R480: wrong parity in TRAPVEC ends it with AC-04. The handler's numbering from 0 and the one reference
cycle are the model's choices (log entries 8, 22). -/
def Obligations.ExceptionEntry : Prop :=
  ∀ (s0 s u : State) (f : FaultRec), s.bun.stop = some (.fault f) →
    let c := s0.ctx
    let tv := (c.retire c.bidx).trapvec
    let t := closeBundle s0 s
    (f.join = false ∧ u = s0 ∨ f.join = true ∧ ∃ (pre post : List TagFault) (e : TagFault), s0.task.tagFaults = pre ++ e :: post ∧
      e.core = c.core ∧ e.flt = { f with join := false, word := 0 } ∧
      (∀ x ∈ pre, ¬(x.core = c.core ∧ x.flt = { f with join := false, word := 0 })) ∧
      u = s0.putTask { s0.task with tagFaults := pre ++ post }) →
    let ended (f : FaultRec) : State :=
      { u.setTask c.tid { u.task with state := .ending, fault := u.task.fault.orElse fun _ => some f } with cycle := s0.cycle + 1 }
    (f.cls.recoverable = true → tv.getLsbD 0 = true → c.inTrap = false → 81 ∉ c.damaged →
      u.startFault u.task (tv &&& ~~~3).toNat = none →
      t = { u.putCtx (c.trapped f c.pc u.nextOp) with cycle := s0.cycle + 1 }) ∧
    (f.cls.recoverable = true → f.cls ≠ .MD → c.inTrap = false → 81 ∈ c.damaged →
      (t.taskAt c.tid).state = .ending ∧ (u.task.fault = none → (t.taskAt c.tid).fault = some { cls := .AC, num := 4 })) ∧
    (u.task.state ≠ .waitLeases → f.cls ≠ .AC → f.cls ≠ .MD →
      (f.cls.recoverable = false ∨ c.inTrap = true ∨ tv.getLsbD 0 = false ∧ 81 ∉ c.damaged → t = ended f) ∧
      (f.cls.recoverable = true → tv.getLsbD 0 = true → c.inTrap = false → 81 ∉ c.damaged →
        ∀ n, u.startFault u.task (tv &&& ~~~3).toNat = some n → (n = 8 ∨ n = 10) ∧
          t = ended { cls := .EN, num := n, fdet := BitVec.ofNat 64 (28672 + 32768 + 65536 * f.cls.code + 1048576 * (f.num % 64) +
            4294967296 * ((tv &&& ~~~3).toNat % 4294967296)) }))

/-- 09 R231: a bundle with TRAP commits and then enters the handler: CAUSE has class 12 and the code, EPC the bundle that would have been
next. With no handler the task ends with that cause. The results that are due at the next bundle are written before the rest is captured,
TRAPVEC among them, and the bundle takes one reference cycle (log entries 32, 109, 22). 13 R355, 08 R206: TRET outside a handler raises PV-01. The bundle of TRET, when it
commits, with what its other words did and the handler's own results written, clears INTRAP and MDINFO.VALID, goes to EPC, and gives the
interrupted program its numbering and its results in flight again; no other register changes, the fault detail ones among them. Where the
target fails its check (08 R199) the bundle does not commit and the task ends with EN-08 or EN-10. -/
def Obligations.TrapsAndReturns : Prop :=
  (∀ (s0 s : State) (code : Nat), s.bun.stop = none → s.bun.targets = [] → s.bun.next = none → s.bun.tend = false → s.bun.push = none →
     s.bun.trav = none → s.bun.trap = some code → (∀ e, s.ctx.loops.head? = some e → e.last ≠ s.bun.addr) → s.task.redo = [] →
     s.bun.pend = [] → s.bun.tret = false → s.bun.close = none → s.task.fresh = false → s.task.rounds = 0 → s.ctx.tileStall = [] →
     code < 64 →
     let c := s.ctx
     let t := closeBundle s0 s
     let d := ({ c with
       lastIdx := c.bidx, lastWeight := s.bun.weight, bidx := c.bidx + s.bun.weight, block := none, tileStall := [] } : Ctx).retire c.bidx
     t.mem = s.mem ∧ t.cycle = s.cycle + 1 ∧
     (d.trapvec.getLsbD 0 = true → d.inTrap = false → 81 ∉ d.damaged → s.startFault s.task (d.trapvec &&& ~~~3).toNat = none →
       t.ctx.pc = d.trapvec &&& ~~~3 ∧ t.ctx.epc = s.bun.addr + BitVec.ofNat 64 (4 * s.bun.len) ∧
       t.ctx.cause = BitVec.ofNat 64 (12 + 16 * code) ∧ t.ctx.inTrap = true ∧ t.ctx.inflight = [] ∧ t.ctx.x = d.x ∧ t.ctx.p = d.p ∧
       t.ctx.loops = d.loops ∧ t.ctx.captured = some ⟨d.inflight, d.bidx, d.lastIdx, d.lastWeight, s.nextOp⟩ ∧ t.tasks = s.tasks) ∧
     (d.trapvec.getLsbD 0 = false ∧ 81 ∉ d.damaged ∨ d.inTrap = true →
       (t.taskAt c.tid).state = .ending ∧ (s.task.fault = none → (t.taskAt c.tid).fault = some { cls := .TRAP, num := code }))) ∧
  ((∀ (s : State) (g : Nat), s.canRun .control g → s.ctx.inTrap = false →
     exec (.tret g) s = .next (s.stopAt (.fault { cls := .PV, num := 1 }))) ∧
   ∀ (s0 s : State) (k : Captured), s.bun.stop = none → s.bun.targets = [] → s.bun.next = none → s.bun.tend = false →
     s.bun.push = none → s.bun.trav = none → s.bun.trap = none → s.bun.tret = true → s.task.redo = [] → s.ctx.captured = some k → s.bun.close = none →
     s.task.fresh = false → s.task.rounds = 0 → s.ctx.tileStall = [] →
     let c := s.ctx.inflight.foldl (fun c e => c.apply e.res) { s.ctx with d := bindAll s.ctx.d s.bun.pend }
     let t := closeBundle s0 s
     (s.targetFault s.task c.epc = none → t.tasks = s.tasks ∧ t.mem = s.mem ∧ t.ctx = { c with
       pc := c.epc, inTrap := false, captured := none, inflight := k.inflight, bidx := k.bidx, lastIdx := k.lastIdx,
       lastWeight := k.lastWeight, mxMd := c.mxMd &&& ~~~0x4000, block := none, tileStall := [] }) ∧
     (∀ f, s.targetFault s.task c.epc = some f → s0.task.state ≠ .waitLeases → f.cls = .EN ∧ (f.num = 8 ∨ f.num = 10) ∧
       t = { s0.setTask s0.ctx.tid { s0.task with state := .ending, fault := s0.task.fault.orElse fun _ => some f } with
         cycle := s0.cycle + 1 }))

/-! ## Registers, frames of register results, reset, wakes -/

/-- 09 R221, R222: X0 reads 0 and P0 reads 1 whatever is written; the names X48 to X63 rotate by RRB and no other does. 08 R203, R205: the
frame of every word that ends in a posted result: it joins the context's results in flight at its point and nothing else changes, in this
context or elsewhere. A result is written when the context opens a bundle at or past its point; one that is not due waits, its register as
before. -/
def Obligations.RegisterNamesAndResults : Prop :=
  ((∀ (c : Ctx) (n : Nat) (w : Word) (b : Bool), c.xAt 0 = 0 ∧ c.pAt 0 = true ∧ c.apply (.x 0 w) = c ∧ c.apply (.p 0 b) = c ∧
     (0 < n → n < 64 → (c.apply (.x n w)).xAt n = w ∧ ∀ m, m ≠ n → (c.apply (.x n w)).xAt m = c.xAt m) ∧
     (0 < n → n < 16 → (c.apply (.p n b)).pAt n = b ∧ ∀ m, m ≠ n → (c.apply (.p n b)).pAt m = c.pAt m)) ∧
   (∀ s : State, s.readable 0 ∧ s.xval 0 = 0) ∧
   (∀ (s : State) (L k : Nat) (v : Word) (r : Result), s.xval k = s.ctx.xAt (physX s.ctx.rrb k) ∧
     s.wx L k v = s.post L (.x (physX s.ctx.rrb k) v) ∧ (s.post L r).ctx.rrb = s.ctx.rrb) ∧
   ∀ (rrb : BitVec 4) (k : Nat), (k < 48 → physX rrb k = k) ∧
     (48 ≤ k → k < 64 → physX rrb k = 48 + (k - 48 + rrb.toNat) % 16 ∧
       ∀ j, 48 ≤ j → j < 64 → physX rrb j = physX rrb k → j = k)) ∧
  ((∀ (s : State) (L : Nat) (r : Result), ∃ pre suf : List InFlight,
     s.ctx.inflight = pre ++ suf ∧ (∀ e, suf.head? = some e → s.ctx.bidx + L < e.point) ∧
     ((∀ e ∈ s.ctx.inflight, e.point ≤ s.ctx.bidx + L) → suf = []) ∧
     s.post L r = s.setCtx s.me { s.ctx with inflight := pre ++ ⟨s.ctx.bidx + L, r⟩ :: suf } ∧
     (s.post L r).mem = s.mem ∧ (s.post L r).tasks = s.tasks ∧ (s.post L r).ops = s.ops ∧
     ∀ cid, cid ≠ s.me → (s.post L r).ctxAt cid = s.ctxAt cid) ∧
   (∀ (c : Ctx) (due late : List InFlight) (n : Nat), c.inflight = due ++ late → (∀ e ∈ due, e.point ≤ n) →
     (∀ e, late.head? = some e → n < e.point) →
     c.retire n = { due.foldl (fun c e => c.apply e.res) c with inflight := late }) ∧
   ∀ (c : Ctx) (n m : Nat) (w : Word), c.inflight = [⟨m, .x n w⟩] → n < 64 → 0 < n →
     (c.retire m).xAt n = w ∧ ∀ j, j < m → c.retire j = c)

/-- 22 R457, 23 R478, 20 R426: what module reset leaves: no task, no context, no operation, every register of the paddocks and of the
error log at the value the tables give, the memory in its canonical form with nothing listed. The frame map free, READY 0 and no memory
byte listed are the model's choice (log entries 2, 4, 5). -/
def Obligations.ResetState : Prop :=
  State.reset.mem = [] ∧ State.reset.memCanonical ∧ State.reset.betweenBundles ∧ State.reset.tasks = [] ∧ State.reset.ctxs = [] ∧
  State.reset.ops = [] ∧ State.reset.wakesRecorded ∧ State.reset.faultFree ∧ State.reset.ready = 0 ∧
  (∀ p, let d := State.reset.paddockAt p
    d.en = false ∧ d.clmask = 0 ∧ d.hbmShare = 1 ∧ d.netShare = 1 ∧ d.pwrShare = 1 ∧ d.tsquant = 1000 ∧ d.ptop = 0 ∧ d.hbmCap = false ∧
    d.netCap = false ∧ d.winMax = 0 ∧ d.qpMax = 0) ∧
  (∀ f, (State.reset.frameAt f).state = 0) ∧
  (let e := State.reset.elog;
    e.en = false ∧ e.base = 0 ∧ e.head = 0 ∧ e.tail = 0 ∧ e.ovf = false ∧ e.sramPer = 100 ∧ e.hbmPer = 1440 ∧
    e.counts = List.replicate 8 0)

/-- 01 R27: whatever the machine does in a step, and from whatever state, every stabled team with a member that can go on has its wake
recorded afterwards. That a wake is recorded at the end of a step is the model's form of R27. -/
def Obligations.WakesRecordedByEveryStep : Prop :=
  ∀ s t : State, step s = .next t → t.wakesRecorded

/-! ## Class S (09 R223 to R225) -/

/-- 09 R223: the register forms of class S write their result to Xd at latency 1, the multiplies at latency 3. -/
def Obligations.ScalarRegisterResults : Prop :=
  ∀ (s : State) (g d a b : Nat), s.canRun .scalar g → s.readable a → s.readable b →
    let x := s.xval a
    let y := s.xval b
    exec (.add g d a b) s = .next (s.wx 1 d (BitVec.ofNat 64 (x.toNat + y.toNat))) ∧
    exec (.sub g d a b) s = .next (s.wx 1 d (BitVec.ofInt 64 (x.toNat - y.toNat))) ∧
    exec (.mul g d a b) s = .next (s.wx 3 d (BitVec.ofNat 64 (x.toNat * y.toNat))) ∧
    exec (.mulh g d a b) s = .next (s.wx 3 d (BitVec.ofInt 64 (x.toInt * y.toInt / 18446744073709551616))) ∧
    exec (.mulhu g d a b) s = .next (s.wx 3 d (BitVec.ofNat 64 (x.toNat * y.toNat / 18446744073709551616))) ∧
    exec (.and g d a b) s = .next (s.wx 1 d (x &&& y)) ∧
    exec (.or g d a b) s = .next (s.wx 1 d (x ||| y)) ∧
    exec (.xor g d a b) s = .next (s.wx 1 d (x ^^^ y)) ∧
    exec (.andn g d a b) s = .next (s.wx 1 d (x &&& ~~~y)) ∧
    exec (.shl g d a b) s = .next (s.wx 1 d (BitVec.ofNat 64 (x.toNat * 2 ^ (y.toNat % 64)))) ∧
    exec (.shr g d a b) s = .next (s.wx 1 d (BitVec.ofNat 64 (x.toNat / 2 ^ (y.toNat % 64)))) ∧
    exec (.sar g d a b) s = .next (s.wx 1 d (BitVec.ofInt 64 (x.toInt / 2 ^ (y.toNat % 64)))) ∧
    exec (.min g d a b) s = .next (s.wx 1 d (BitVec.ofInt 64 (min x.toInt y.toInt))) ∧
    exec (.max g d a b) s = .next (s.wx 1 d (BitVec.ofInt 64 (max x.toInt y.toInt))) ∧
    exec (.minu g d a b) s = .next (s.wx 1 d (BitVec.ofNat 64 (min x.toNat y.toNat))) ∧
    exec (.maxu g d a b) s = .next (s.wx 1 d (BitVec.ofNat 64 (max x.toNat y.toNat)))

/-- 09 R223: the forms of class S with an immediate or one source. The immediate is sign-extended through its X words (08 R194). 09 R224:
SEL by Pc; BFX and BFI bit by bit, on the field from bit `pos` up to, not including, `top`. -/
def Obligations.ScalarImmediateAndFieldResults : Prop :=
  (∀ (s : State) (g d a n : Nat) (imm : Imm), s.canRun .scalar g → s.readable a → n < 64 →
     let x := s.xval a
     exec (.addi g d a imm) s = .next (s.wx 1 d (x + imm.value 6)) ∧
     exec (.movi g d imm) s = .next (s.wx 1 d (imm.value 12)) ∧
     exec (.andi g d a imm) s = .next (s.wx 1 d (x &&& imm.value 6)) ∧
     exec (.ori g d a imm) s = .next (s.wx 1 d (x ||| imm.value 6)) ∧
     exec (.xori g d a imm) s = .next (s.wx 1 d (x ^^^ imm.value 6)) ∧
     exec (.shli g d a n) s = .next (s.wx 1 d (BitVec.ofNat 64 (x.toNat * 2 ^ n))) ∧
     exec (.shri g d a n) s = .next (s.wx 1 d (BitVec.ofNat 64 (x.toNat / 2 ^ n))) ∧
     exec (.sari g d a n) s = .next (s.wx 1 d (BitVec.ofInt 64 (x.toInt / 2 ^ n))) ∧
     exec (.popc g d a) s = .next (s.wx 1 d (BitVec.ofNat 64 ((List.range 64).countP fun i => x.getLsbD i))) ∧
     ∃ k, k ≤ 64 ∧ exec (.clz g d a) s = .next (s.wx 1 d (BitVec.ofNat 64 k)) ∧
       (∀ i, 64 - k ≤ i → x.getLsbD i = false) ∧ (k < 64 → x.getLsbD (63 - k) = true)) ∧
  (∀ (s : State) (g d a b c : Nat), s.canRun .scalar g → s.readable a → s.readable b → s.readable d →
     let x := s.xval a
     let y := s.xval b
     let pos := y.toNat % 64
     let top := min (pos + (y.toNat / 256 % 64 + 1)) 64
     exec (.sel g d a b c) s = .next (s.wx 1 d (if s.ctx.pAt c then x else y)) ∧
     (∃ r : Word, exec (.bfx g d a b) s = .next (s.wx 1 d r) ∧
       ∀ i, r.getLsbD i = (decide (pos + i < top) && x.getLsbD (pos + i))) ∧
     (∃ r : Word, exec (.bfi g d a b) s = .next (s.wx 1 d r) ∧
       ∀ i, i < 64 → r.getLsbD i = if pos ≤ i ∧ i < top then x.getLsbD (i - pos) else (s.xval d).getLsbD i))

/-! ## Class C (09 R226 to R245; 11 R293 to R297; 13 R354 to R358) -/

/-- 09 R225: a compare writes 1 to Pd where its condition holds, else 0, at latency 1; a word of one with d above 15 raises EN-02; its slots are SA and SB, the first two. 09 R226: predicate logic, and the predicates as the
bits of a scalar. -/
def Obligations.CompareAndPredicateResults : Prop :=
  (∀ (s : State) (g d a b : Nat) (imm : Imm), s.canRun .scalar g → s.readable a → s.readable b →
     let x := s.xval a
     let y := s.xval b
     exec (.cmpeq g d a b) s = .next (s.wp 1 d (decide (x = y))) ∧
     exec (.cmpne g d a b) s = .next (s.wp 1 d (decide (x ≠ y))) ∧
     exec (.cmplt g d a b) s = .next (s.wp 1 d (decide (x.toInt < y.toInt))) ∧
     exec (.cmpltu g d a b) s = .next (s.wp 1 d (decide (x.toNat < y.toNat))) ∧
     exec (.cmple g d a b) s = .next (s.wp 1 d (decide (x.toInt ≤ y.toInt))) ∧
     exec (.cmpleu g d a b) s = .next (s.wp 1 d (decide (x.toNat ≤ y.toNat))) ∧
     exec (.cmpeqi g d a imm) s = .next (s.wp 1 d (decide (x = imm.value 6))) ∧
     exec (.cmplti g d a imm) s = .next (s.wp 1 d (decide (x.toInt < (imm.value 6).toInt)))) ∧
  (∀ op d a b g : Nat, 0x20 ≤ op → op < 0x28 → 16 ≤ d → d < 64 → a < 64 → b < 64 → g < 16 →
     decodeWords [op * 4194304 + d * 65536 + a * 1024 + b * 16 + g] = .error .operand) ∧
  (∀ op d a b g : Nat, 0x20 ≤ op → op < 0x28 → d < 64 → a < 64 → b < 64 → g < 16 → ∀ p < 8,
     slotAccepts (classOf (op * 4194304 + d * 65536 + a * 1024 + b * 16 + g)) p = decide (p = 0 ∨ p = 1)) ∧
  (∀ (s : State) (g d a b v : Nat), s.canRun .control g →
     exec (.pand g d a b) s = .next (s.wp 1 d (s.ctx.pAt a && s.ctx.pAt b)) ∧
     exec (.por g d a b) s = .next (s.wp 1 d (s.ctx.pAt a || s.ctx.pAt b)) ∧
     exec (.pxor g d a b) s = .next (s.wp 1 d (s.ctx.pAt a != s.ctx.pAt b)) ∧
     exec (.pandn g d a b) s = .next (s.wp 1 d (s.ctx.pAt a && !s.ctx.pAt b)) ∧
     exec (.pnot g d a) s = .next (s.wp 1 d (!s.ctx.pAt a)) ∧
     exec (.pseti g d v) s = .next (s.wp 1 d (decide (v = 1))) ∧
     (∃ r : Word, exec (.ptox g d) s = .next (s.wx 1 d r) ∧ ∀ i, r.getLsbD i = (decide (i < 16) && s.ctx.pAt i)) ∧
     (s.readable a → exec (.xtop g a) s =
       .next ((List.range 15).foldl (fun t k => t.wp 1 (k + 1) ((s.xval a).getLsbD (k + 1))) s)))

/-- 09 R227 to R229: where a transfer sends the PC at the commit of its bundle, which targets its bundle checks, and that CALL and CALLX
write X1 at latency 1. NOP changes no state; its bundle weighs n. 09 R230, R231, 13 R355, R356: what TEND, TRAP and TRET ask for at the
commit of their bundle; TRET outside a handler raises PV-01; DBRK halts the team for the debugger, or raises PV-02 where the paddock has
no debug session. -/
def Obligations.TransferAndEndWords : Prop :=
  (∀ (s : State) (g a n : Nat) (imm : Imm), s.canRun .control g →
     let t := s.bun.addr + 4 * imm.value 18
     let after := s.bun.addr + BitVec.ofNat 64 (4 * s.bun.len)
     exec (.nop g n) s = .next { s with bun := { s.bun with weight := n } } ∧
     exec (.br g imm) s = .next { s with bun := { s.bun with next := some t, pop := true, targets := s.bun.targets ++ [t] } } ∧
     (∃ r, exec (.call g imm) s = .next r ∧ r.bun.next = some t ∧ r.bun.targets = s.bun.targets ++ [t] ∧
       r.ctx = s.ctx.post 1 (.x 1 after)) ∧
     (s.readable a →
       exec (.brx g a) s = .next { s with bun := { s.bun with
         next := some (s.xval a), pop := true, targets := s.bun.targets ++ [s.xval a] } } ∧
       exec (.ret g a) s = .next { s with bun := { s.bun with
         next := some (s.xval a), pop := false, targets := s.bun.targets ++ [s.xval a] } } ∧
       ∃ r, exec (.callx g a) s = .next r ∧ r.bun.next = some (s.xval a) ∧ r.bun.targets = s.bun.targets ++ [s.xval a] ∧
         r.ctx = s.ctx.post 1 (.x 1 after))) ∧
  (∀ (s : State) (g code : Nat), s.canRun .control g →
     exec (.tend g) s = .next { s with bun := { s.bun with tend := true } } ∧
     exec (.trap g code) s = .next { s with bun := { s.bun with trap := some code } } ∧
     (s.ctx.inTrap = true → s.ctx.awaitsReply = false →
       exec (.tret g) s = .next { s with bun := { s.bun with tret := true } }) ∧
     (s.ctx.inTrap = false → exec (.tret g) s = .next (s.stopAt (.fault { cls := .PV, num := 1 }))) ∧
     ((s.paddockAt s.task.p).session = true →
       exec (.dbrk g code) s = .next (s.putTask { s.task with debugHalt := some (code, s.bun.addr.toNat) })) ∧
     ((s.paddockAt s.task.p).session = false → exec (.dbrk g code) s = .next (s.stopAt (.fault { cls := .PV, num := 2 }))))

/-- 09 R234: LOOP and LOOPI push an entry with START after the bundle, LAST at the offset and the trip count; a trip count of 0 goes past
the last bundle; a full stack raises FM-13. The last bundle is a target that the bundle checks. 09 R237, R238: LOOPT over a stream of `r +
1` row pointers in core scratch: with at least one element it pushes a traverse entry and begins the traversal at the first element, in
the row that holds it; with none it goes past the last bundle. Its read is a core load of lines that can be read. A loop of no trips goes past its last bundle without popping (log entry 18,
read by inference). -/
def Obligations.LoopsOpen : Prop :=
  (∀ (s : State) (g a n off : Nat), s.canRun .control g → s.readable a →
     let last := s.bun.addr + BitVec.ofNat 64 (4 * off)
     let start := s.bun.addr + BitVec.ofNat 64 (4 * s.bun.len)
     let opened (k : Word) : State := { s with bun := { s.bun with
       targets := s.bun.targets ++ [last], push := some ⟨start, last, some k⟩ } }
     let skipped : State := { s with bun := { s.bun with
       targets := s.bun.targets ++ [last], next := some (BitVec.ofNat 64 (s.bundleEnd s.task 8 last.toNat)), pop := false } }
     (s.ctx.loops.length < 4 →
       exec (.loop g a off) s = .next (if s.xval a = 0 then skipped else opened (s.xval a)) ∧
       exec (.loopi g n off) s = .next (if BitVec.ofNat 64 n = 0 then skipped else opened (BitVec.ofNat 64 n))) ∧
     (4 ≤ s.ctx.loops.length →
       ∃ t u, exec (.loop g a off) s = .next t ∧ exec (.loopi g n off) s = .next u ∧
         t.bun.stop = some (.fault { cls := .FM, num := 13, word := s.bun.word }) ∧
         u.bun.stop = some (.fault { cls := .FM, num := 13, word := s.bun.word }))) ∧
  (∀ (s : State) (g d a b off o : Nat), s.canRun .control g → s.readable a → s.readable b → s.ctx.loops.length < 4 →
     s.ctx.trav = none → (s.xval b).toNat ≤ 4095 →
     let r := (s.xval b).toNat
     let reg := s.scratchOf s.ctx.tid s.ctx.core
     let ps := (List.range (r + 1)).map fun i => memNat s.mem (reg.base + o + 4 * i) 4
     let last := s.bun.addr + BitVec.ofNat 64 (4 * off)
     (s.xval a).toNat = o → o % 4 = 0 → o + 4 * (r + 1) ≤ reg.size →
     s.raceCore [⟨reg.space, o / 64, (o + 4 * (r + 1) - 1) / 64, 0⟩] [] = .ok () →
     (∀ l ∈ linesOf (reg.base + o) (4 * (r + 1)), s.lineBad l (inRead (reg.base + o) (4 * (r + 1)) l) = false) →
     nonDecreasing ps = true →
     ∃ t, exec (.loopt g d a b off) s = .next t ∧ t.bun.stop = none ∧ t.ctx = { s.ctx with before := t.ctx.before } ∧
       (s.sound = true → t.mem = s.mem) ∧ t.bun.targets = s.bun.targets ++ [last] ∧
       (ps.getLastD 0 ≠ ps.headD 0 →
         t.bun.push = some ⟨s.bun.addr + BitVec.ofNat 64 (4 * s.bun.len), last, none⟩ ∧
         t.bun.trav = some ⟨ps, d, ps.headD 0, rowOf ps 0 (ps.headD 0)⟩) ∧
       (ps.getLastD 0 = ps.headD 0 → t.bun.next = some (BitVec.ofNat 64 (s.bundleEnd s.task 8 last.toNat))))

/-- 09 R239, R240, R241: PIPE sets LCNT, SDEPTH, RRB and the stage window at latency 1; LCLOSE steps LCNT and RRB down, shifts the window
with a 1 while LCNT is not 0, and branches while a stage is live, all at the commit of its bundle, none of it left in flight. -/
def Obligations.PipelineWords : Prop :=
  (∀ (s : State) (g a st : Nat) (imm : Imm), s.canRun .control g → s.readable a →
    let n := s.xval a
    let t := s.bun.addr + 4 * imm.value 18
    let c := s.ctx
    let w := (stageWindow c * 2 + if c.lcnt = 0 then 0 else 1) % 2 ^ c.sdepth.toNat % 256
    let s2 : State := { s with bun := { s.bun with
      targets := s.bun.targets ++ [t], close := some (c.lcnt - (if c.lcnt = 0 then 0 else 1), w, c.rrb - 1) } }
    exec (.pipe g a st) s = .next ((((s.post 1 (.csr 0x011 (n - if n = 0 then 0 else 1))).post 1
      (.csr 0x012 (BitVec.ofNat 64 st))).post 1 (.csr 0x010 0)).setWindow (if n = 0 then 0 else 1)) ∧
    exec (.lclose g imm) s = .next (if w = 0 then s2 else { s2 with bun := { s2.bun with next := some t, pop := true } })) ∧
  ∀ (s0 s : State) (n : Word) (w : Nat) (r : BitVec 4), s.bun.stop = none → (∀ a ∈ s.bun.targets, s.targetFault s.task a = none) →
    s.bun.tend = false → s.bun.trap = none → s.bun.tret = false → s.bun.close = some (n, w, r) →
    let t := closeBundle s0 s
    t.ctx.lcnt = n ∧ t.ctx.rrb = r ∧ (∀ j < 8, t.ctx.pAt (8 + j) = w.testBit j ∧ t.ctx.pAt j = s.ctx.pAt j) ∧
      ∀ pc, s.bun.next = some pc → s.bun.trav = none → t.ctx.pc = pc ∧ t.ctx.inflight = s.ctx.inflight

/-- 09 R244, R245, 23 R476: PUSHM stores the registers a to b in the context's stack region below SP and lowers SP with its bundle; POPM
loads them from SP at latency 3 and raises SP at latency 1; a move past either end of the 8 KiB stack raises LS-07, a load of a line that
cannot be read AC-02. -/
def Obligations.HardwareStack : Prop :=
  ∀ (s : State) (g a b : Nat), s.canRun .control g → (∀ k, a ≤ k → k ≤ b → s.readable k) →
    let n := b + 1 - a
    let sp := s.ctx.sp.toNat
    let bytes := (List.range n).flatMap fun i => natLe 8 (s.xval (a + i)).toNat
    let pushed := (s.store (stackAddr s.me (sp - 8 * n)) bytes).commitOrder
    (8 * n ≤ sp → sp ≤ 8192 →
      exec (.pushm g a b) s = .next (pushed.putCtx (pushed.ctx.apply (.csr 0x013 (BitVec.ofNat 64 (sp - 8 * n))))) ∧
      (s.sound = true → pushed.mem = memWrite s.mem (stackAddr s.me (sp - 8 * n)) bytes) ∧
      (sp % 8 = 0 → (pushed.ctx.apply (.csr 0x013 (BitVec.ofNat 64 (sp - 8 * n)))).sp = BitVec.ofNat 64 (sp - 8 * n))) ∧
    (sp < 8 * n → exec (.pushm g a b) s = .next (s.stopAt (.fault { cls := .LS, num := 7 }))) ∧
    (sp + 8 * n ≤ 8192 →
      (∀ u : State, s.readCheck (stackAddr s.me sp) (8 * n) = .ok u → exec (.popm g a b) s =
        .next (((List.range n).foldl (fun t i => t.wx 3 (a + i) (BitVec.ofNat 64 (memNat t.mem (stackAddr s.me (sp + 8 * i)) 8)))
          u.commitOrder).post 1 (.csr 0x013 (BitVec.ofNat 64 (sp + 8 * n))))) ∧
      (s.sound = true → s.readCheck (stackAddr s.me sp) (8 * n) = .ok s) ∧
      ∀ l ∈ linesOf (stackAddr s.me sp) (8 * n), s.lineBad l (inRead (stackAddr s.me sp) (8 * n) l) = true →
        ∃ k ∈ linesOf (stackAddr s.me sp) (8 * n), exec (.popm g a b) s = .next (s.stopAt (.fault
          { cls := .AC, num := 2, aux := k, part := (List.range 8).filter (inRead (stackAddr s.me sp) (8 * n) k) }))) ∧
    (8192 < sp + 8 * n → exec (.popm g a b) s = .next (s.stopAt (.fault { cls := .LS, num := 7 })))

/-- 11 R295 to R297, 07 R183: an arrival at a team barrier answers the phase it arrived in and completes it when every member has ended
or has arrived; a second arrival raises FM-18; BARW passes unless the member has arrived in the current phase, and else blocks. The
operations on cells that come before the arrivals of a phase come before what follows a wait that it passes. -/
def Obligations.TeamBarriers : Prop :=
  ∀ (s : State) (g d b : Nat), s.canRun .controlMain g → b < s.task.bars.length →
    let r := s.task.bar b
    let me := s.ctx.member
    (me ∉ r.arrived → ∃ t : State, exec (.bara g d b) s = .next (t.wx 1 d (r.phase.setWidth 64)) ∧ t.ctx = s.ctx ∧ t.mem = s.mem ∧
      ((∀ m ∈ s.memberEnds s.task, m.2 = true ∨ m.1 = me ∨ m.1 ∈ r.arrived) →
        t.task.bar b = ⟨r.phase + 1, [], [], union r.passed (union r.before (s.undone s.ctx.before))⟩) ∧
      ((∃ m ∈ s.memberEnds s.task, m.2 = false ∧ m.1 ≠ me ∧ m.1 ∉ r.arrived) →
        t.task.bar b = ⟨r.phase, me :: r.arrived, union r.before (s.undone s.ctx.before), r.passed⟩)) ∧
    (me ∈ r.arrived → exec (.bara g d b) s = .next (s.stopAt (.fault { cls := .FM, num := 18 }))) ∧
    (me ∉ r.arrived → exec (.barw g b) s = .next (if r.passed = [] then s
      else s.putCtx { s.ctx with before := union s.ctx.before (s.undone r.passed) })) ∧
    (me ∈ r.arrived → exec (.barw g b) s = .next (s.stopAt (.block (.barrier b (r.phase.setWidth 64)))))

/-- 09 R242, R243: WAITANY, WAITALL and FFRDY answer the tags of the mask that are complete, and join them; a wait whose tags are not
ready blocks; a join of an operation that ended in a fault not yet reported raises that of the lowest tag. 11 R293, R294, 07 R186: FENCE changes nothing; at scopes 3 to 6 it stalls while a counter operation that its order is for has
not performed: an acquire for the context's own, a release for one that happens before it, the others for both; where none is left it passes
(log entry 9, the model's reading). REGWB (13 R357) writes dirty lines home where no named
tile has a pending write: no context, task or operation changes, nor any byte below the homes of run registers; a named tile beyond the
task's tiles raises FM-07 (04 R94). LQRY reads a lease entry
(13 R358). -/
def Obligations.WaitsFencesAndQueries : Prop :=
  (∀ (s : State) (g d a : Nat), s.canRun .control g → s.readable a →
     (∀ f ∈ s.task.tagFaults, f.core ≠ s.ctx.core) →
     let m := s.xval a
     let v := s.task.tagsWord s.ctx.core &&& m
     let joined (t : State) (u : Word) : Prop := t.bun = s.bun ∧ t.mem = s.mem ∧ t.ops = s.ops ∧
       t.ctx = { s.ctx with before := t.ctx.before } ∧ (∀ i ∈ s.ctx.before, i ∈ t.ctx.before) ∧
       (∀ d ∈ s.task.done, d.core = s.ctx.core → u.getLsbD d.tag = true → ∀ i ∈ s.undone d.before, i ∈ t.ctx.before) ∧
       t.task.landed = s.task.landed.filter fun l => !(l.core == s.ctx.core && u.getLsbD l.tag)
     (v ≠ 0 ∨ m = 0 → ∃ t : State, exec (.waitany g d a) s = .next (t.wx 1 d v) ∧ joined t v) ∧
     (v = 0 → m ≠ 0 → exec (.waitany g d a) s = .next (s.stopAt (.block (.tagsAny m)))) ∧
     (v = m → ∃ t : State, exec (.waitall g d a) s = .next (t.wx 1 d v) ∧ joined t v) ∧
     (v ≠ m → exec (.waitall g d a) s = .next (s.stopAt (.block (.tagsAll m)))) ∧
     (v = 0 → exec (.ffrdy g d a) s = .next (s.wx 1 d 64)) ∧
     (v ≠ 0 → ∃ (k : Nat) (t : State), k < 64 ∧ v.getLsbD k = true ∧ (∀ j, j < k → v.getLsbD j = false) ∧
       exec (.ffrdy g d a) s = .next (t.wx 1 d (BitVec.ofNat 64 k)) ∧ joined t (BitVec.ofNat 64 (2 ^ k)))) ∧
  (∀ (s : State) (g d a : Nat) (f : TagFault), s.canRun .control g → s.readable a → f ∈ s.task.tagFaults → f.core = s.ctx.core →
     let m := s.xval a
     let v := s.task.tagsWord s.ctx.core &&& m
     v.getLsbD f.tag = true → (∀ e ∈ s.task.tagFaults, e.core = s.ctx.core → v.getLsbD e.tag = true → e = f ∨ f.tag < e.tag) →
     let joined := s.stopAt (.fault { f.flt with join := true })
     exec (.waitany g d a) s = .next joined ∧ (v = m → exec (.waitall g d a) s = .next joined)) ∧
  ((∀ (s : State) (g ord scope : Nat), s.canRun .fence g →
     let held : Prop :=
       (ord ≠ 1 ∧ ∃ o ∈ s.ops, o.cid = s.me ∧ ∃ c : CounterCmd, o.kind = .counter c ∧ c.performed = false) ∨
       (ord ≠ 0 ∧ ∃ o ∈ s.ops, o.id ∈ s.ctx.before ∧ ∃ c : CounterCmd, o.kind = .counter c ∧ c.performed = false)
     (scope ≤ 2 ∨ ¬held → exec (.fence g ord scope) s = .next s) ∧
     (2 < scope → held → exec (.fence g ord scope) s = .next (s.stopAt .stall))) ∧
   (∀ (s : State) (g d a : Nat), s.canRun .control g → s.readable a → s.task.tagFaults = [] →
     ((∃ k < 16, (s.xval a).getLsbD k = true ∧ s.task.tiles ≤ k) →
       exec (.regwb g a) s = .next (s.stopAt (.fault { cls := .FM, num := 7 }))) ∧
     ((∀ k < 16, (s.xval a).getLsbD k = true → k < s.task.tiles ∧ s.tileWriters k = []) → ∃ t : State, exec (.regwb g a) s = .next t ∧
       (s.sound = true → s.memCanonical → t.bun = s.bun ∧ t.ctxs = s.ctxs ∧ t.tasks = s.tasks ∧ t.ops = s.ops ∧
         ∀ x < 2 ^ 80, memGet t.mem x = memGet s.mem x)) ∧
     (s.task.leases[(s.xval a).toNat % 16]? = none → exec (.lqry g d a) s = .next (s.wx 1 d 0)) ∧
     ∀ l, s.task.leases[(s.xval a).toNat % 16]? = some l → ∃ v : Word, exec (.lqry g d a) s = .next (s.wx 1 d v) ∧
       v.getLsbD 0 = true ∧ v.getLsbD 1 = l.rd ∧ v.getLsbD 2 = l.wr ∧ v.getLsbD 4 = l.deleg ∧ v.toNat / 256 = l.win % 4096))

/-- 09 R246 to R250, 13 R354: CSRR reads, CSRW writes, CSRS sets and CSRC clears bits of a register of the context at latency 1, of STABLE_WAIT
(0x022) in the task; the status bits of QSTATq (06 R147) clear where 1 is written; reads of TAGS join what they answer as complete (02
R64), those of QSTATq the drains (06 R147), for ordering only; what each number names; a lookup core lacks some of them (EN-02). A posted
write sets the fields of its register that are RW when it lands, mends its parity (23 R480) and changes nothing else; of a register that
is RO it changes nothing (00 R7). -/
def Obligations.ControlRegisters : Prop :=
  (∀ (s : State) (g d a n : Nat), s.canRun .control g → s.readable a → s.ctx.core < 384 ∨ csrOnLookup n = true →
    let x := s.xval a
    let v := s.csr n
    let plain := n ≠ 0x022 ∧ (n < 0x038 ∨ 0x03F < n)
    let wait (w : Word) : State := s.putTask { s.task with stableWait := w &&& 0xFFFFFFFF }
    let cleared (m : Word) : State := s.modArr s.ctx.core fun q =>
      let r := q.queues.getD (n - 0x038) .empty
      let r := { r with nan := r.nan && !m.getLsbD 5, sat := r.sat && !m.getLsbD 6, retried := r.retried && !m.getLsbD 7 }
      { q with queues := q.queues.set (n - 0x038) r }
    (n ≠ 0x020 → (n < 0x038 ∨ 0x03F < n) → exec (.csrr g d n) s = .next (s.wx 1 d v)) ∧
    ((∀ f ∈ s.task.tagFaults, f.core ≠ s.ctx.core) → ∃ t : State, exec (.csrr g d n) s = .next (t.wx 1 d v) ∧ t.bun = s.bun ∧
      t.mem = s.mem ∧ t.ops = s.ops ∧ t.ctx = { s.ctx with before := t.ctx.before }) ∧
    (plain → exec (.csrw g a n) s = .next (s.post 1 (.csr n x)) ∧ exec (.csrs g a n) s = .next (s.post 1 (.csr n (v ||| x))) ∧
      exec (.csrc g a n) s = .next (s.post 1 (.csr n (v &&& ~~~x)))) ∧
    (n = 0x022 → exec (.csrw g a n) s = .next (wait x) ∧ exec (.csrs g a n) s = .next (wait (v ||| x)) ∧
      exec (.csrc g a n) s = .next (wait (v &&& ~~~x))) ∧
    (0x038 ≤ n → n ≤ 0x03F → exec (.csrw g a n) s = .next (cleared x) ∧ exec (.csrs g a n) s = .next (cleared 0) ∧
      exec (.csrc g a n) s = .next (cleared x))) ∧
  (∀ (s : State) (g d a n : Nat), s.canRun .control g → 384 ≤ s.ctx.core → csrOnLookup n = false →
    let stopped := s.stopAt (.fault (enFault 2 s.bun.word s.bun.addr.toNat))
    exec (.csrr g d n) s = .next stopped ∧ exec (.csrw g a n) s = .next stopped ∧ exec (.csrs g a n) s = .next stopped ∧
      exec (.csrc g a n) s = .next stopped) ∧
  (∀ s : State, s.csr 0x001 = s.ctx.trapvec ∧ s.csr 0x002 = s.ctx.epc ∧ s.csr 0x003 = s.ctx.cause ∧ s.csr 0x004 = s.ctx.fdet ∧
    s.csr 0x005 = s.ctx.ftypeA ∧ s.csr 0x006 = s.ctx.ftypeB ∧ s.csr 0x007 = s.ctx.fcmd ∧ s.csr 0x008 = s.ctx.fscr0 ∧
    s.csr 0x009 = s.ctx.fscr1 ∧ s.csr 0x010 = s.ctx.rrb.setWidth 64 ∧ s.csr 0x011 = s.ctx.lcnt ∧ s.csr 0x013 = s.ctx.sp ∧
    s.csr 0x012 = s.ctx.sdepth.setWidth 64 ∧ s.csr 0x020 = s.task.tagsWord s.ctx.core ∧ s.csr 0x022 = s.task.stableWait ∧
    s.csr 0x030 = s.ctx.rngctl ∧ s.csr 0x031 = s.ctx.rngposc ∧ s.csr 0x032 = s.ctx.rngpose ∧
    s.csr 0x040 = BitVec.ofNat 64 s.cycle ∧ s.csr 0x041 = BitVec.ofNat 64 s.ctx.bidx ∧
    s.csr 0x000 = BitVec.ofNat 64 (s.ctx.inTrap.toNat + 2 * s.ctx.trav.isSome.toNat + 4 * s.ctx.loops.length) ∧
    (s.ctx.core < 384 → s.csr 0x021 = BitVec.ofNat 64 (s.ctx.member + 256 * s.task.size + 16384 * s.ctx.slot +
      65536 * (s.ctx.core % 8) + 524288 * (s.ctx.core / 8 % 8) + 4194304 * (s.ctx.core / 64 % 3) + 16777216 * (s.ctx.core / 192) +
      2 ^ 32 * s.task.p + 2 ^ 38 * s.task.prio + 2 ^ 40 * (s.task.seq % 2 ^ 24))) ∧
    (∀ q < 8, ∃ busy : Bool,
      (busy = true ↔ ∃ o ∈ s.ops, o.core = s.ctx.core ∧ o.tid = s.ctx.tid ∧ o.id < s.bun.firstOp ∧ ∃ (d : DrainSpec) (b : MProg), d.q = q ∧
        ((∃ m : MulSpec, m.drain = some d ∧ o.kind = .matrix (.mmul m) b) ∨ o.kind = .matrix (.mdrain d) b)) ∧
      let r := (s.coreAt s.ctx.core).arr.queues.getD q .empty
      s.csr (0x038 + q) = BitVec.ofNat 64 (r.slabs.length + 32 * r.nan.toNat + 64 * r.sat.toNat + 128 * r.retried.toNat +
        256 * busy.toNat + 65536 * (r.drains % 65536)))) ∧
  (∀ (c : Ctx) (n : Nat) (v : Word),
    let is (d : Ctx) : Prop := c.apply (.csr n v) = { d with damaged := c.damaged.filter (· != 80 + n) }
    (n = 0x001 → is { c with trapvec := v &&& ~~~2 }) ∧ (n = 0x002 → is { c with epc := v }) ∧ (n = 0x008 → is { c with fscr0 := v }) ∧
    (n = 0x009 → is { c with fscr1 := v }) ∧ (n = 0x010 → is { c with rrb := v.setWidth 4 }) ∧ (n = 0x011 → is { c with lcnt := v }) ∧
    (n = 0x012 → is { c with sdepth := v.setWidth 4 }) ∧ (n = 0x013 → is { c with sp := v &&& 0x3FF8 }) ∧
    (n = 0x030 → v.toNat % 4 ≠ 3 → is { c with rngctl := v &&& 0x3FFFFFF }) ∧
    (n = 0x030 → v.toNat % 4 = 3 → is { c with rngctl := ((v &&& ~~~3) ||| (c.rngctl &&& 3)) &&& 0x3FFFFFF }) ∧
    (n = 0x031 → is { c with rngposc := v &&& 0xFFFFFFFF }) ∧ (n = 0x032 → is { c with rngpose := v &&& 0xFFFFFFFF }) ∧
    (n ∉ [0x001, 0x002, 0x008, 0x009, 0x010, 0x011, 0x012, 0x013, 0x030, 0x031, 0x032] → c.apply (.csr n v) = c))

/-! ## Class V (10 R251 to R267, R273 to R276; 05 R115 to R132) -/

namespace Sys2Proof.Machine

/-- What an element-wise word of class V is: the tags of a, b and c it accepts, whether it reads b and c, whether it rounds, the tag of its
result, the value of an element from those of a, b and c, and the value where the mask is 0 from those of a and b. -/
structure LaneWord where
  tags : VTag → VTag → VTag → Bool
  reads : Bool
  third : Bool
  rounds : Bool
  res : VTag → VTag
  fn : VTag → Half → Half → Half → Half
  off : Half → Half → Half

/-- An arithmetic lane: exact and reduced once under an integer tag, exact and rounded once under FP32 (10 R256, R257). -/
def laneArith (o : VOps) (third : Bool) (ff : Num → Num → Num → Num) (fi : Int → Int → Int → Int) : LaneWord where
  tags a b c := a == b && (!third || a == c)
  reads := true
  third := third
  rounds := true
  res := id
  fn t x y z := if t.isInt then t.ofInt (vSat o) (fi (t.int x) (t.int y) (t.int z)) else f32 o.rnd (vSat o) 0 (ff (t.num x) (t.num y) (t.num z))
  off x _ := x

/-- A lane on bits. -/
def laneBits (same : Bool) (f : Half → Half → Half) : LaneWord where
  tags a b _ := a.isInt && b.isInt && (!same || a == b)
  reads := true
  third := false
  rounds := false
  res := id
  fn _ x y _ := f x y
  off x _ := x

/-- A compare: 1 or 0 in UINT32, 0 where the mask is 0 (10 R258). -/
def laneCompare (f : VTag → Half → Half → Bool) : LaneWord where
  tags a b _ := a == b
  reads := true
  third := false
  rounds := false
  res _ := .uint32
  fn t x y _ := if f t x y then 1 else 0
  off _ _ := 0

/-- A lane of one operand, INT32 or FP32. -/
def laneUnary (o : VOps) (fi : Int → Int) (ff : Half → Half) : LaneWord where
  tags a _ _ := a == .int32 || a == .fp32
  reads := false
  third := false
  rounds := false
  res := id
  fn t x _ _ := if t.isInt then t.ofInt (vSat o) (fi x.toInt) else if (t.num x).isNan then 0x7FC00000 else ff x
  off x _ := x

/-- The element-wise words of class V with their guards and operands (10 R255 to R259). VSEL takes a where its mask is not 0, else b. -/
def laneWord : Instr → Option (Nat × VOps × LaneWord)
  | .vadd g o => some (g, o, laneArith o false (fun x y _ => x.add y) fun x y _ => x + y)
  | .vsub g o => some (g, o, laneArith o false (fun x y _ => x.add y.neg) fun x y _ => x - y)
  | .vmul g o => some (g, o, laneArith o false (fun x y _ => x.mul y) fun x y _ => x * y)
  | .vfma g o => some (g, o, laneArith o true (fun x y z => (x.mul y).add z) fun x y z => x * y + z)
  | .vdiv g o => some (g, o, { laneArith o false (fun x y _ => x.div y) (fun x _ _ => x) with
      fn := fun t x y _ => if t.isInt then t.ofInt (vSat o) (intDiv t (t.int x) (t.int y)) else f32 o.rnd (vSat o) 0 ((t.num x).div (t.num y)) })
  | .vmin g o => some (g, o, { laneCompare (fun _ _ _ => false) with res := id, fn := fun t x y _ => pick false t x y, off := fun x _ => x })
  | .vmax g o => some (g, o, { laneCompare (fun _ _ _ => false) with res := id, fn := fun t x y _ => pick true t x y, off := fun x _ => x })
  | .vand g o => some (g, o, laneBits true fun x y => x &&& y)
  | .vor g o => some (g, o, laneBits true fun x y => x ||| y)
  | .vxor g o => some (g, o, laneBits true fun x y => x ^^^ y)
  | .vshl g o => some (g, o, laneBits false fun x y => x <<< (y.toNat % 32))
  | .vshr g o => some (g, o, laneBits false fun x y => x >>> (y.toNat % 32))
  | .vsar g o => some (g, o, laneBits false fun x y => x.sshiftRight (y.toNat % 32))
  | .vsel g o => some (g, o, { laneCompare (fun _ _ _ => false) with res := id, fn := fun _ x _ _ => x, off := fun _ y => y })
  | .vcmpeq g o => some (g, o, laneCompare fun t x y => t.equal x y)
  | .vcmpne g o => some (g, o, laneCompare fun t x y => !t.equal x y)
  | .vcmplt g o => some (g, o, laneCompare fun t x y => t.less false x y)
  | .vcmple g o => some (g, o, laneCompare fun t x y => t.less false x y || t.equal x y)
  | .vneg g o => some (g, o, laneUnary o (fun x => -x) fun x => x ^^^ 0x80000000)
  | .vabs g o => some (g, o, laneUnary o (fun x => x.natAbs) fun x => x &&& 0x7FFFFFFF)
  | _ => none

/-- The mask of such a word: VSEL always has one. -/
def laneMask (i : Instr) (o : VOps) : Option Nat :=
  match i with
  | .vsel .. => some ((vMask o).getD 0)
  | _ => vMask o

/-- The run registers beside a that the word reads: b unless it is a scalar, c, the mask. -/
def laneRegs (i : Instr) (o : VOps) (w : LaneWord) : List Nat :=
  (if w.reads && o.s != 1 then [o.b] else []) ++ (if w.third then [vThird o] else []) ++ (laneMask i o).toList

end Sys2Proof.Machine

/-- 05 R121 to R124, 10 R255 to R259: an element-wise word whose operands have one chainage in every row and need no more than 64 pieces
writes, in every row and at every element, the value of its operation on the elements there, at latency 4; where its mask is 0 it keeps
a's element, or as laneWord has it. That a lane of the mask counts by its bits, an FP32 -0 as 1, is read by inference (log entry 118).
Rounding of FP32 under RSTO, which draws, is left out here. 05 R116, R122: an element-wise word whose
tags it does not accept raises FM-11; else operands whose chainages differ in a row raise RN-02. Nothing is written either way. -/
def Obligations.LaneWords : Prop :=
  (∀ (s : State) (i : Instr) (g : Nat) (o : VOps) (w : LaneWord), laneWord i = some (g, o, w) → s.canRun .vector g →
     (w.reads = true → o.s = 1 → s.readable o.b) →
     let a := s.ctx.vAt o.a
     let tb := if o.s = 1 then a.tag else (s.ctx.vAt o.b).tag
     let rs := laneRegs i o w
     a.wf → (∀ r ∈ rs, (s.ctx.vAt r).wf) → w.tags a.tag tb (s.ctx.vAt (vThird o)).tag = true →
     (w.rounds = false ∨ o.rnd ≠ 1 ∨ a.tag.isInt = true) →
     (∀ l < 16, ∀ r ∈ rs, chain ((s.ctx.vAt r).row l) = chain (a.row l)) →
     (∀ l < 16, (allPieces (a.row l :: rs.map fun r => (s.ctx.vAt r).row l)).length ≤ 64) →
     ∃ rows : List (List Run), exec i s = .next (s.wv 4 o.d (w.res a.tag) rows) ∧ rows.length = 16 ∧
       ∀ l < 16, chain (rows.getD l []) = chain (a.row l) ∧ ∀ j < chain (a.row l),
         let x := elemAt (a.row l) j
         let y := if o.s = 1 then (s.xval o.b).setWidth 32 else elemAt ((s.ctx.vAt o.b).row l) j
         let z := elemAt ((s.ctx.vAt (vThird o)).row l) j
         let on := match laneMask i o with
           | some m => elemAt ((s.ctx.vAt m).row l) j != 0
           | none => true
         elemAt (rows.getD l []) j = if on then w.fn a.tag x y z else w.off x y) ∧
  (∀ (s : State) (i : Instr) (g : Nat) (o : VOps) (w : LaneWord), laneWord i = some (g, o, w) → s.canRun .vector g →
     (w.reads = true → o.s = 1 → s.readable o.b) →
     let a := s.ctx.vAt o.a
     let tb := if o.s = 1 then a.tag else (s.ctx.vAt o.b).tag
     (w.tags a.tag tb (s.ctx.vAt (vThird o)).tag = false → exec i s = .next (s.stopAt (.fault { cls := .FM, num := 11 }))) ∧
     (w.tags a.tag tb (s.ctx.vAt (vThird o)).tag = true →
       (∃ l < 16, ∃ r ∈ laneRegs i o w, chain ((s.ctx.vAt r).row l) ≠ chain (a.row l)) →
       ∃ f : FaultRec, f.cls = .RN ∧ f.num = 2 ∧ exec i s = .next (s.stopAt (.fault f))))

/-- 05 R125, R131, 10 R259, R261 to R263: the words of class V that move, count or rebuild rows. VSETCH lengthens a row by its last
element, an empty one by elements of bits 0. -/
def Obligations.RowWordResults : Prop :=
  ∀ (s : State) (g c d a b tag : Nat), s.canRun .vector g → s.readable a → s.readable b →
    let v := s.ctx.vAt a
    v.wf →
    exec (.vmov g d a) s = .next (s.post 4 (.v d v)) ∧
    exec (.vrco g d a) s = .next (s.wv 4 d v.tag (v.rows.map mergeRuns)) ∧
    exec (.vgetch g d a) s = .next (s.wv 4 d .uint32 (v.rows.map fun r => [⟨BitVec.ofNat 32 (chain r), 1⟩])) ∧
    ((s.xval b).toNat ≤ 4096 → exec (.vsplat g tag d a b) s = .next (s.wv 4 d (tagField tag)
      (List.replicate 16 (if s.xval b = 0 then [] else [⟨(s.xval a).setWidth 32, (s.xval b).toNat⟩])))) ∧
    (4096 < (s.xval b).toNat → exec (.vsplat g tag d a b) s =
      .next (s.stopAt (rnFault 3 0 0xFFFF 0 (s.xval b).toNat (s.xval b).toNat 0))) ∧
    ((∀ l < 16, chain (v.row l) = 0 ∨ (s.xval b).toNat < chain (v.row l)) → exec (.vbcst g d a b) s =
      .next (s.wv 4 d v.tag (v.rows.map fun r => if chain r = 0 then [] else [⟨elemAt r (s.xval b).toNat, chain r⟩]))) ∧
    ((s.xval b).toNat ≤ 4096 → ∃ rows, exec (.vsetch g d a b) s = .next (s.wv 4 d v.tag rows) ∧ rows.length = 16 ∧
      ∀ l < 16, chain (rows.getD l []) = (s.xval b).toNat ∧
        ∀ j < (s.xval b).toNat, elemAt (rows.getD l []) j =
          if j < chain (v.row l) then elemAt (v.row l) j
          else if chain (v.row l) = 0 then 0 else elemAt (v.row l) (chain (v.row l) - 1)) ∧
    (4096 < (s.xval b).toNat → exec (.vsetch g d a b) s =
      .next (s.stopAt (rnFault 3 0 0xFFFF 0 (chain (v.row 0)) (s.xval b).toNat 0))) ∧
    ((s.xval b).toNat % 4096 < chain (v.row ((s.xval b).toNat / 4096 % 16)) → exec (.vextr g d a b) s =
      .next (s.wx 6 d (let e := elemAt (v.row ((s.xval b).toNat / 4096 % 16)) ((s.xval b).toNat % 4096)
        if v.tag = .int32 then e.signExtend 64 else e.setWidth 64))) ∧
    ((∀ l < 16, ((if c = 1 then mergeRuns else id) (rotateRow (s.xval b).toInt (v.row l))).length ≤ 64) →
      ∃ rows, exec (.vrot g c d a b) s = .next (s.wv 4 d v.tag rows) ∧ rows.length = 16 ∧ ∀ l < 16,
        chain (rows.getD l []) = chain (v.row l) ∧ ∀ j < chain (v.row l),
          elemAt (rows.getD l []) (((j : Int) + (s.xval b).toInt) % chain (v.row l)).toNat = elemAt (v.row l) j)

/-- 10 R260, R262, R264, 05 R126, R129 to R132: conversion, reductions, scans, expansion and the words across rows, where no rounding
draws (RSTO is left to the draws' statement) and no row needs more than 64 runs. Where a column result is cut into runs is read by
inference (log entry 24); the statement speaks of elements. -/
def Obligations.ReductionAndColumnResults : Prop :=
  ∀ (s : State) (g c d rnd a b op raw tag : Nat) (sat : Option Nat), s.canRun .vector g → s.readable b → rnd ≠ 1 →
    let v := s.ctx.vAt a
    let w := s.ctx.vAt b
    let k := (s.xval b).toNat
    v.wf → w.wf →
    (∃ rows, exec (.vcvt g c d rnd a raw tag sat) s = .next (s.wv 4 d (tagField tag) rows) ∧ rows.length = 16 ∧ ∀ l < 16,
      chain (rows.getD l []) = chain (v.row l) ∧ ∀ j < chain (v.row l), elemAt (rows.getD l []) j =
        let x := elemAt (v.row l) j
        if raw = 1 ∨ tagField tag = v.tag then x else (tagField tag).ofNum rnd (sat == some 1) 0 (v.tag.num x)) ∧
    (∃ rows, exec (.vred g d rnd a op none) s = .next (s.wv 6 d (if op = 3 then .uint32 else v.tag) rows) ∧ ∀ l < 16,
      rows.getD l [] = if chain (v.row l) = 0 then [] else
        [⟨if op = 3 then BitVec.ofNat 32 (chain (v.row l)) else reduceTerms v.tag op rnd 0 ((v.row l).map fun q => (q.val, q.cnt)),
          chain (v.row l)⟩]) ∧
    ((∀ l < 16, (scanSums v.tag none (v.row l)).length ≤ 64) → exec (.vscan g 0 d rnd a) s = .next (s.wv 4 d v.tag
      (v.rows.map fun r => (scanSums v.tag none r).map fun p => ⟨v.tag.ofNum rnd false 0 p.1, p.2⟩))) ∧
    (w.tag.isInt = true → (∀ l < 16, chain (w.row l) = chain (v.row l)) →
      (∀ l < 16, ((expandRow (w.row l)).map BitVec.toNat).sum ≤ 4096 ∧ (allPieces [v.row l, w.row l]).length ≤ 64) →
      ∃ rows, exec (.vexpd g c d a b) s = .next (s.wv 4 d v.tag rows) ∧ ∀ l < 16, expandRow (rows.getD l []) =
        (List.zip (expandRow (v.row l)) (expandRow (w.row l))).flatMap fun p => List.replicate p.2.toNat p.1) ∧
    exec (.vcrot g d a b) s = .next (s.wv 12 d v.tag (rows16.map fun l => v.row ((l + 16 - k % 16) % 16))) ∧
    exec (.vcbcst g d a b) s = .next (s.wv 12 d v.tag (List.replicate 16 (v.row (k % 16)))) ∧
    ((∀ l < 16, chain (v.row l) = chain (v.row 0)) → (allPieces v.rows).length ≤ 64 →
      (∃ row, exec (.vcred g c d rnd a op) s = .next (s.wv 14 d v.tag (List.replicate 16 row)) ∧ chain row = chain (v.row 0) ∧
        ∀ j < chain (v.row 0), elemAt row j = reduceTerms v.tag op rnd 0 (v.rows.map fun r => (elemAt r j, 1))) ∧
      ∃ rows, exec (.vcscan g c d rnd a op) s = .next (s.wv 14 d v.tag rows) ∧ ∀ l < 16, chain (rows.getD l []) = chain (v.row 0) ∧
        ∀ j < chain (v.row 0), elemAt (rows.getD l []) j =
          reduceTerms v.tag op rnd 0 ((v.rows.take (l + 1)).map fun r => (elemAt r j, 1)))

/-- 10 R265 to R267, 06 R146, 23 R476: VPOPQ takes the oldest slab, or raises AC-02 where it holds poison; without a slab it blocks while a
drain is pending, until there is one beyond those its bundle has popped, and else raises QU-02; VLDL and VSTL move words between rows and
the context's part of their lane slices, over lines with no recorded error. -/
def Obligations.QueueAndLaneResults : Prop :=
  ∀ (s : State) (g tag d a b q : Nat), s.canRun .vector g → s.readable b →
    let v := s.ctx.vAt a
    let w := s.ctx.vAt b
    let n := (s.xval b).toNat
    let core := s.ctx.core
    let slabs := ((s.coreAt core).arr.queues.getD q .empty).slabs
    (∀ sl rest, slabs = sl :: rest → sl.bad = true → exec (.vpopq g d q) s = .next (s.stopAt (.fault { cls := .AC, num := 2 }))) ∧
    (∀ sl rest, slabs = sl :: rest → sl.bad = false → ∃ t : State, exec (.vpopq g d q) s = .next (t.wv 4 d (widenTag sl.fmt)
        (rows16.map fun l => if l < sl.nr then runsOf ((sl.vals.getD l []).map (widen sl.fmt)) else [])) ∧
      t.ctx = s.ctx ∧ t.mem = s.mem ∧ (q < (s.coreAt core).arr.queues.length →
        ((t.coreAt core).arr.queues.getD q .empty).slabs = rest)) ∧
    (slabs = [] → s.draining core q = true → exec (.vpopq g d q) s =
      .next (s.stopAt (.block (.pop q (s.popped q + 1))))) ∧
    (slabs = [] → s.draining core q = false → exec (.vpopq g d q) s = .next (s.stopAt (.fault { cls := .QU, num := 2 }))) ∧
    (s.sound = true → v.tag.isInt = true → 1 ≤ n →
      (∀ l < 16, chain (v.row l) ≠ 0 → (elemAt (v.row l) 0).toNat % 4 = 0 ∧ (elemAt (v.row l) 0).toNat + 4 * n ≤ s.ctx.sliceSize) →
      (∀ l < 16, (runsOf (readWords s.mem (laneAddr core l (s.ctx.sliceBase + (elemAt (v.row l) 0).toNat)) n)).length ≤ 64) →
      exec (.vldl g tag d a b) s = .next (s.wv 6 d (tagField tag) (rows16.map fun l => if chain (v.row l) = 0 then [] else
        runsOf (readWords s.mem (laneAddr core l (s.ctx.sliceBase + (elemAt (v.row l) 0).toNat)) n)))) ∧
    (s.sound = true → (∀ l < 16, chain (v.row l) ≠ 0 → chain (w.row l) ≠ 0 ∧ (elemAt (w.row l) 0).toNat % 4 = 0 ∧
        (elemAt (w.row l) 0).toNat + 4 * chain (v.row l) ≤ s.ctx.sliceSize) →
      ∃ t, exec (.vstl g a b) s = .next t ∧ t.ctx = s.ctx ∧ t.mem = rows16.foldl (fun m l => if chain (v.row l) = 0 then m else
        memWrite m (laneAddr core l (s.ctx.sliceBase + (elemAt (w.row l) 0).toNat))
          ((expandRow (v.row l)).flatMap fun x => natLe 4 x.toNat)) s.mem)

namespace Sys2Proof.Machine

/-- `t` is `s`, memory and seals apart, but for which operations come before what the context and its team do next (07 R171, R183). -/
def State.onlyOrders (s t : State) : Prop :=
  t.me = s.me ∧ t.cores = s.cores ∧ t.ops = s.ops ∧ t.bun = s.bun ∧ t.ctx = { s.ctx with before := t.ctx.before } ∧
    (∀ cid, cid ≠ s.me → t.ctxAt cid = s.ctxAt cid) ∧ t.task = { s.task with before := t.task.before } ∧
    ∀ tid, tid ≠ s.ctx.tid → t.taskAt tid = s.taskAt tid

/-- x to the power t by repeated squaring over 16 bits, each product rounded (10 R275). -/
def roundedPower (x : Num) (t : Nat) : Num :=
  (List.range 16).reverse.foldl (fun p i => let q := rne32 (p.mul p)
    if t.testBit i then rne32 (q.mul x) else q) (Num.ofNat 1)

end Sys2Proof.Machine

/-- 10 R273 to R276: VOPT updates one 16-byte record for each gradient element in core scratch by the update of R275, from the block at
Xh, each operation rounded once to nearest even, and writes nothing else; the record's bytes are those of 02 R66. With NFSKIP a gradient
that is not finite leaves its record. WORK is rounded under RND; under RSTO, with channel C live, each record updated draws 16 bits in
ascending order, the low half of a noise word first; the noise is a free value (log entry 7). -/
def Obligations.OptimiserUpdate : Prop :=
  ∀ (s : State) (g r rnd gr h : Nat), s.canRun .vector g → s.readable r → s.readable h → s.sound = true → s.memCanonical →
    let v := s.ctx.vAt gr
    let gs := (v.rows.flatMap expandRow).map fun x => fp32.decode x.toNat
    let n := gs.length
    let reg := s.scratchOf s.ctx.tid s.ctx.core
    let ro := (s.xval r).toNat
    let ho := (s.xval h).toNat
    let hy (k : Nat) : Machine.Num := fp32.decode (memNat s.mem (reg.base + ho + 4 * k) 4)
    let flags := memNat s.mem (reg.base + ho + 20) 4
    let skips (e : Nat) : Prop := flags % 2 = 1 ∧ ((gs.getD e (Machine.Num.ofNat 0)).isNan || (gs.getD e (Machine.Num.ofNat 0)).isInf) = true
    v.tag = .fp32 → ro % 16 = 0 → ho % 32 = 0 → ho + 32 ≤ reg.size → n = 0 ∨ ro + 16 * n ≤ reg.size →
    flags < 4 → memNat s.mem (reg.base + ho + 24) 8 = 0 →
    s.raceCore [reg.touch ho 32] (if n = 0 then [] else [reg.touch ro (16 * n)]) = .ok () →
    (rnd = 1 → bits s.ctx.rngctl.toNat 0 2 = 0 ∧ 128 ∉ s.ctx.damaged ∧ 129 ∉ s.ctx.damaged) →
    ∃ (t u : State) (nth : Nat → Nat), exec (.vopt g r rnd gr h) s = .next t ∧ u.onlyOrders t ∧
      nth 0 = 0 ∧ (∀ e < n, (skips e → nth (e + 1) = nth e) ∧ (¬skips e → nth (e + 1) = nth e + 1)) ∧
      (rnd ≠ 1 → u = s) ∧ t.freeCtr = u.freeCtr ∧
      (rnd = 1 → u = ({ s with freeCtr := s.freeCtr + (nth n + 1) / 2 } : State).putCtx { s.ctx with
        rngposc := BitVec.ofNat 64 ((s.ctx.rngposc.toNat + (nth n + 1) / 2) % 2 ^ 32) }) ∧
      (∀ c, (c < reg.base + ro ∨ reg.base + ro + 16 * n ≤ c) → memGet t.mem c = memGet s.mem c) ∧
      ∀ e < n,
        let a := reg.base + ro + 16 * e
        let old (k : Nat) : Machine.Num := fp32.decode (memNat s.mem (a + 4 * k) 4)
        let one := Machine.Num.ofNat 1
        let x := gs.getD e (Machine.Num.ofNat 0)
        let step := min (memNat s.mem (a + 14) 2 + 1) 65535
        let m := rne32 (((hy 1).mul (old 1)).add (rne32 ((rne32 (one.add (hy 1).neg)).mul x)))
        let v := rne32 (((hy 2).mul (old 2)).add (rne32 ((rne32 (one.add (hy 2).neg)).mul (rne32 (x.mul x)))))
        let mh := if 2 ≤ flags then m else rne32 (m.div (rne32 (one.add (roundedPower (hy 1) step).neg)))
        let vh := if 2 ≤ flags then v else rne32 (v.div (rne32 (one.add (roundedPower (hy 2) step).neg)))
        let d := rne32 (mh.div (rne32 ((rne32 vh.sqrt).add (hy 3))))
        let w := rne32 (((hy 0).neg.mul (rne32 (((hy 4).mul (old 0)).add d))).add (old 0))
        let noise := (Config.noise (s.freeCtr + nth e / 2)).toNat
        let draw := if rnd ≠ 1 then 0 else if nth e % 2 = 0 then noise % 65536 else noise / 65536 % 65536
        (skips e → ∀ k < 16, memGet t.mem (a + k) = memGet s.mem (a + k)) ∧
        (¬skips e → memNat t.mem a 4 = fp32.encode 0 false 0 w % 2 ^ 32 ∧ memNat t.mem (a + 4) 4 = fp32.encode 0 false 0 m % 2 ^ 32 ∧
          memNat t.mem (a + 8) 4 = fp32.encode 0 false 0 v % 2 ^ 32 ∧ memNat t.mem (a + 14) 2 = step ∧
          memNat t.mem (a + 12) 2 = bf16.encode rnd false draw w % 2 ^ 16)

/-! ## Class F (10 R277 to R280) -/

namespace Sys2Proof.Machine

/-- The words of class F with their operands, their latency and their function (10 R279). -/
def functionWord : Instr → Option ((Nat × Nat × Nat × Nat × Nat × Nat) × Nat × (Num → Num))
  | .frcp g c d rnd a sat => some ((g, c, d, rnd, a, sat), 6, fnRcp)
  | .frsq g c d rnd a sat => some ((g, c, d, rnd, a, sat), 6, fnRsq)
  | .fsqrt g c d rnd a sat => some ((g, c, d, rnd, a, sat), 8, Num.sqrt)
  | .fexp g c d rnd a sat => some ((g, c, d, rnd, a, sat), 10, fnExp)
  | .fexp2 g c d rnd a sat => some ((g, c, d, rnd, a, sat), 8, fnExp2)
  | .flog g c d rnd a sat => some ((g, c, d, rnd, a, sat), 10, fnLogWith false)
  | .flog2 g c d rnd a sat => some ((g, c, d, rnd, a, sat), 8, fnLogWith true)
  | .ftanh g c d rnd a sat => some ((g, c, d, rnd, a, sat), 12, fnTanh)
  | .fsig g c d rnd a sat => some ((g, c, d, rnd, a, sat), 12, fnSig)
  | .fsin g c d rnd a sat => some ((g, c, d, rnd, a, sat), 12, fnSin)
  | .fcos g c d rnd a sat => some ((g, c, d, rnd, a, sat), 12, fnCos)
  | _ => none

end Sys2Proof.Machine

/-- 10 R277 to R279: a word of class F writes, for each run of an FP32 operand, a run of the same count with the function's value rounded
once, merged where C is 1; any other tag raises FM-11. 10 R280, 06 R161: with channel C live, FRAND writes n unit runs of fresh noise
words to every row and moves RNGPOSC on by 16 n, where RNGCTL and RNGPOSC have their parity (23 R480); the words are the noise source's, free values of the model (log entry 7). More than 64
raises RN-01. -/
def Obligations.FunctionAndRandomWords : Prop :=
  (∀ (s : State) (i : Instr) (g c d rnd a sat L : Nat) (f : Machine.Num → Machine.Num),
     functionWord i = some ((g, c, d, rnd, a, sat), L, f) → s.canRun .vector g → (s.ctx.vAt a).rows.length = 16 →
     let v := s.ctx.vAt a
     (v.tag = .fp32 → rnd ≠ 1 → exec i s = .next (s.wv L d .fp32 (v.rows.map fun r =>
       (if c = 1 then mergeRuns else id) (r.map fun q => ⟨f32 rnd (sat == 1) 0 (f (fp32.decode q.val.toNat)), q.cnt⟩)))) ∧
     (v.tag ≠ .fp32 → exec i s = .next (s.stopAt (.fault { cls := .FM, num := 11 })))) ∧
  (∀ (s : State) (g d a : Nat), s.canRun .vector g → s.readable a →
     let n := (s.xval a).toNat
     (n ≤ 64 → bits s.ctx.rngctl.toNat 0 2 = 0 → 128 ∉ s.ctx.damaged → 129 ∉ s.ctx.damaged → ∃ t : State, exec (.frand g d a) s = .next (t.wv 6 d .uint32
         (rows16.map fun l => (List.range n).map fun k => ⟨BitVec.ofNat 32 (Config.noise (s.freeCtr + (n * l + k))).toNat, 1⟩)) ∧
       t.freeCtr = s.freeCtr + 16 * n ∧ t.mem = s.mem ∧
       t.ctx = { s.ctx with rngposc := BitVec.ofNat 64 ((s.ctx.rngposc.toNat + 16 * n) % 2 ^ 32) }) ∧
     (64 < n → ∃ f : FaultRec, f.cls = .RN ∧ f.num = 1 ∧ exec (.frand g d a) s = .next (s.stopAt (.fault f))))

/-! ## Classes MA and MB (11 R283 to R300; 10 R268 to R272; 12 R311) -/

namespace Sys2Proof.Machine

/-- The loads with their guards and operands: whether on cluster memory, whether sign-extended, their bytes (11 R284). -/
def loadWord : Instr → Option (Nat × Nat × Nat × Imm × Bool × Bool × Nat)
  | .ldb g d a m => some (g, d, a, m, false, true, 1)
  | .ldbu g d a m => some (g, d, a, m, false, false, 1)
  | .ldh g d a m => some (g, d, a, m, false, true, 2)
  | .ldhu g d a m => some (g, d, a, m, false, false, 2)
  | .ldw g d a m => some (g, d, a, m, false, true, 4)
  | .ldwu g d a m => some (g, d, a, m, false, false, 4)
  | .ldd g d a m => some (g, d, a, m, false, false, 8)
  | .lda g d a m => some (g, d, a, m, false, false, 8)
  | .ldbCm g d a m => some (g, d, a, m, true, true, 1)
  | .ldbuCm g d a m => some (g, d, a, m, true, false, 1)
  | .ldhCm g d a m => some (g, d, a, m, true, true, 2)
  | .ldhuCm g d a m => some (g, d, a, m, true, false, 2)
  | .ldwCm g d a m => some (g, d, a, m, true, true, 4)
  | .ldwuCm g d a m => some (g, d, a, m, true, false, 4)
  | .lddCm g d a m => some (g, d, a, m, true, false, 8)
  | .ldaCm g d a m => some (g, d, a, m, true, false, 8)
  | _ => none

/-- The stores: guard, source, address, immediate, whether to cluster memory, bytes (11 R285). -/
def storeWord : Instr → Option (Nat × Nat × Nat × Imm × Bool × Nat)
  | .stb g x a m => some (g, x, a, m, false, 1)
  | .sth g x a m => some (g, x, a, m, false, 2)
  | .stw g x a m => some (g, x, a, m, false, 4)
  | .std g x a m => some (g, x, a, m, false, 8)
  | .strl g x a m => some (g, x, a, m, false, 8)
  | .stbCm g x a m => some (g, x, a, m, true, 1)
  | .sthCm g x a m => some (g, x, a, m, true, 2)
  | .stwCm g x a m => some (g, x, a, m, true, 4)
  | .stdCm g x a m => some (g, x, a, m, true, 8)
  | .strlCm g x a m => some (g, x, a, m, true, 8)
  | _ => none

/-- The atomics: guard, Xd, address, operand, size, whether on cluster memory, whether the old value is zero-extended, and what memory
receives from the size, the old value, the operand and Xd (11 R288). -/
def atomicWord : Instr → Option (Nat × Nat × Nat × Nat × Option Nat × Bool × Bool × (Nat → Nat → Nat → Nat → Nat))
  | .aadd g d a b z => some (g, d, a, b, z, false, false, fun _ m v _ => m + v)
  | .aswp g d a b z => some (g, d, a, b, z, false, false, fun _ _ v _ => v)
  | .acas g d a b z => some (g, d, a, b, z, false, false, fun _ m v e => if m = e then v else m)
  | .amin g d a b z => some (g, d, a, b, z, false, false, fun n m v _ => if codeInt (8 * n) m ≤ codeInt (8 * n) v then m else v)
  | .amax g d a b z => some (g, d, a, b, z, false, false, fun n m v _ => if codeInt (8 * n) m ≤ codeInt (8 * n) v then v else m)
  | .aminu g d a b z => some (g, d, a, b, z, false, true, fun _ m v _ => min m v)
  | .amaxu g d a b z => some (g, d, a, b, z, false, true, fun _ m v _ => max m v)
  | .aaddCm g d a b z => some (g, d, a, b, z, true, false, fun _ m v _ => m + v)
  | .aswpCm g d a b z => some (g, d, a, b, z, true, false, fun _ _ v _ => v)
  | .acasCm g d a b z => some (g, d, a, b, z, true, false, fun _ m v e => if m = e then v else m)
  | .aminCm g d a b z => some (g, d, a, b, z, true, false, fun n m v _ => if codeInt (8 * n) m ≤ codeInt (8 * n) v then m else v)
  | .amaxCm g d a b z => some (g, d, a, b, z, true, false, fun n m v _ => if codeInt (8 * n) m ≤ codeInt (8 * n) v then v else m)
  | .aminuCm g d a b z => some (g, d, a, b, z, true, true, fun _ m v _ => min m v)
  | .amaxuCm g d a b z => some (g, d, a, b, z, true, true, fun _ m v _ => max m v)
  | _ => none

/-- The counter-cell words: guard, Xd, cell, operand (that of CLD is its cell), scope, ORD, ORDER, and the action from the values of the
operand and of Xd (11 R291). -/
def counterWord : Instr → Option (Nat × Nat × Nat × Nat × Nat × Nat × Nat × (Word → Word → CellAct))
  | .cadd g d a b sc od oo => some (g, d, a, b, sc, od, oo, fun v _ => .add v)
  | .cswp g d a b sc od oo => some (g, d, a, b, sc, od, oo, fun v _ => .swap v)
  | .ccas g d a b sc od oo => some (g, d, a, b, sc, od, oo, fun v e => .cas e v)
  | .cmin g d a b sc od oo => some (g, d, a, b, sc, od, oo, fun v _ => .min v)
  | .cmax g d a b sc od oo => some (g, d, a, b, sc, od, oo, fun v _ => .max v)
  | .cld g d a sc od oo => some (g, d, a, a, sc, od, oo, fun _ _ => .load)
  | _ => none

end Sys2Proof.Machine

/-- 11 R283, R284, 07 R171: a load whose address is aligned and inside the slot's region, over lines without a recorded error and without a pending
write mark, answers the bytes there, extended, at latency 3 in MA and 9 in MB, and takes its place in the commit order, which changes
nothing else; a misaligned address raises FM-08, else one outside the region LS-03. -/
def Obligations.LoadResults : Prop :=
  (∀ s : State, s.onlyOrders s.commitOrder ∧ s.commitOrder.mem = s.mem) ∧
  ∀ (s : State) (i : Instr) (g d a n : Nat) (m : Imm) (mb signed : Bool), loadWord i = some (g, d, a, m, mb, signed, n) →
    s.canRun (slotKind mb) g → s.readable a →
    let reg := s.slotRegion mb
    let p := (s.xval a + m.value 6 * BitVec.ofNat 64 n).toInt
    (∀ o : Nat, p = o → o % n = 0 → o + n ≤ reg.size → s.sound = true →
      s.raceCore [⟨reg.space, o / 64, (o + n - 1) / 64, 0⟩] [] = .ok () →
      exec i s = .next (s.wx (if mb then 9 else 3) d
        (if signed then BitVec.ofInt 64 (codeInt (8 * n) (memNat s.mem (reg.base + o) n))
         else BitVec.ofNat 64 (memNat s.mem (reg.base + o) n))).commitOrder) ∧
    (p % n ≠ 0 → exec i s = .next (s.stopAt (.fault { cls := .FM, num := 8 }))) ∧
    (p % n = 0 → p < 0 ∨ (reg.size : Int) < p + n → exec i s = .next (s.stopAt (.fault { cls := .LS, num := 3 })))

/-- 11 R283, R285: a store to an aligned address inside the region with no pending mark writes the low bytes of Xs there at its commit,
lowest byte first (00 R5), and changes no other byte, over lines without a recorded error, and no register; a misaligned address raises FM-08, else one outside LS-03. -/
def Obligations.StoreResults : Prop :=
  ∀ (s : State) (i : Instr) (g x a n : Nat) (m : Imm) (mb : Bool), storeWord i = some (g, x, a, m, mb, n) →
    s.canRun (slotKind mb) g → s.readable a → s.readable x → s.memCanonical →
    let reg := s.slotRegion mb
    let p := (s.xval a + m.value 6 * BitVec.ofNat 64 n).toInt
    (∀ o : Nat, p = o → o % n = 0 → o + n ≤ reg.size → s.raceCore [] [⟨reg.space, o / 64, (o + n - 1) / 64, 0⟩] = .ok () →
      ∃ t, exec i s = .next t ∧ s.onlyOrders t ∧
        (∀ k < n, memGet t.mem (reg.base + o + k) = BitVec.ofNat 8 ((s.xval x).toNat / 256 ^ k)) ∧
        (s.sound = true → ∀ c, (c < reg.base + o ∨ reg.base + o + n ≤ c) → memGet t.mem c = memGet s.mem c)) ∧
    (p % n ≠ 0 → exec i s = .next (s.stopAt (.fault { cls := .FM, num := 8 }))) ∧
    (p % n = 0 → p < 0 ∨ (reg.size : Int) < p + n → exec i s = .next (s.stopAt (.fault { cls := .LS, num := 3 })))

/-- 11 R287, R288: an atomic reads the old value, gives memory the value its row of the table has, and writes the old value to Xd,
zero-extended for the unsigned forms and else sign-extended; no other byte changes. Only ACAS reads Xd. -/
def Obligations.AtomicResults : Prop :=
  ∀ (s : State) (i : Instr) (g d a b o : Nat) (z : Option Nat) (mb uns : Bool) (f : Nat → Nat → Nat → Nat → Nat),
    atomicWord i = some (g, d, a, b, z, mb, uns, f) → s.canRun (slotKind mb) g → s.readable a → s.readable b →
    (i = .acas g d a b z ∨ i = .acasCm g d a b z → s.readable d) → s.sound = true → s.memCanonical →
    let n := if z = some 1 then 4 else 8
    let reg := s.slotRegion mb
    (s.xval a).toInt = o → o % n = 0 → o + n ≤ reg.size → s.raceCore [] [⟨reg.space, o / 64, (o + n - 1) / 64, 0⟩] = .ok () →
    let old := memNat s.mem (reg.base + o) n
    ∃ t : State, exec i s = .next (t.wx (if mb then 9 else 3) d
        (if uns then BitVec.ofNat 64 old else BitVec.ofInt 64 (codeInt (8 * n) old))).commitOrder ∧
      t.ctx = s.ctx ∧ t.tasks = s.tasks ∧ t.ops = s.ops ∧
      memNat t.mem (reg.base + o) n =
        f n old ((s.xval b).toNat % 2 ^ (8 * n)) ((s.xval d).toNat % 2 ^ (8 * n)) % 2 ^ (8 * n) ∧
      ∀ c, (c < reg.base + o ∨ reg.base + o + n ≤ c) → memGet t.mem c = memGet s.mem c

/-- 11 R289 to R292, 07 R183, R186: a counter word on a cell that its paddock has, with scope and order as encoded, puts one operation under
way that bears no tag, and Xd awaits its reply at latency 32; memory is unchanged at issue. The operation comes before what the context
does next; after one with release order the context's later writes wait for what came before it. An operand with reserved bits, or remote at a narrow
scope, raises FM-17, and a cell without a counter frame LS-08. -/
def Obligations.CounterResults : Prop :=
  ∀ (s : State) (i : Instr) (g d a b sc od oo : Nat) (f : Word → Word → CellAct), counterWord i = some (g, d, a, b, sc, od, oo, f) →
    s.canRun .cell g → s.readable a → s.readable b → (i = .ccas g d a b sc od oo → s.readable d) →
    let v := (s.xval a).toNat
    (v < 65536 → (s.cellAddr s.task.p v).isSome = true → ∃ t : State,
      exec i s = .next (t.post 32 (.xReply (physX s.ctx.rrb d) s.nextOp)) ∧ t.mem = s.mem ∧ t.tasks = s.tasks ∧
      t.ctx = { s.ctx with before := t.ctx.before, behind := t.ctx.behind } ∧ s.nextOp ∈ t.ctx.before ∧
      (od ≠ 1 ∨ oo = 0 → t.ctx.behind = s.ctx.behind) ∧
      (od = 1 → oo ≠ 0 → ∀ k ∈ t.unseen s.ctx.before, k ∈ t.ctx.behind) ∧
      t.nextOp = s.nextOp + 1 ∧ t.ops = s.ops ++ [⟨s.nextOp, s.ctx.tid, s.me, s.ctx.core, none, s.bun.addr.toNat,
        .counter ⟨none, v, f (s.xval b) (s.xval d), sc, if od = 1 then some oo else none, false, none⟩, false, false, [],
        s.undone s.ctx.before, s.undone s.ctx.behind⟩]) ∧
    (2 ^ 26 ≤ v ∨ (v / 2 ^ 25 = 0 ∧ 65536 ≤ v) ∨ (v / 2 ^ 25 = 1 ∧ sc < 5) →
      exec i s = .next (s.stopAt (.fault { cls := .FM, num := 17 }))) ∧
    (v < 65536 → s.cellAddr s.task.p v = none → exec i s = .next (s.stopAt (.fault { cls := .LS, num := 8 })))

/-! ## Queue stores, run-register images, tile images (10 R268 to R272; 11 R298 to R300; 12 R311) -/

namespace Sys2Proof.Machine

/-- QPOPS in either slot: guard, queue, address, pitch, the SKIP predicate, whether to cluster memory. -/
def queueStoreWord : Instr → Option (Nat × Nat × Nat × Nat × Option Nat × Bool)
  | .qpops g q a b k => some (g, q, a, b, k.getD none, false)
  | .qpopsCm g q a b k => some (g, q, a, b, k.getD none, true)
  | _ => none

/-- The words that move a whole tile between its home and a slot's region: guard, tile, address, ORDER, whether in cluster memory,
whether the tile is written. -/
def tileImageWord : Instr → Option (Nat × Nat × Nat × Nat × Bool × Bool)
  | .tlds g t a o => some (g, t, a, o, false, true)
  | .tsts g t a o => some (g, t, a, o, false, false)
  | .tldsCm g t a => some (g, t, a, 0, true, true)
  | .tstsCm g t a => some (g, t, a, 0, true, false)
  | _ => none

/-- A word may name the tiles `ns`: all below the task's tile count, none awaiting an engine's write (12 R304; 04 R113). -/
def State.tilesFree (s : State) (ns : List Nat) : Prop :=
  (∀ n ∈ ns, n < s.task.tiles ∧ s.tileWriters n = []) ∧ s.ctx.tileStall = []

/-- Tile `t` holds a full, valid type that resolves to `r` and fits its home (04 R101, R102, R105); `comp` admits COMPRESSED. -/
structure State.tileReady (s : State) (t : Nat) (comp : Bool) (r : Word) : Prop where
  full : s.ctx.twAt t ≠ 0
  valid : typeFault comp (s.ctx.twAt t) = none
  resolved : s.resolveType (s.ctx.twAt t) = r
  bound : openExt r = none
  fits : (layOf r).size ≤ 32768

end Sys2Proof.Machine

/-- 11 R298 to R300, 06 R145, R146: QPOPS takes the oldest slab and writes its rows, packed (03 R68), at `base + l · pitch`, or, where the
SKIP predicate holds, writes none, or raises AC-02 where the slab holds poison; without a slab it blocks while a drain is pending, else
QU-02. No other byte changes, over lines without a recorded error. The order of its checks is read by inference (log entry 11). -/
def Obligations.QueueStoreResults : Prop :=
  ∀ (s : State) (i : Instr) (g q a b : Nat) (skip : Option Nat) (mb : Bool), queueStoreWord i = some (g, q, a, b, skip, mb) →
    s.canRun (slotKindMain mb) g → s.readable a → s.readable b → s.memCanonical → s.sound = true →
    let o := (s.xval a).toNat
    let pitch := (s.xval b).toNat
    let reg := s.slotRegion mb
    let slabs := ((s.coreAt s.ctx.core).arr.queues.getD q .empty).slabs
    (o % 64 ≠ 0 ∨ pitch % 64 ≠ 0 → exec i s = .next (s.stopAt (.fault { cls := .FM, num := 8 }))) ∧
    (o % 64 = 0 → pitch % 64 = 0 →
      (slabs = [] → s.draining s.ctx.core q = true →
        exec i s = .next (s.stopAt (.block (.pop q (s.popped q + 1))))) ∧
      (slabs = [] → s.draining s.ctx.core q = false → exec i s = .next (s.stopAt (.fault { cls := .QU, num := 2 }))) ∧
      ∀ sl rest, slabs = sl :: rest →
        let sb := storageBits sl.fmt
        let n := (sl.nc * sb + 7) / 8
        ((∃ l, l < sl.nr ∧ reg.size < o + l * pitch + n) → exec i s = .next (s.stopAt (.fault { cls := .LS, num := 3 }))) ∧
        ((∀ l, l < sl.nr → o + l * pitch + n ≤ reg.size) →
          s.raceCore [] ((List.range sl.nr).map fun l => reg.touch (o + l * pitch) n) = .ok () →
          (sl.bad = true → exec i s = .next (s.stopAt (.fault { cls := .AC, num := 2 }))) ∧ (sl.bad = false →
          q < (s.coreAt s.ctx.core).arr.queues.length → sl.vals.length = sl.nr → (∀ r ∈ sl.vals, r.length = sl.nc) → 0 < n → n ≤ pitch →
          ∃ t : State, exec i s = .next t ∧ t.ctx = { s.ctx with before := t.ctx.before } ∧ t.bun.stop = none ∧ t.ops = s.ops ∧
            ((t.coreAt s.ctx.core).arr.queues.getD q .empty).slabs = rest ∧
            ((∃ k, skip = some k ∧ s.ctx.pAt k = true) → t.mem = s.mem) ∧
            ((∀ k, skip = some k → s.ctx.pAt k = false) →
              (∀ l, l < sl.nr → memRead t.mem (reg.base + o + l * pitch) n =
                packRow sb (memGet s.mem (reg.base + o + l * pitch + n - 1)).toNat (sl.vals.getD l [])) ∧
              ∀ c, (∀ l, l < sl.nr → c < reg.base + o + l * pitch ∨ reg.base + o + l * pitch + n ≤ c) →
                memGet t.mem c = memGet s.mem c))))

namespace Sys2Proof.Machine

/-- The places of sixteen rows whose byte lengths are `len l`, a pitch apart from `o`, inside a region (10 R269, R270). -/
def rowsInside (reg : Region) (o pitch : Nat) (len : Nat → Nat) : Prop := ∀ l < 16, len l ≠ 0 → o + l * pitch + len l ≤ reg.size

/-- The touches of those rows. -/
def rowTouches (reg : Region) (o pitch : Nat) (len : Nat → Nat) : List Touch :=
  (rows16.filter fun l => len l != 0).map fun l => reg.touch (o + l * pitch) (len l)

end Sys2Proof.Machine

/-- 10 R268 to R271: VLDR loads n elements to each of sixteen rows, widened and compressed to runs, at latency 6; VSTX writes every row
expanded and converted. -/
def Obligations.DenseRowResults : Prop :=
  ∀ (s : State) (g d a b src fmt rnd sat pitch : Nat), s.canRun .maMain g → s.readable a → s.readable b → s.sound = true →
    s.memCanonical → denseFmt fmt = true →
    let sz := storageBits fmt / 8
    let o := (s.xval a).toNat
    let n := (s.xval b).toNat
    let reg := s.slotRegion false
    let v := s.ctx.vAt src
    let row (l : Nat) : List Run := runsOf ((readElems s.mem (reg.base + o + l * pitch) sz n).map (widen fmt))
    o % sz = 0 → pitch % sz = 0 →
    (rowsInside reg o pitch (fun _ => n * sz) → n ≤ 4096 → (∀ l < 16, (row l).length ≤ 64) →
      s.raceCore (rowTouches reg o pitch fun _ => n * sz) [] = .ok () →
      exec (.vldr g d a b fmt pitch) s =
        .next (s.wv 6 d (widenTag fmt) (rows16.map fun l => if n = 0 then [] else row l)).commitOrder) ∧
    (rowsInside reg o pitch (fun l => chain (v.row l) * sz) → rnd ≠ 1 → (∀ l < 16, chain (v.row l) * sz ≤ pitch) →
      s.raceCore [] (rowTouches reg o pitch fun l => chain (v.row l) * sz) = .ok () →
      (∀ l < 16, (expandRow (v.row l)).length = chain (v.row l)) →
      ∃ t, exec (.vstx g a src fmt rnd sat pitch) s = .next t ∧ s.onlyOrders t ∧
        (∀ l < 16, memRead t.mem (reg.base + o + l * pitch) (chain (v.row l) * sz) =
          (expandRow (v.row l)).flatMap fun e => natLe sz (encodeFmt fmt rnd (sat == 1) 0 (v.tag.num e))) ∧
        ∀ c, (∀ l < 16, c < reg.base + o + l * pitch ∨ reg.base + o + l * pitch + chain (v.row l) * sz ≤ c) →
          memGet t.mem c = memGet s.mem c)

/-- 12 R311: TLDS copies an image from the slot's region to the home of a tile, TSTS a tile's image to the region, byte for byte and over
the type's storage alone; a misaligned address raises FM-08, an ORDER that the row does not allow FM-09, an area outside LS-03. 05 R118 to
R120, R136, 10 R272: VPACK writes the 6,272-byte home image of a register and no other byte; VUNPACK of an image whose rows and register
word pass R136 writes the register it stands for, and of one with a bad row raises RN-04. What makes a register word bad is read by
inference (log entry 33). -/
def Obligations.ImageWords : Prop :=
  (∀ (s : State) (i : Instr) (g t a order : Nat) (mb load : Bool) (r : Word), tileImageWord i = some (g, t, a, order, mb, load) →
     s.canRun (slotKindMain mb) g → s.readable a → s.tilesFree [t] → s.tileReady t true r → s.memCanonical → s.sound = true →
     let o := (s.xval a).toNat
     let reg := s.slotRegion mb
     let n := (layOf r).size
     let home := tileAddr s.me t 0
     let src := if load then reg.base + o else home
     let dst := if load then home else reg.base + o
     let area := [reg.touch o n]
     let tile := [(layOf r).touch s.me t]
     let wide := order = 0 ∨ (layOf r).ext.getLastD 0 * storageBits (layOf r).fmt % 512 = 0
     (o % 64 ≠ 0 → exec i s = .next (s.stopAt (.fault { cls := .FM, num := 8 }))) ∧
     (o % 64 = 0 → ¬ wide → exec i s = .next (s.stopAt (.fault { cls := .FM, num := 9 }))) ∧
     (o % 64 = 0 → wide → reg.size < o + n → exec i s = .next (s.stopAt (.fault { cls := .LS, num := 3 }))) ∧
     (o % 64 = 0 → wide → o + n ≤ reg.size →
       s.raceCore (if load then area else tile) (if load then tile else area) = .ok () →
       ∃ u : State, exec i s = .next (u.writeBack t).commitOrder ∧ u.ctx = s.ctx ∧ u.ops = s.ops ∧ memRead u.mem dst n = memRead s.mem src n ∧
         ∀ c, (c < dst ∨ dst + n ≤ c) → memGet u.mem c = memGet s.mem c)) ∧
  (∀ (s : State) (g d a src o : Nat), s.canRun .maMain g → s.readable a → s.sound = true → s.memCanonical → (s.xval a).toNat = o →
     let reg := s.slotRegion false
     let p := reg.base + o
     (o % 64 ≠ 0 → exec (.vpack g a src) s = .next (s.stopAt (.fault { cls := .FM, num := 8 })) ∧
       exec (.vunpack g d a) s = .next (s.stopAt (.fault { cls := .FM, num := 8 }))) ∧
     (o % 64 = 0 → reg.size < o + 6272 → exec (.vpack g a src) s = .next (s.stopAt (.fault { cls := .LS, num := 3 })) ∧
       exec (.vunpack g d a) s = .next (s.stopAt (.fault { cls := .LS, num := 3 }))) ∧
     (o % 64 = 0 → o + 6272 ≤ reg.size →
       (s.raceCore [] [reg.touch o 6272] = .ok () → (s.ctx.vAt src).wf → ∃ t, exec (.vpack g a src) s = .next t ∧ s.onlyOrders t ∧
         memRead t.mem p 6272 = packImage (s.ctx.vAt src) ∧ ∀ c, (c < p ∨ p + 6272 ≤ c) → memGet t.mem c = memGet s.mem c) ∧
       (s.raceCore [reg.touch o 6272] [] = .ok () →
         (∀ tag, (∀ l < 16, (unpackRow s.mem p l).isSome = true) → tagOfCode (memNat s.mem (p + 6208) 8) = some tag →
           (∀ k < 56, memGet s.mem (p + 6216 + k) = 0) →
           exec (.vunpack g d a) s = .next (s.wv 6 d tag (rows16.map fun l => (unpackRow s.mem p l).getD [])).commitOrder) ∧
         ((∃ l < 16, unpackRow s.mem p l = none) →
           ∃ f : FaultRec, f.cls = .RN ∧ f.num = 4 ∧ exec (.vunpack g d a) s = .next (s.stopAt (.fault f))))))

/-! ## Class E: types, dimensions, tile data (12 R306 to R310) -/

/-- 12 R310: TZERO sets a tile's elements and scales to 0 and writes no byte outside its storage; TMOV copies a tile with its type; a tile
copied to itself is left alone; a tile at or above the tile count raises FM-07 (12 R304). -/
def Obligations.TileDataWords : Prop :=
  ∀ (s : State) (g d a : Nat) (r : Word), s.canRun .eMain g → s.memCanonical → s.sound = true →
    let l := layOf r
    let from_ := tileAddr s.me a 0
    let to_ := tileAddr s.me d 0
    (s.task.tiles ≤ a → exec (.tzero g a) s = .next (s.stopAt (.fault { cls := .FM, num := 7 }))) ∧
    (s.tilesFree [d, a] → s.tileReady a false r →
      (s.raceCore [] [l.touch s.me a] = .ok () → ∃ u : State, exec (.tzero g a) s = .next (u.writeBack a) ∧ u.ctx = s.ctx ∧
        (∀ k < l.earea, memGet u.mem (from_ + k) = 0) ∧
        (l.geom ≠ 0 → ∀ k < l.blocks, memGet u.mem (from_ + l.scaleAt + k) = 0) ∧
        ∀ c, (c < from_ ∨ from_ + l.size ≤ c) → memGet u.mem c = memGet s.mem c) ∧
      (d = a → exec (.tmov g d a) s = .next s) ∧
      (d ≠ a → s.raceCore [l.touch s.me a] [l.touch s.me d] = .ok () →
        ∃ u : State, exec (.tmov g d a) s = .next ((u.writeBack a).post 1 (.tw d r)) ∧ u.ctx = s.ctx ∧
          memRead u.mem to_ l.size = memRead s.mem from_ l.size ∧
          ∀ c, (c < to_ ∨ to_ + l.size ≤ c) → memGet u.mem c = memGet s.mem c))

/-! ## Class E: operations that a word forks (12 R303 to R305, R312 to R325) -/

namespace Sys2Proof.Machine

/-- The operation that the word in issue forks under `tag` (07 R174; 02 R63). It comes after what its context comes after and what the
team's accesses before it in the commit order come after (07 R183). -/
def State.newOp (s : State) (tag : Nat) (k : OpKind) (marks : List Mark) : Op :=
  ⟨s.nextOp, s.ctx.tid, s.me, s.ctx.core, some tag, s.bun.addr.toNat, k, false, false, marks,
    union (s.undone s.task.before) (s.undone s.ctx.before), s.undone s.ctx.behind⟩

/-- A tag's count can rise by `n` (02 R63). -/
def State.tagRoom (s : State) (tag n : Nat) : Prop := s.task.tagCount s.ctx.core tag + n ≤ 16777215

/-- `t` is `s` with operation `o` under way as the last, its tag's count one higher, memory and every other task as before. -/
def State.forked (s t : State) (tag : Nat) (o : Op) : Prop :=
  t.ops = s.ops ++ [o] ∧ t.nextOp = s.nextOp + 1 ∧ t.mem = s.mem ∧ t.me = s.me ∧
    t.tasks = amSet s.tasks s.ctx.tid
      { s.task with tags := amSet s.task.tags (s.ctx.core * 64 + tag) (s.task.tagCount s.ctx.core tag + 1) }

/-- `d` draws of channel E can be had: none, or live noise (06 R161), with the parity of RNGCTL and RNGPOSE right (23 R480). -/
def State.drawsLive (s : State) (d : Nat) : Prop :=
  d = 0 ∨ bits s.ctx.rngctl.toNat 0 2 = 0 ∧ 128 ∉ s.ctx.damaged ∧ 130 ∉ s.ctx.damaged

/-- The draws: free values of the model (log entry 7). -/
def State.drawsOfE (s : State) (d : Nat) : List Nat :=
  drawsOf ((List.range ((d + 1) / 2)).map fun k => (Config.noise (s.freeCtr + k)).toNat) d

/-- The context after them: RNGPOSE moved on by one word for two draws. -/
def State.drawnE (s : State) (d : Nat) : Ctx :=
  { s.ctx with rngpose := BitVec.ofNat 64 ((s.ctx.rngpose.toNat + (d + 1) / 2) % 2 ^ 32) }

/-- A resolved type word written back where it differs (04 R105). -/
def State.backTo (s : State) (n : Nat) (c : Ctx) : Ctx :=
  if s.resolveType (s.ctx.twAt n) = s.ctx.twAt n then c else c.post 1 (.tw n (s.resolveType (s.ctx.twAt n)))

/-- A tile-engine word as its rule reads it: guard, tag, destination, source, form, the destination's type, the second destination with
its type, the draws (12 R312 to R316). `w` is the source's resolved type, `x` the value of Xb. -/
def tileForm (w x : Word) : Instr → Option (Nat × Nat × Nat × Nat × TileForm × Word × Option (Nat × Word) × Nat)
  | .treshp g d a _ tag =>
    some (g, tag, d, a, .reshape, mkType (twRank x) (twFmt w) 0 0 (twFlags w &&& 0xF7) ((List.range (twRank x)).map (twExt x)), none, 0)
  | .ttrans g d a tag =>
    some (g, tag, d, a, .transpose, mkType (twRank w) (twFmt w) 0 (swapGeom (twGeom w)) (twFlags w &&& 0xF7) (swapLast (twExts w)),
      none, 0)
  | .tcast g d a tag fmt => some (g, tag, d, a, .cast, mkType (twRank w) fmt 0 0 (twFlags w &&& 0xF7) (twExts w), none, 0)
  | .tcvt g d a tag fmt rnd sat =>
    some (g, tag, d, a, .convert rnd sat, mkType (twRank w) fmt 0 0 (keepFlags w) (twExts w), none,
      if rnd = 1 then listProd (twExts w) else 0)
  | .tqnt g d a tag fmt geom rnd =>
    some (g, tag, d, a, .quantise rnd, mkType (twRank w) fmt 0 geom (keepFlags w) (twExts w), none,
      if rnd = 1 then listProd (twExts w) else 0)
  | .tdqnt g d a tag fmt rnd sat =>
    some (g, tag, d, a, .dequantise rnd sat, mkType (twRank w) fmt 0 0 (keepFlags w) (twExts w), none,
      if rnd = 1 then listProd (twExts w) else 0)
  | .tcmpr g d a e tag =>
    some (g, tag, d, a, .prune e, mkType 2 (twFmt w) 0 (twGeom w) (keepFlags w + 16) [twExt w 0, twExt w 1 / 2],
      some (e, mkType 2 0x10 0 0 0 [twExt w 0, twExt w 1 / 8]), 0)
  | _ => none

/-- What the rule of the form asks of the source's resolved type `w`, of the value `x` of Xb and of the operands (12 R312 to R316). -/
def tileRule (w x : Word) : Instr → Prop
  | .treshp _ d a _ _ => bits x.toNat 40 21 = 0 ∧ twRank x ≠ 0 ∧ twRank x ≤ 4 ∧ (∀ k < twRank x, 1 ≤ twExt x k ∧ twExt x k ≤ 511) ∧
      (∀ k < 4, twRank x ≤ k → twExt x k = 0) ∧ listProd ((List.range (twRank x)).map (twExt x)) = listProd (twExts w) ∧ twGeom w = 0 ∧
      d ≠ a
  | .ttrans _ d a _ => 2 ≤ twRank w ∧ d ≠ a
  | .tcast _ d a _ fmt => castOk w fmt = true ∧ d ≠ a
  | .tcvt _ _ _ _ fmt _ _ => twFmt w ≤ 0x0E ∧ fmt ≤ 0x0E ∧ twGeom w = 0
  | .tqnt _ _ _ _ fmt geom _ => isFloat (twFmt w) = true ∧ scalable fmt = true ∧ twGeom w = 0 ∧ (geom = 1 ∨ geom = 2 ∧ 2 ≤ twRank w)
  | .tdqnt _ _ _ _ fmt _ _ => scalable (twFmt w) = true ∧ isFloat fmt = true ∧ twGeom w ≠ 0
  | .tcmpr .. => twRank w = 2 ∧ prunable (twFmt w) = true ∧ twGeom w ≤ 1 ∧ twExt w 1 % 8 = 0 ∧ twExt w 1 ≤ 256
  | _ => False

end Sys2Proof.Machine

/-- 12 R305, R312 to R316: a tile-engine form on a ready source, whose rule holds, forks one operation with its read and write marks and
its tag, writes the destination's type (and the second destination's) at latency 1, and leaves memory as it is; what it writes when it
completes is in EngineSteps. Draws are free values (log entry 7). -/
def Obligations.TileFormsFork : Prop :=
  ∀ (s : State) (i : Instr) (x w twD : Word) (g tag d a n : Nat) (form : TileForm) (e : Option (Nat × Word)),
    tileForm w x i = some (g, tag, d, a, form, twD, e, n) → tileRule w x i →
    (∀ g' d' a' b' tag', i = .treshp g' d' a' b' tag' → s.readable b' ∧ s.xval b' = x) →
    s.canRun .eMain g → s.tileReady a false w → s.tilesFree ([d] ++ (e.toList.map (·.1)) ++ [a]) →
    let wr := (layOf twD).touch s.me d :: (e.toList.map fun q => (layOf q.2).touch s.me q.1)
    let rd := [(layOf w).touch s.me a]
    (layOf twD).size ≤ 32768 → (∀ q ∈ e, (layOf q.2).size ≤ 32768) → openExt twD = none → s.raceEngine rd wr = .ok () →
    s.tagRoom tag 1 → s.placesTaken s.ctx.core < copyPlacesOf s.ctx.core → s.drawsLive n →
    ∃ t : State, exec i s = .next t ∧
      s.forked t tag (s.newOp tag (.tile ⟨form, d, a, twD, w, (e.map (·.2)).getD 0, s.drawsOfE n⟩) (rd.map readMark ++ wr.map writeMark)) ∧
      t.ctx = e.toList.foldl (fun c q => c.post 1 (.tw q.1 q.2)) ((s.backTo a (s.drawnE n)).post 1 (.tw d twD))

/-- 12 R312 to R314, 04 R110: in place, a reshape that keeps the storage, a transpose and a reinterpreting cast write a type word alone.
-/
def Obligations.TileFormsInPlace : Prop :=
  ∀ (s : State) (g d b tag fmt : Nat), s.canRun .eMain g → s.tilesFree [d] →
    let w := s.ctx.twAt d
    let x := s.xval b
    w ≠ 0 → typeFault true w = none →
    (2 ≤ twRank w →
      let n := s.resolveType (mkType (twRank w) (twFmt w) (twLayout w) (swapGeom (twGeom w)) (twFlags w ^^^ 8) (swapLast (twExts w)))
      (openExt n ≠ none ∨ (layOf n).size ≤ 32768) → exec (.ttrans g d d tag) s = .next (s.post 1 (.tw d n))) ∧
    (castOk w fmt = true →
      let n := s.resolveType (mkType (twRank w) fmt (twLayout w) 0 (twFlags w) (twExts w))
      (openExt n ≠ none ∨ (layOf n).size ≤ 32768) → exec (.tcast g d d tag fmt) s = .next (s.post 1 (.tw d n))) ∧
    (castOk w fmt = false → ∃ f : FaultRec, f.cls = .SH ∧ f.num = 2 ∧ exec (.tcast g d d tag fmt) s = .next (s.stopAt (.fault f))) ∧
    (s.readable b → bits x.toNat 40 21 = 0 → twRank x ≠ 0 →
      let m := mkType (twRank x) (twFmt w) (twLayout w) (twGeom w) (twFlags w) ((List.range 4).map (twExt x))
      let w' := s.resolveType w
      let n := s.resolveType m
      typeFault true m = none → openExt w' = none → openExt n = none → (layOf w').size ≤ 32768 → (layOf n).size ≤ 32768 →
      listProd (twExts w') = listProd (twExts n) →
      (twLayout w' = 0 ∧ twView w' = false ∧ twGeom w' = 0 ∨ (twExts w').reverse.take 2 = (twExts n).reverse.take 2) →
      exec (.treshp g d d b tag) s = .next (s.post 1 (.tw d n)))

/-- 12 R307 to R309: the words on type words and dimension variables, each at latency 1 (a binding pending until the commit), with the
fault of R101 for a bad type word, FM-19 for a value outside 1 to 511, and SH-05 for a DBIND that disagrees with the binding. 12 R325,
R326: MXW writes MX.ROWS alone; MXR and CER read; CEW and CEWI write engine registers 0 to 29, CERST clears them; the others discard
writes. That DBIND takes effect with its bundle while DREBIND is posted at latency 1, and that TSETT and TFLAG admit a COMPRESSED word,
are the model's reading (log entries 111, 37). -/
def Obligations.TypeAndEngineRegisterWords : Prop :=
  (∀ (s : State) (g t d a m clr set : Nat), s.canRun .eMain g → s.readable a →
     let v := (s.xval a).toNat
     let w := (s.ctx.twAt t ||| BitVec.ofNat 64 (set * 2 ^ 41)) &&& ~~~(BitVec.ofNat 64 (clr * 2 ^ 41))
     (s.tilesFree [t] →
       exec (.tgett g d t) s = .next (s.wx 1 d (s.ctx.twAt t)) ∧
       (s.xval a = 0 → exec (.tsett g t a) s = .next (s.post 1 (.tw t 0))) ∧
       (twRank (s.xval a) ≠ 0 → typeFault true (s.xval a) = none →
         (openExt (s.xval a) ≠ none ∨ (layOf (s.xval a)).size ≤ 32768) → exec (.tsett g t a) s = .next (s.post 1 (.tw t (s.xval a)))) ∧
       (∀ n, twRank (s.xval a) ≠ 0 → typeFault true (s.xval a) = some n →
         exec (.tsett g t a) s = .next (s.stopAt (.fault { cls := .FM, num := n }))) ∧
       (s.ctx.twAt t ≠ 0 → typeFault true (s.ctx.twAt t) = none →
         (openExt (s.resolveType w) ≠ none ∨ (layOf (s.resolveType w)).size ≤ 32768) →
         exec (.tflag g t clr set) s = .next (s.post 1 (.tw t (s.resolveType w))))) ∧
     (1 ≤ v → v ≤ 511 →
       exec (.drebind g d a) s = .next (s.post 1 (.d d (some v))) ∧
       (s.ctx.dAt d = none → exec (.dbind g d a) s = .next (s.bind d v)) ∧
       (s.ctx.dAt d = some v → exec (.dbind g d a) s = .next s) ∧
       (∀ n, s.ctx.dAt d = some n → n ≠ v → ∃ f : FaultRec, f.cls = .SH ∧ f.num = 5 ∧
         exec (.dbind g d a) s = .next (s.stopAt (.fault f)))) ∧
     (v = 0 ∨ 511 < v → exec (.drebind g d a) s = .next (s.stopAt (.fault { cls := .FM, num := 19 })) ∧
       exec (.dbind g d a) s = .next (s.stopAt (.fault { cls := .FM, num := 19 }))) ∧
     exec (.dclr g m) s = .next ((List.range 16).foldl (fun u k => if m.testBit k then u.post 1 (.d k none) else u) s) ∧
     exec (.dget g d a) s = .next (s.wx 1 d (BitVec.ofNat 64 ((s.ctx.dAt a).getD 0)))) ∧
  (∀ (s : State) (g x d a : Nat) (imm : Imm),
     (s.canRun .eMain g →
       (s.readable a → exec (.mxw g x a) s = .next (if x = 0 then s.post 1 (.mx 0 (s.xval a)) else s)) ∧
       let arr := (s.coreAt s.ctx.core).arr
       exec (.mxr g d 0) s = .next (s.wx 1 d s.ctx.mxRows) ∧ exec (.mxr g d 1) s = .next (s.wx 1 d arr.planTw) ∧
       exec (.mxr g d 2) s = .next (s.wx 1 d arr.planShadow) ∧
       exec (.mxr g d 3) s = .next (s.wx 1 d (BitVec.ofNat 64
         (arr.planM + 512 * arr.planN + 131072 * arr.planValid.toNat + 262144 * arr.planInt.toNat))) ∧
       exec (.mxr g d 4) s = .next (s.wx 1 d s.ctx.mxMd) ∧ (4 < x → exec (.mxr g d x) s = .next (s.wx 1 d 0))) ∧
     (s.canRun .eBoth g →
       (s.readable a → exec (.cew g x a) s = .next (if x < 30 then s.post 1 (.ce x (s.xval a)) else s)) ∧
       exec (.cewi g x imm) s = .next (if x < 30 then s.post 1 (.ce x (imm.value 12)) else s) ∧
       exec (.cer g d x) s = .next (s.wx 1 d (s.ctx.ceAt x)) ∧
       exec (.cerst g) s = .next ((List.range 30).foldl (fun t k => t.post 1 (.ce k 0)) s)))

namespace Sys2Proof.Machine

/-- `t` is `s` with matrix command `c` in the queue of the core's array, planned (12 R318; 06 R140). -/
def State.matrixForked (s t : State) (tag : Nat) (c : MCmd) (d : MulDims) (rd : List Touch) : Prop :=
  let core := s.ctx.core
  s.forked t tag (s.newOp tag (.matrix c ⟨0, false, [], none, false⟩) (rd.map readMark)) ∧
    (t.coreAt core).arr = { (s.coreAt core).arr.plan c d with mq := (s.coreAt core).arr.mq ++ [s.nextOp] }

/-- The multiplies with their operands: guard, activation, START, addend, metadata tile, drain, tag (12 R322). -/
def mulWord : Instr → Option (Nat × Nat × Nat × Nat × Option Nat × Option DrainSpec × Nat)
  | .mmul g q a st c tag fmt rnd sat => some (g, a, st, c, none, some ⟨q, fmt, rnd, sat, []⟩, tag)
  | .mmuln g a st c tag => some (g, a, st, c, none, none, tag)
  | .mmulS g q a st c tag fmt rnd sat m => some (g, a, st, c, some m, some ⟨q, fmt, rnd, sat, []⟩, tag)
  | .mmulnS g a st c tag m => some (g, a, st, c, some m, none, tag)
  | _ => none

/-- The typing rule of 12 R321 on types that are resolved: `ta` the activation's, `pl` the planned weight plane's, `tc` the addend's,
`tm` the metadata's; `row0` and `m` the rows multiplied, `drain` the format a drain converts to. -/
structure MulRule (arr : ArrayState) (start : MStart) (ta tc tm : Word) (sparse : Bool) (row0 m : Nat) (drain : Option Nat) : Prop where
  pruned : twPruned arr.planTw = sparse
  ranks : twRank ta = 2 ∧ twRank arr.planTw = 2 ∧ (start = .addend → twRank tc = 2) ∧ (sparse = true → twRank tm = 2)
  formats : matrixFmt (twFmt ta) = true ∧ matrixFmt (twFmt arr.planTw) = true ∧
    (start = .addend → addendFmt (intAccum ta arr.planTw) (twFmt tc) = true) ∧ (sparse = true → twFmt tm = 0x10) ∧
    ∀ f ∈ drain, f ≤ 0x0E
  scales : (start = .addend → twGeom tc = 0) ∧ (sparse = true → twGeom tm = 0 ∧ twLayout tm = 0 ∧ twView tm = false)
  plane : twExt arr.planTw 0 ≤ 511 ∧ twExt arr.planTw 1 ≤ 511
  rows : 1 ≤ m ∧ m ≤ 511 ∧ row0 + m ≤ twExt ta 0 ∧ (drain.isSome = true ∧ start ≠ .cont ∨ m ≤ 128)
  inner : twExt ta 1 = logicalK arr.planTw
  addend : start = .addend → twExt tc 0 = m ∧ twExt tc 1 = twExt arr.planTw 0
  sparse : sparse = true → twExt tm 0 = twExt arr.planTw 0 ∧ twExt tm 1 = logicalK arr.planTw / 8
  cont : start = .cont → arr.planValid = true ∧ arr.planM = m ∧ arr.planN = twExt arr.planTw 0 ∧
    arr.planInt = intAccum ta arr.planTw

end Sys2Proof.Machine

/-- 12 R318 to R324, 06 R140: with a place in the queue and room in the tag, MLDS, MSWAP and MDRAIN fork a command and change the planned
state as R318 says; an MDRAIN without planned accumulators raises QU-03. -/
def Obligations.MatrixWords : Prop :=
  ∀ (s : State) (g a tag q fmt rnd sat : Nat) (r : Word), s.canRun .eMain g → s.tagRoom tag 1 →
    s.matrixRoom s.ctx.tid s.ctx.core = true →
    let arr := (s.coreAt s.ctx.core).arr
    let n := if rnd = 1 then arr.planM * arr.planN else 0
    (s.tilesFree [a] → s.tileReady a true r → twRank r = 2 → matrixFmt (twFmt r) = true → twExt r 0 ≤ 128 → twExt r 1 ≤ 128 →
      (twPruned r = true → twExt r 1 % 4 = 0) → s.raceEngine [(layOf r).touch s.me a] [] = .ok () →
      ∃ t : State, exec (.mlds g a tag) s = .next t ∧ t.ctx = s.backTo a (s.drawnE 0) ∧
        s.matrixForked t tag (.mlds a r) ⟨0, 0, false⟩ [(layOf r).touch s.me a]) ∧
    (∃ t : State, exec (.mswap g tag) s = .next t ∧ t.ctx = s.drawnE 0 ∧ s.matrixForked t tag .mswap ⟨0, 0, false⟩ []) ∧
    (fmt ≤ 0x0E → arr.planValid = true → s.drawsLive n → ∃ t : State, exec (.mdrain g q tag fmt rnd sat) s = .next t ∧
      t.ctx = s.drawnE n ∧ s.matrixForked t tag (.mdrain ⟨q, fmt, rnd, sat, s.drawsOfE n⟩) ⟨arr.planM, arr.planN, arr.planInt⟩ []) ∧
    (fmt ≤ 0x0E → arr.planValid = false → exec (.mdrain g q tag fmt rnd sat) s = .next (s.stopAt (.fault { cls := .QU, num := 3 })))

/-- 12 R321 to R323, R325: a multiply whose types are bound and satisfy R321 forks a command over the rows that MX.ROWS names; the sparse
forms read their metadata, each element's offsets strictly ascending, as they issue. The metadata's marks are read by inference (log entry
46). -/
def Obligations.MultiplyWords : Prop :=
  ∀ (s : State) (i : Instr) (g a st c tag : Nat) (tm : Option Nat) (dr : Option DrainSpec) (ta tc tmw : Word),
    mulWord i = some (g, a, st, c, tm, dr, tag) → s.canRun .eMain g → s.tagRoom tag 1 → s.matrixRoom s.ctx.tid s.ctx.core = true →
    st ≤ 2 → s.sound = true →
    let arr := (s.coreAt s.ctx.core).arr
    let row0 := bits s.ctx.mxRows.toNat 0 9
    let mr := bits s.ctx.mxRows.toNat 9 9
    let m := if mr = 0 then twExt ta 0 - row0 else mr
    let n := twExt arr.planTw 0
    let tcs := if st = 1 then [c] else []
    let tiles := a :: (tcs ++ tm.toList)
    let rd := (layOf ta).touch s.me a :: ((if st = 1 then [(layOf tc).touch s.me c] else []) ++
      tm.toList.map fun t => (layOf tmw).touch s.me t)
    let k := match dr with
      | some q => if q.rnd = 1 then m * n else 0
      | none => 0
    s.tilesFree tiles → s.tileReady a true ta → (st = 1 → s.tileReady c false tc) → (st ≠ 1 → tc = 0) →
    (∀ t ∈ tm, s.tileReady t false tmw) → (tm = none → tmw = 0) →
    MulRule arr (startOf st) ta tc tmw tm.isSome row0 m (dr.map (·.fmt)) →
    (∀ t ∈ tm, badMeta s.mem (tileAddr s.me t 0) (layOf tmw) n (logicalK arr.planTw / 8) = none) →
    s.raceEngine rd [] = .ok () → s.drawsLive k →
    ∃ t : State, exec i s = .next t ∧ t.ctx = tiles.foldl (fun x y => s.backTo y x) (s.drawnE k) ∧
      s.matrixForked t tag (.mmul ⟨a, ta, startOf st, c, tc, tm, tmw, row0, m, dr.map fun q => { q with draws := s.drawsOfE k }⟩)
        ⟨m, n, intAccum ta arr.planTw⟩ rd

/-! ## COPY (12 R327 to R330) -/

namespace Sys2Proof.Machine

/-- The type of a tile that is a copy's source, unified with the box (04 R111; 12 R328); 0 where the source is no tile. -/
def State.sourceType (s : State) (m : CopyMode) (dst : Side) (box : List Nat) : Option Nat → Except Stop (State × Word)
  | none => .ok (s, 0)
  | some t =>
    match dst with
    | .win d => s.unifyBox false t d.fmt d.geom box (m.kind != 2 && m.kind != 7)
    | _ => s.unifyBox false t (twFmt (s.ctx.twAt t)) (twGeom (s.ctx.twAt t)) box false

/-- The type a tile takes that is a copy's destination; 0 where the destination is no tile. -/
def State.targetType (s : State) (m : CopyMode) (src : Side) (box : List Nat) : Option Nat → Except Stop (State × Word)
  | none => .ok (s, 0)
  | some t =>
    let bx := if m.kind = 3 then swapLast box else box
    if m.kind = 2 ∧ twRank (s.ctx.twAt t) = 0 then s.unifyBox true t m.dfmt 0 bx false
    else s.unifyBox true t (sideFmt src m.ofmt) (sideGeom src) bx (m.kind != 2)

/-- The on-chip footprint among touches: everything but frames. -/
def onChip (ts : List Touch) : List Touch :=
  ts.filter fun t => match t.space with
    | .frame .. => false
    | _ => true

/-- A copy's checks of 12 R328 before its tag and its place, all passed: `ce` its registers, `ts` and `td` its tile sides, `src` and
`dst` its sides, `s2` the state with what unification binds, `pl` its plan. -/
structure CopyPasses (s s2 : State) (ce : List Word) (a b : Nat) (ts td : Option Nat) (src dst : Side) (twS twD : Word)
    (pl : CopyPlan) : Prop where
  regs : ce = (List.range 32).map s.ctx.ceAt
  tiles : ts = (if s.ctx.core < 384 ∧ sideKind (ce.getD 1 0) = 3 then some (sideTile (ce.getD 1 0)) else none) ∧
    td = (if s.ctx.core < 384 ∧ sideKind (ce.getD 2 0) = 3 then some (sideTile (ce.getD 2 0)) else none)
  free : s.tilesFree (ts.toList ++ td.toList)
  valid : ∀ t ∈ ts.toList ++ td.toList, s.ctx.twAt t = 0 ∨ typeFault true (s.ctx.twAt t) = none
  source : s.sideOf s.task.p s.ctx.tid s.me s.ctx.core (ce.getD 1 0) ((ts.map s.ctx.twAt).getD 0) = some src
  target : s.sideOf s.task.p s.ctx.tid s.me s.ctx.core (ce.getD 2 0) ((td.map s.ctx.twAt).getD 0) = some dst
  scales : s.companionBad s.task.p src (ce.getD 3 0) 0 = false ∧ s.companionBad s.task.p dst (ce.getD 3 0) 16 = false
  faults : copyFaults ce (copyMode (ce.getD 0 0)) src dst (sideFmt src (copyMode (ce.getD 0 0)).ofmt)
    (if isTile dst && (td.map s.ctx.twAt).getD 0 = 0 then
        (if (copyMode (ce.getD 0 0)).kind = 2 then (copyMode (ce.getD 0 0)).dfmt else sideFmt src (copyMode (ce.getD 0 0)).ofmt)
      else sideFmt dst (if (copyMode (ce.getD 0 0)).kind = 2 then (copyMode (ce.getD 0 0)).dfmt else (copyMode (ce.getD 0 0)).ofmt))
    (s.companion s.task.p src (ce.getD 3 0) 0) (s.companion s.task.p dst (ce.getD 3 0) 16) (decide (384 ≤ s.ctx.core)) s.task.tiles = .ok ()
  types : ∃ s1, s.sourceType (copyMode (ce.getD 0 0)) dst (((ce.drop 20).take (copyMode (ce.getD 0 0)).rank).map fun w => bits w.toNat 0 32)
      ts = .ok (s1, twS) ∧
    s1.targetType (copyMode (ce.getD 0 0)) src (((ce.drop 20).take (copyMode (ce.getD 0 0)).rank).map fun w => bits w.toNat 0 32) td =
      .ok (s2, twD)
  sizes : (∀ _t ∈ ts, (layOf twS).size ≤ 32768) ∧ (∀ _t ∈ td, (layOf twD).size ≤ 32768)
  plan : s2.copyPlan s.task.p s.ctx.tid s.me s.ctx.core ⟨ce, s.xval a, s.xval b, twS, twD, [], none, 0⟩ = some pl
  inside : ∀ reg lo hi, (pl.src = .chip reg ∧ chipSpan pl.sources = some (lo, hi) ∨ pl.dst = .chip reg ∧ chipSpan pl.targets = some (lo, hi)) →
    0 ≤ lo ∧ hi ≤ reg.size
  leases : s2.copyLeases s.ctx.tid pl = none
  apart : pl.m.kind = 0 ∨ pl.overlaps = false

end Sys2Proof.Machine

/-- 12 R327 to R330, 06 R149: a copy that passes the checks of R328, with room in its tag and its engine, forks one operation with the
marks of both its sides and writes the destination tile's type; bytes move at its completion (06 R152), not at issue. With a follow-on, a
second, carried operation follows it (R329). The exact footprint of marks is read by inference (log entry 41). -/
def Obligations.CopyIssues : Prop :=
  ∀ (s s2 : State) (g tag a b : Nat) (ce : List Word) (ts td : Option Nat) (src dst : Side) (twS twD : Word) (pl : CopyPlan),
    s.canRun .eBoth g → s.readable a → s.readable b → CopyPasses s s2 ce a b ts td src dst twS twD pl →
    let m := copyMode (ce.getD 0 0)
    let (tr, tw) := s2.copyTouches s.me pl
    let n := if m.kind = 2 ∧ m.rnd = 1 then pl.conversions else 0
    let c := (ts.toList.foldl (fun c t => s2.backTo t c) (s2.drawnE n))
    let c' := td.toList.foldl (fun c t => c.post 1 (.tw t twD)) c
    let cmd (fol : Option Nat) : OpKind := .copy ⟨ce, s.xval a, s.xval b, twS, twD, s2.drawsOfE n, fol, 0⟩
    let marks := tr.map readMark ++ tw.map fun t => { writeMark t with atomic := m.kind == 6 && (onChip [t]).isEmpty }
    s2.drawsLive n →
    (m.follow = false → s2.raceEngine (onChip tr) (onChip tw) = .ok () →
      (s2.tagRoom tag 1 → s2.placesTaken s.ctx.core < copyPlacesOf s.ctx.core →
        ∃ t : State, exec (.copy g tag a b) s = .next t ∧ s2.forked t tag (s2.newOp tag (cmd none) marks) ∧ t.ctx = c') ∧
      (s2.tagRoom tag 1 → copyPlacesOf s.ctx.core ≤ s2.placesTaken s.ctx.core →
        exec (.copy g tag a b) s = .next (s.stopAt (.block (.copyPlaces s.ctx.core))))) ∧
    (∀ f, m.follow = true → followOf (ce.getD 29 0) = some f → followRnd f.instr ≠ 1 → (∀ o ∈ s.ops, o.id < s.nextOp) →
      s2.raceEngine (onChip tr ++ (f.tiles.filter fun t => td != some t).map fun t => ⟨.tile s.me t, 0, 511, 0⟩) (onChip tw) = .ok () →
      s2.tagRoom tag 2 → s2.tagRoom f.tag 2 → s2.placesTaken s.ctx.core < copyPlacesOf s.ctx.core →
      ∃ t : State, exec (.copy g tag a b) s = .next t ∧ t.mem = s.mem ∧ t.nextOp = s.nextOp + 2 ∧
        t.ops = s2.ops ++ [s2.newOp tag (cmd (some (s2.nextOp + 1))) marks,
          ⟨s2.nextOp + 1, s.ctx.tid, s.me, s.ctx.core, some f.tag, s.bun.addr.toNat,
            .matrix (followCmd f.instr (fun k => if td = some k then twD else s2.resolveType (s2.ctx.twAt k)) [])
              ⟨0, false, [], none, false⟩, false, true, f.tiles.map (fun k => readMark ⟨.tile s.me k, 0, 511, 0⟩),
            union (s.undone s.task.before) (s.undone s.ctx.before), s.undone s.ctx.behind⟩])

/-! ## Control blocks and the words that read one (13 R334 to R353) -/

namespace Sys2Proof.Machine

/-- The words that read a control block: kind, guard, the scalar that holds its address (13 R334). -/
def blockWord : Instr → Option (WordKind × Nat × Nat)
  | .ymatch g _ a _ _ => some (.eMain, g, a)
  | .ymerge g _ a _ => some (.eMain, g, a)
  | .yunmerge g a _ => some (.eMain, g, a)
  | .yretire g a _ => some (.eMain, g, a)
  | .tspawn g _ a _ => some (.eMain, g, a)
  | .dsend g a _ => some (.eMain, g, a)
  | .dcomb g a _ => some (.eMain, g, a)
  | .lgath g a _ _ => some (.eLookup, g, a)
  | .lpool g a _ _ => some (.eLookup, g, a)
  | .lhand g a _ => some (.eLookup, g, a)
  | _ => none

/-- The other scalar that such a word reads first. -/
def blockOther : Instr → Option Nat
  | .ymatch _ _ _ b _ => some b
  | _ => none

/-- The 64 bytes `b` of a control block lie at offset `o`, which Xa holds, and may be read (13 R334). -/
structure State.blockAt (s : State) (a o : Nat) (b : List Byte) : Prop where
  readable : s.readable a
  address : (s.xval a).toInt = o
  aligned : o % 64 = 0
  inside : o + 64 ≤ (s.slotRegion false).size
  bytes : b = memRead s.mem ((s.slotRegion false).base + o) 64
  free : s.raceCore [(s.slotRegion false).touch o 64] [] = .ok ()
  sound : s.sound = true

end Sys2Proof.Machine

/-- 13 R334: a control block whose address is not a multiple of 64 raises FM-08, else one outside the region LS-03. -/
def Obligations.ControlBlockFaults : Prop :=
  ∀ (s : State) (i : Instr) (k : WordKind) (g a : Nat), blockWord i = some (k, g, a) → s.canRun k g → s.readable a →
    (∀ b ∈ blockOther i, s.readable b) →
    let p := (s.xval a).toInt
    (p % 64 ≠ 0 → exec i s = .next (s.stopAt (.fault { cls := .FM, num := 8 }))) ∧
    (p % 64 = 0 → p < 0 ∨ ((s.slotRegion false).size : Int) < p + 64 → exec i s = .next (s.stopAt (.fault { cls := .LS, num := 3 })))

namespace Sys2Proof.Machine

/-- The yoke words: guard, kind from the value of Xb, size register, block, tag (13 R336, R337). -/
def yokeWord (r : Nat) : Instr → Option (Nat × YokeKind × Nat × Nat × Nat)
  | .ymatch g v a _ tag => some (g, .match_ r, v, a, tag)
  | .ymerge g v a tag => some (g, .merge, v, a, tag)
  | .yunmerge g a tag => some (g, .unmerge, 0, a, tag)
  | .yretire g a tag => some (g, .retire, 0, a, tag)
  | _ => none

end Sys2Proof.Machine

/-- 13 R335 to R338, 06 R163: a yoke word whose block passes its checks puts one command at the end of the span's queue, which holds 64; a
context with a command of its own blocks until it is complete. The block's load takes its place in the commit order (07 R171). YSTAT reads the queue's length and whether the context has one. -/
def Obligations.YokeWords : Prop :=
  ∀ (s : State) (i : Instr) (g v a tag o r d : Nat) (k : YokeKind) (b : List Byte) (zs : List Nat),
    s.canRun .eMain g →
    let span := spanOf s.ctx.core
    let u := s.commitOrder
    let cmd : YokeCmd := ⟨k, b, zs⟩
    (yokeWord r i = some (g, k, v, a, tag) → (∀ x ∈ blockOther i, s.readable x ∧ (s.xval x).toNat = r) → s.blockAt a o b →
      s.yokeChecks k (s.ctx.vAt v) b = .ok zs → s.tagRoom tag 1 →
      (s.yokeBusy s.me = false → (s.yokeQueue span).length < 64 → ∃ t : State, exec i s = .next t ∧ t.ctx = u.ctx ∧
        u.forked t tag (u.newOp tag (.yoke cmd)
          ((u.yokeFixed u.task.p cmd ++ u.yokeLate u.task.p cmd (yokeMost cmd)).flatMap u.boxMarks)) ∧
        t.yokeQueue span = s.yokeQueue span ++ [s.nextOp]) ∧
      (s.yokeBusy s.me = true → exec i s = .next (s.stopAt (.block (.yokeOwn s.me)))) ∧
      (s.yokeBusy s.me = false → 64 ≤ (s.yokeQueue span).length → exec i s = .next (s.stopAt (.block (.yokeQueue span))))) ∧
    exec (.ystat g d) s =
      .next (s.wx 1 d (BitVec.ofNat 64 ((s.yokeQueue span).length + 128 * (s.yokeBusy s.me).toNat)))

/-- 13 R339, 01 R482, 02 R61: TSPAWN with a well-formed record, its delegations inside the spawner's leases and room in the paddock's queue
makes n tasks of the record, the spawner their parent, under ascending TASKSEQ values, consecutive but for those that R482 skips, and
answers the first's, or 0 where n is 0; a delegated lease is granted with the commit, where no sibling holds one that conflicts, and a task
that so holds all its leases is queued (log entry 92, read by inference); a bad record or n above 256 raises FM-22, a delegation outside
the spawner's leases LS-05, and too little room blocks. The record's load takes its place in the commit order (07 R171). 13 R340: GDEC
and GREAD of a task that a graph node started put an operation on its instance's counter under way; Xd awaits the reply at latency 32;
outside an instance, past node 4,095 or with an amount outside 1 to 65,535 they raise FM-23. That spawned tasks may not use GDEC is read
by inference (log entry 76). -/
def Obligations.SpawnAndGraphWords : Prop :=
  (∀ (s : State) (g d a b o : Nat) (blk : List Byte) (dims : List (Nat × Nat)), s.canRun .eMain g → s.readable b → s.blockAt a o blk →
     let reg := s.slotRegion false
     let n := (s.xval b).toNat
     let size := if 1 ≤ fieldAt blk 14 2 ∧ fieldAt blk 14 2 ≤ 64 then 64 * fieldAt blk 14 2 else 64
     let r := parseDescr (memRead s.mem (reg.base + o) size)
     let s1 := s.commitOrder
     let t := s1.task
     let new : Task := { s1.taskOf t.p r t.code t.origin with
       prio := max t.prio r.prio, parent := some t.tid, dims := dims, ninst := n }
     o + size ≤ reg.size → s.raceCore [reg.touch o size] [] = .ok () →
     (256 < n ∨ r.ok = false → exec (.tspawn g d a b) s = .next (s.stopAt (.fault { cls := .FM, num := 22 }))) ∧
     (n ≤ 256 → r.ok = true → s1.spawnDims r = .ok dims → (∃ l ∈ new.leases, l.deleg = true ∧ delegationOk t.leases l = false) →
       exec (.tspawn g d a b) s = .next (s.stopAt (.fault { cls := .LS, num := 5 }))) ∧
     (n ≤ 256 → r.ok = true → s1.spawnDims r = .ok dims → (∀ l ∈ new.leases, l.deleg = true → delegationOk t.leases l = true) →
       1024 < s1.spawnQueue t.p + n → exec (.tspawn g d a b) s = .next (s.stopAt (.block (.spawnQueue t.p n)))) ∧
     (n ≤ 256 → r.ok = true → s1.spawnDims r = .ok dims → (∀ l ∈ new.leases, l.deleg = true → delegationOk t.leases l = true) →
       s1.spawnQueue t.p + n ≤ 1024 →
       ∃ (u : State) (num : Nat → Nat),
         exec (.tspawn g d a b) s = .next (u.wx 1 d (if n = 0 then 0 else BitVec.ofNat 64 (num 0 % 2 ^ 24))) ∧
         u.nextTid = s.nextTid + n ∧ u.mem = s.mem ∧ u.ctxs = s1.ctxs ∧ u.ops = s.ops ∧
         (∀ k x, k < n → (if k = 0 then (s.paddockAt t.p).nextSeq else num (k - 1) + 1) ≤ x → x < num k →
           x % 2 ^ 24 = 0 ∨ (∃ j < k, num j % 2 ^ 24 = x % 2 ^ 24) ∨
             ∃ e ∈ s.tasks, e.2.p = t.p ∧ e.2.xform = none ∧ e.2.seq = x % 2 ^ 24) ∧
         ∀ k, k < n → (if k = 0 then (s.paddockAt t.p).nextSeq else num (k - 1) + 1) ≤ num k ∧ ∃ ls st,
           amGet u.tasks (s.nextTid + k) = some { new with
             tid := s.nextTid + k, seq := num k % 2 ^ 24, inst := k, leases := ls, state := st } ∧
           (ls.map fun l => { l with held := false }) = (new.leases.map fun l => { l with held := false }) ∧
           (∀ l ∈ ls, l.held = true → l.deleg = true) ∧ st = (if ls ≠ [] ∧ (∀ l ∈ ls, l.held = true) then .queued else new.state) ∧
           (n = 1 → (∀ e ∈ s.tasks, e.2.parent ≠ some t.tid) → ∀ l ∈ ls, l.held = l.deleg))) ∧
  (∀ (s : State) (g d a b : Nat), s.canRun .eMain g → s.readable a → s.readable b →
     let c := (s.xval a).toNat
     let k := (s.xval b).toNat
     let op (inst : Nat) (n : Option Nat) : Op := ⟨s.nextOp, s.ctx.tid, s.me, s.ctx.core, none, s.bun.addr.toNat,
       .graph ⟨inst, c, n, false, none⟩, false, false, [], s.undone s.ctx.before, s.undone s.ctx.behind⟩
     let queued (t : State) (o : Op) : Prop := t.ctx = { s.ctx with before := t.ctx.before, behind := t.ctx.behind } ∧
       s.nextOp ∈ t.ctx.before ∧ t.ctx.behind = s.ctx.behind ∧ t.mem = s.mem ∧ t.ops = s.ops ++ [o] ∧ t.nextOp = s.nextOp + 1
     (∀ inst, s.task.instance_ = some inst → c < 4096 →
       (1 ≤ k → k ≤ 65535 → s.fencePasses 1 = false → exec (.gdec g d a b) s = .next (s.stopAt .stall)) ∧
       (1 ≤ k → k ≤ 65535 → s.fencePasses 1 = true → ∃ t : State,
         exec (.gdec g d a b) s = .next (t.post 32 (.xReply (physX s.ctx.rrb d) s.nextOp)) ∧ queued t (op inst (some k))) ∧
       ∃ t : State, exec (.gread g d a) s = .next (t.post 32 (.xReply (physX s.ctx.rrb d) s.nextOp)) ∧ queued t (op inst none)) ∧
     (s.task.instance_ = none ∨ 4096 ≤ c →
       exec (.gread g d a) s = .next (s.stopAt (.fault { cls := .FM, num := 23 }))) ∧
     (s.task.instance_ = none ∨ 4096 ≤ c ∨ k = 0 ∨ 65535 < k →
       exec (.gdec g d a b) s = .next (s.stopAt (.fault { cls := .FM, num := 23 }))))

/-! ## Dispatch and fabric (13 R341 to R349) -/

namespace Sys2Proof.Machine

/-- The windows of a dispatch or combine block, as R342 and R347 ask for them: well formed, of the rank and formats named. -/
structure RouteWindows (s : State) (route table log : WinDesc) (nr nt nl org t k : Nat) : Prop where
  named : s.window s.task.p nr = some route ∧ s.window s.task.p nt = some table ∧ s.window s.task.p nl = some log
  ranks : route.rank = 2 ∧ table.rank = 1 ∧ log.rank = 2
  formats : route.fmt = 0x07 ∧ table.fmt = 0x07 ∧ log.fmt = 0x07
  table : table.ext.getD 0 0 % 8 = 0 ∧ 1 ≤ ndest table ∧ ndest table ≤ 1024
  rows : org + t ≤ route.ext.getD 0 0 ∧ org + t ≤ log.ext.getD 0 0
  columns : 2 * k ≤ route.ext.getD 1 0 ∧ k ≤ log.ext.getD 1 0
  counts : 1 ≤ t ∧ t ≤ 4096 ∧ 1 ≤ k ∧ k ≤ 8

end Sys2Proof.Machine

/-- 13 R341 to R343, 07 R190: a DSEND whose block passes R342 forks one operation under its tag, its tokens rows of a window, as they stand
at the commit, or slabs popped from a queue, and joins the context's open batch, begun where there is none; a copy that has landed half of
its rows there is a race of it (log entry 136). The block's load takes its place in the commit order (07 R171). 13 R345 to R347: DFLUSH closes the context's batch; DRECV on a cell
of the paddock waits under its tag for a value of at least the bound, and with bit 63 set raises the tag's count by the number of
hand-offs; DCOMB forks one operation, with marks on the result rows that its logs and tables name at the commit (log entry 137). -/
def Obligations.DispatchWords : Prop :=
  (∀ (s : State) (g a tag o : Nat) (b : List Byte) (rw tw lw : WinDesc), s.canRun .eMain g → s.blockAt a o b → s.tagRoom tag 1 →
     fieldAt b 18 1 < 16 → zeroBytes b 19 19 = true → zeroBytes b 22 63 = true →
     RouteWindows s rw tw lw (fieldAt b 2 2) (fieldAt b 4 2) (fieldAt b 6 2) (sendOrg b) (sendT b) (sendK b) →
     let core := s.ctx.core
     let n := s.ctx.batch.getD s.nextOp
     let s1 := s.commitOrder
     let fixed := s.coordMarks rw false (rowCoords (sendOrg b) (sendT b) (2 * sendK b)) ++
       s.coordMarks tw false (boxCoords [(0, 8 * ndest tw)]) ++ s.coordMarks lw true (rowCoords (sendOrg b) (sendT b) (sendK b))
     let done (t : State) (rows : List (List Nat)) (fmt : Nat) (bad : Bool) (marks : List Mark) : Prop :=
       (∃ race, t.ops = s.ops ++ [s1.newOp tag (.dsend b rows fmt bad n race) marks] ∧ (s.halfLanded = [] → race = none)) ∧
         t.mem = s.mem ∧ t.ctx = { s1.ctx with batch := some n } ∧
         (s.ctx.batch = none → amGet t.batches n = some ⟨s.me, [], [], []⟩)
     (sendQueued b = false → ∀ d, s.window s.task.p (fieldAt b 0 2) = some d → d.rank = 2 → tokenFmt d.fmt = true → d.geom = 0 →
       d.compressed = false → sendOrg b + sendT b ≤ d.ext.getD 0 0 →
       ∃ t : State, exec (.dsend g a tag) s = .next t ∧
         done t (s.tokenRows d (sendOrg b) (sendT b)) d.fmt false (s.coordMarks d false (rowCoords (sendOrg b) (sendT b) (d.ext.getD 1 0)) ++ fixed)) ∧
     (sendQueued b = true → ∀ slabs, s.sendSlabs b = .ok slabs → ∃ t : State, exec (.dsend g a tag) s = .next t ∧
       done t (slabRows (sendT b) (sendQh b) slabs) ((slabs.head?.map (·.fmt)).getD 0) (slabs.any (·.bad)) fixed ∧
       (sendQueue b < (s.coreAt core).arr.queues.length → ((t.coreAt core).arr.queues.getD (sendQueue b) .empty).slabs =
         ((s.coreAt core).arr.queues.getD (sendQueue b) .empty).slabs.drop slabs.length))) ∧
  (∀ (s : State) (g a b tag o : Nat) (blk : List Byte) (rw tw lw dw : WinDesc), s.canRun .eMain g →
     (s.tagRoom tag 1 → ∃ t : State, exec (.dflush g tag) s = .next t ∧ t.ctx = { s.ctx with batch := none } ∧
       s.forked t tag (s.newOp tag (.dflush (s.ctx.batch.getD 0)) [])) ∧
     (s.readable a → s.readable b → (s.xval a).toNat < 65536 → s.tagRoom tag 1 →
       (s.cellAddr s.task.p (s.xval a).toNat ≠ none → s.waitsOf (dieOf s.ctx.core) < 256 →
         ∃ t : State, exec (.drecv g a b tag) s = .next t ∧ t.ctx = s.ctx ∧
           s.forked t tag (s.newOp tag (.drecv (s.xval a).toNat none (s.xval b)) [])) ∧
       (s.cellAddr s.task.p (s.xval a).toNat = none → exec (.drecv g a b tag) s = .next (s.stopAt (.fault { cls := .LS, num := 8 })))) ∧
     (s.readable a → s.readable b → (s.xval a).toNat = 2 ^ 63 → (s.xval b).toNat ≤ 65535 → s.tagRoom tag (s.xval b).toNat →
       ∃ t : State, exec (.drecv g a b tag) s = .next t ∧ t.ctx = s.ctx ∧ t.ops = s.ops ∧ t.mem = s.mem ∧
         t.task.tagCount s.ctx.core tag = s.task.tagCount s.ctx.core tag + (s.xval b).toNat) ∧
     (s.blockAt a o blk → s.tagRoom tag 1 → zeroBytes blk 24 63 = true → combFlags blk ≤ 1 → isFloat (combFmt blk) = true →
       RouteWindows s rw tw lw (fieldAt blk 2 2) (fieldAt blk 4 2) (fieldAt blk 0 2) (sendOrg blk) (sendT blk) (sendK blk) →
       s.window s.task.p (fieldAt blk 6 2) = some dw → dw.rank = 2 → dw.fmt = combFmt blk → combOrg blk + sendT blk ≤ dw.ext.getD 0 0 →
       let u := s.commitOrder
       ∃ t : State, exec (.dcomb g a tag) s = .next t ∧ t.ctx = u.ctx ∧ u.forked t tag (u.newOp tag (.dcomb blk)
         (s.coordMarks lw false (rowCoords (sendOrg blk) (sendT blk) (sendK blk)) ++
          s.coordMarks rw false (rowCoords (sendOrg blk) (sendT blk) (2 * sendK blk)) ++
          s.coordMarks tw false (boxCoords [(0, 8 * ndest tw)]) ++
          s.coordMarks dw true (rowCoords (combOrg blk) (sendT blk) (dw.ext.getD 1 0)) ++
          u.resultMarks u.task.p (dw.ext.getD 1 0) blk))))

/-- 13 R348, R349, 07 R190: FSEND takes the tile's image at the commit and forks a send that holds it; FRECV forks a receive that marks
the tile until its payload lands; an operand with reserved bits or a channel above 15 raises FM-17. -/
def Obligations.FabricWords : Prop :=
  ∀ (s : State) (g a b tag : Nat) (r : Word), s.canRun .eMain g → s.readable b → s.tilesFree [a] →
    let x := s.xval b
    let l := (layOf r).touch s.me a
    (16 ≤ x.toNat → exec (.frecv g a b tag) s = .next (s.stopAt (.fault { cls := .FM, num := 17 }))) ∧
    (s.tileReady a true r →
      (2 ^ 43 ≤ x.toNat → exec (.fsend g a b tag) s = .next (s.stopAt (.fault { cls := .FM, num := 17 }))) ∧
      (x.toNat < 2 ^ 33 → s.raceEngine [l] [] = .ok () → s.tagRoom tag 1 → ∃ t : State, exec (.fsend g a b tag) s = .next t ∧
        t.ctx = s.backTo a s.ctx ∧
        s.forked t tag (s.newOp tag (.fsend r (memRead s.mem (tileAddr s.me a 0) (layOf r).size) x) [readMark l])) ∧
      (x.toNat < 16 → s.raceEngine [] [l] = .ok () → s.tagRoom tag 1 → ∃ t : State, exec (.frecv g a b tag) s = .next t ∧
        t.ctx = s.backTo a s.ctx ∧ s.forked t tag (s.newOp tag (.frecv a r x.toNat) [writeMark l])))

/-! ## Lookup (13 R350 to R353) -/

/-- 13 R350, R352, R353: on a lookup core LGATH, LPOOL and LHAND, whose blocks pass their checks, fork one operation with the marks of the
areas it reads and writes, the block's load in its place of the commit order (07 R171); a gather of no index completes at issue; a seventeenth hand-off blocks. 13 R351: LDEDUP writes the distinct
values of the list, in order of first occurrence, after it, then each entry's place among them, and answers how many they are; no other
byte changes. -/
def Obligations.LookupWords : Prop :=
  (∀ (s : State) (g a x op tag o : Nat) (b : List Byte), s.canRun .eLookup g → s.blockAt a o b → s.tagRoom tag 1 →
     let reg := s.slotRegion false
     let u := s.commitOrder
     let forks (i : Instr) (k : OpKind) (rd wr : List Touch) (more : List Mark) : Prop := u.raceEngine rd wr = .ok () →
       ∃ t : State, exec i s = .next t ∧ t.ctx = u.ctx ∧
         u.forked t tag (u.newOp tag k (rd.map readMark ++ wr.map writeMark ++ more))
     (∀ d n, s.readable x → (s.xval x).toNat = n → n ≤ 4096 → zeroBytes b 2 3 = true → zeroBytes b 12 63 = true →
       s.window s.task.p (gathWin b) = some d → d.rank = 2 → d.compressed = false → gathIdx b % 4 = 0 → gathDst b % 64 = 0 →
       gathIdx b + 4 * n ≤ reg.size → gathDst b + n * gathPitch d ≤ reg.size → d.ext.getD 1 0 * storageBits d.fmt % 8 = 0 →
       (n = 0 → exec (.lgath g a x tag) s = .next u) ∧
       (n ≠ 0 → forks (.lgath g a x tag) (.lgath b n) (areaTouch reg (gathIdx b) (4 * n)) (areaTouch reg (gathDst b) (n * gathPitch d))
         (s.coordMarks d false (gathCoords d (wordsAt s.mem (reg.base + gathIdx b) n))))) ∧
     (zeroBytes b 25 63 = true → isFloat (poolFmt b) = true → 1 ≤ poolG b → poolG b ≤ 4096 → 1 ≤ poolH b → poolH b ≤ 4096 →
       poolRows b % 64 = 0 → poolPitch b % 64 = 0 → poolOut b % 64 = 0 → poolInv b % 4 = 0 → poolPtr b % 4 = 0 →
       poolPtr b + 4 * (poolG b + 1) ≤ reg.size → poolAreasFit s.mem reg b = true →
       poolOut b + poolG b * poolOutPitch b ≤ reg.size →
       forks (.lpool g a op tag) (.lpool b op) ((poolReads s.mem reg b).flatMap fun r => areaTouch reg r.1 r.2)
         (areaTouch reg (poolOut b) (poolG b * poolOutPitch b)) []) ∧
     (zeroBytes b 3 3 = true → handMember b < 32 → handTag b < 64 → zeroBytes b 6 7 = true → zeroBytes b 20 63 = true →
       handTo b % 64 = 0 → handFrom b % 64 = 0 → handBytes b % 64 = 0 → 64 ≤ handBytes b → handBytes b ≤ 262144 →
       handFrom b + handBytes b ≤ reg.size →
       (s.handOffs s.ctx.core < 16 → forks (.lhand g a tag) (.lhand b [] false) (areaTouch reg (handFrom b) (handBytes b)) [] []) ∧
       (16 ≤ s.handOffs s.ctx.core → s.raceEngine (areaTouch reg (handFrom b) (handBytes b)) [] = .ok () →
         exec (.lhand g a tag) s = .next (s.stopAt (.block (.handOffs s.ctx.core)))))) ∧
  (∀ (s : State) (g d a b o n : Nat), s.canRun .eLookup g → s.readable a → s.readable b → s.sound = true → s.memCanonical →
     (s.xval a).toNat = o → (s.xval b).toNat = n → n ≤ 4096 → o % 4 = 0 →
     let reg := s.slotRegion false
     let p := reg.base + o
     let l := wordsAt s.mem p n
     (reg.size < o + 12 * n → exec (.ldedup g d a b) s = .next (s.stopAt (.fault { cls := .LS, num := 3 }))) ∧
     (o + 12 * n ≤ reg.size → s.raceCore (areaTouch reg o (4 * n)) (areaTouch reg (o + 4 * n) (8 * n)) = .ok () →
       ∃ (ds : List Nat) (t : State), exec (.ldedup g d a b) s = .next (t.wx 1 d (BitVec.ofNat 64 ds.length)) ∧ t.ctx = s.ctx ∧
         ds.Nodup ∧ (∀ v, v ∈ ds ↔ v ∈ l) ∧
         (∀ k, k < ds.length → memNat t.mem (p + 4 * n + 4 * k) 4 = ds.getD k 0) ∧
         (∀ k, k < n → ds.getD (memNat t.mem (p + 8 * n + 4 * k) 4) 0 = l.getD k 0) ∧
         (∀ j k, j < k → k < ds.length → l.idxOf (ds.getD j 0) < l.idxOf (ds.getD k 0)) ∧
         ∀ c, (c < p + 4 * n ∨ p + 12 * n ≤ c) → memGet t.mem c = memGet s.mem c))

/-! ## The device's steps: scheduling (01 R13 to R38; 22 R458 to R460) -/

/-- 01 R15, R24 to R29, R38, 19 R408: a core whose switch is due goes to the next ready slot and counts from 0; a team blocked longer than
its limit begins to stable, its move parks it, and a woken team returns where no earlier wake stands before it, displacing a team that has
tried a bundle since its own return, or has none left to try; a round offers each paddock the clusters of its mask and places a queued task
on the lowest place that takes it, and there is none while a team has waited four rounds. Which place is taken is the model's choice (log
entry 81); that a team which has yet to try a bundle is not displaced and that no round comes while one is overdue are read by inference
(log entry 83). -/
def Obligations.SchedulerSteps : Prop :=
  (∀ (s : State) (core i : Nat), s.switchDue core = true → i < 4 → s.slotReady core (((s.coreAt core).cur + 1 + i) % 4) = true →
    (∀ j < i, s.slotReady core (((s.coreAt core).cur + 1 + j) % 4) = false) →
    exec (.contextSwitch core) s = .next { s.setCore core { s.coreAt core with
      cur := ((s.coreAt core).cur + 1 + i) % 4, cnt := 0, due := false } with cycle := s.cycle + 1 }) ∧
  (∀ (s : State) (p seq since : Nat) (t : Task),
    s.findTask p seq (fun t => t.state == .running && t.xform.isNone && t.lookup.isNone && t.debugHalt.isNone) = some t →
    s.teamBlocked t = some since → t.stableWait.toNat % 2 ^ 32 ≠ 0 → t.stableWait.toNat % 2 ^ 32 < s.cycle - since →
    (∀ c ∈ t.cores, (s.coreAt c).arr.mq = []) →
    exec (.stabling p seq) s = .next (s.setTask t.tid { t with state := .stabling none })) ∧
  (∀ (s : State) (p seq : Nat) (t : Task) (w : Option Nat),
    s.findTask p seq (fun t => match t.state with | .stabling _ => true | _ => false) = some t → t.state = .stabling w →
    (s.hardDue t.tid = false → exec (.stablingMoveComplete p seq) s = .next ((s.park t.tid (.stabled w)).endPreempt t.tid 0)) ∧
    (s.hardDue t.tid = true → exec (.stablingMoveComplete p seq) s = .next ((s.haltEngines t.tid).park t.tid (.hard false)))) ∧
  (∀ (s : State) (p seq w : Nat) (t : Task), s.findTask p seq (fun _ => true) = some t → t.state = .stabled (some w) →
    s.live t = true → s.earlierWake t w = false → s.occupants t = [] → exec (.teamReturn p seq) s = .next (s.unpark t.tid)) ∧
  (∀ (s : State) (p seq w o : Nat) (t : Task), s.findTask p seq (fun _ => true) = some t → t.state = .stabled (some w) →
    s.live t = true → s.earlierWake t w = false → s.occupants t = [o] → (s.taskAt o).state = .running → (s.taskAt o).debugHalt = none →
    (s.taskAt o).fresh = false ∨ s.live (s.taskAt o) = false →
    exec (.teamReturn p seq) s = .next ({ s.park o (.stabled (some s.nextOp)) with
      nextOp := (s.park o (.stabled (some s.nextOp))).nextOp + 1 }.unpark t.tid)) ∧
  (∀ (s : State), (∃ e ∈ s.tasks, s.overdue e.2 = true) → exec .schedulingRound s = .fault (.notEnabled "SCHEDULING_ROUND")) ∧
  (∀ (s : State), (∀ e ∈ s.tasks, s.overdue e.2 = false) → s.wokenTeams = [] → s.placeOrder = [] →
    let u := s.offerClusters.noteHolders.noteWaits.noteThrottle
    exec .schedulingRound s = .next { u with round := s.cycle, tasks := s.tasks.map u.countRound }) ∧
  (∀ (s : State) (t : Task) (site : Site), s.tasks = [(t.tid, t)] → t.state = .queued → t.fits = true → t.hold = false → t.lookup = none →
    (s.paddockAt t.p).en = true → s.offerClusters.noteHolders.siteFor t = some site →
    let u := ((s.offerClusters.noteHolders.placeAt t site).noteWaits).noteThrottle
    exec .schedulingRound s = .next { u with round := u.cycle, tasks := u.tasks.map u.countRound }) ∧
  ∀ (t : Task) (m core slot k : Nat), t.args.length ≤ 12 → (t.startCtx m core slot).pc = BitVec.ofNat 64 t.entry ∧
    (t.startCtx m core slot).xAt 2 = BitVec.ofNat 64 t.inst ∧ (t.startCtx m core slot).xAt 3 = BitVec.ofNat 64 t.ninst ∧
    (k < t.args.length → (t.startCtx m core slot).xAt (4 + k) = t.args.getD k 0) ∧
    (t.startCtx m core slot).member = m ∧ (t.startCtx m core slot).inTrap = false

/-- 01 R20, R21, R30 to R34, 13 R356, 21 R448, 22 R460: the halt of a soft pre-emption parks the team where shadow storage has room and
else turns hard, or, where the frames for that are too few, ends with RESULT 3 and the team runs on (log entry 140); an evacuation needs
its frames; a resumed team runs again; a team whose members have ended, with no operation left, completes, on its cores or off them; one
ending on a fault ends once what runs on has done so; a cluster is handed over to the next sharer; the debugger releases a team. Room,
places and evacuation layout are the model's choice (log entries 80, 81, 88). -/
def Obligations.PreemptionAndTaskEnd : Prop :=
  (∀ (s : State) (p seq : Nat) (t : Task) (hard : Bool),
    s.findTask p seq (fun t => match t.state with | .halting _ => true | _ => false) = some t → t.state = .halting hard →
    let short := s.freeEvac p < s.evacFrames t ∧ s.hardDue t.tid = false
    let u : State := { s with preempts := s.preempts.map fun (r : Preempt) => if r.tid = t.tid then { r with hard := true } else r }
    (hard = false → s.shadowRoom t = true →
      exec (.preemptionHalt p seq) s = .next (((s.haltEngines t.tid).park t.tid .soft).endPreempt t.tid 0)) ∧
    (hard = false → s.shadowRoom t = false → short →
      exec (.preemptionHalt p seq) s = .next ((s.setTask t.tid { t with state := .running, hold := false }).endPreempt t.tid 3)) ∧
    (hard = true ∨ s.shadowRoom t = false ∧ ¬short →
      exec (.preemptionHalt p seq) s = .next ((u.haltEngines t.tid).park t.tid (.hard false)))) ∧
  (∀ (s : State) (p seq : Nat) (t : Task), s.findTask p seq (fun t => t.state == .hard false) = some t → t.p = p →
    s.evacFrames t ≤ (s.paddockAt p).evac.length → ∃ r : State, exec (.evacuation p seq) s = .next r ∧
      (r.taskAt t.tid).state = .hard true ∧ (r.taskAt t.tid).evac = (s.paddockAt p).evac.take (s.evacFrames t) ∧
      (r.paddockAt p).evac = (s.paddockAt p).evac.drop (s.evacFrames t) ∧ (r.taskAt t.tid).seat = t.cores) ∧
  (∀ (s : State) (p seq : Nat) (t : Task), s.findTask p seq (fun t => !t.hold) = some t →
    (t.state = .soft → s.softSite t = true → exec (.taskResume p seq t.cluster) s =
      .next ((s.unpark t.tid).stampPlaced t.tid)) ∧
    (∀ cl site, t.state = .hard true → s.clusterSite t cl = some site → exec (.taskResume p seq cl) s = .next (s.resumeAt t site))) ∧
  (∀ (s : State) (cl h q since : Nat), amGet s.holders cl = some (h, since) → s.holderOf cl = some h →
    (s.paddockAt h).tsquant * 1700 ≤ s.cycle - since →
    (((s.teamsOn h cl).filter fun t => !s.hardDue t.tid).map s.evacFrames).sum ≤ s.freeEvac h →
    ((s.sharersAfter cl h).find? fun x =>
      ({ s.ifCleared h cl with holders := amSet (s.ifCleared h cl).holders cl (x, 0) } : State).couldPlace x cl) = some q →
    ∃ r : State, exec (.timeShareHandOver cl) s = .next r ∧ amGet r.holders cl = some (q, s.cycle)) ∧
  (∀ (s : State) (p seq : Nat) (t : Task), s.findTask p seq (fun t => t.started && !(s.ops.any fun o => o.tid == t.tid) &&
      !s.sendsLeft t.tid && t.cids.all fun cid => (s.ctxAt cid).ended) = some t →
    (t.xform = none → exec (.taskCompletion p seq) s =
      .next ((((s.flushTeam t.tid).endPreempt t.tid 0).dropTask t.tid).afterTask t.origin)) ∧
    (∀ c e es, t.xform = some c → t.tagFaults = e :: es → exec (.taskCompletion p seq) s = .next (s.endFaulted t e.flt))) ∧
  (∀ (s : State) (p seq : Nat) (t : Task) (f : FaultRec), s.findTask p seq (fun t => t.state == .ending) = some t → t.fault = some f →
    (∀ o ∈ s.ops, o.tid = t.tid → o.runsOn = false) → (∀ x ∈ s.sends, s.batchCid x.batch / 32 ≠ t.tid) →
    exec (.faultTaskEnd p seq) s = .next ((s.haltCopies t.tid).endFaulted t f)) ∧
  (∀ (s : State) (tid : Nat), amGet (s.dropTask tid).tasks tid = none ∧ (∀ o ∈ (s.dropTask tid).ops, o.tid ≠ tid)) ∧
  ∀ (s : State) (p seq : Nat) (t : Task), s.findTask p seq (fun t => t.debugHalt.isSome) = some t →
    exec (.debuggerRelease p seq) s = .next (s.setTask t.tid { t with debugHalt := none })

/-- No paddock takes notices of its frames' access counters, so none is written to host memory (21 R445). -/
def Sys2Proof.Machine.State.noNotices (s : Sys2Proof.Machine.State) : Prop := ∀ p, (s.paddockAt p).nq.en = false

namespace Sys2Proof.Machine

/-- From `s` to `r` the commands of a finished transfer have their answer in their slots of the control ring, RESULT, RETVAL and DONE
(21 R437). -/
def State.answers (s r : State) (x : Xfer) (result ret : Nat) : Prop :=
  ∀ k ∈ x.slots, let a := hostAddr (s.ctl.base.toNat + 64 * k)
    memNat r.mem (a + 2) 2 = result ∧ memNat r.mem (a + 40) 8 = ret ∧ memNat r.mem (a + 1) 1 % 2 = 1

/-- From `s` to `r`, those slots apart, the 65,536 bytes from `b` on are those that stood from `a` on, and no other byte has changed. -/
def State.movesFrame (s r : State) (x : Xfer) (a b : Nat) : Prop :=
  ∀ c, (∀ k ∈ x.slots, c < hostAddr (s.ctl.base.toNat + 64 * k) ∨ hostAddr (s.ctl.base.toNat + 64 * k) + 64 ≤ c) →
    memGet r.mem c = if b ≤ c ∧ c < b + 65536 then memGet s.mem (a + (c - b)) else memGet s.mem c

end Sys2Proof.Machine

/-- 02 R56 to R59, 21 R440, R442 to R447: a lease that can never be granted, or touches a frame that is not its paddock's, ends its task with
LS-05; leases with nothing against them and every frame resident are granted together; a frame that is offloaded is called back; a
transfer that finishes moves the frame's 64 KiB and answers its commands in the control ring; the notification queue's head is written,
its overflow cleared. -/
def Obligations.LeaseAndFrameSteps : Prop :=
  (∀ (s : State) (p seq : Nat) (t : Task), s.findTask p seq (fun t => t.state == .waitLeases &&
      (!t.leases.all (s.leaseOk p) || !s.leaseBlocked t)) = some t →
    let fs := t.leases.flatMap (s.leaseFrames p)
    ((∃ l ∈ t.leases, s.leaseOk p l = false) ∨ (∃ f ∈ fs, (s.frameAt f).owner ≠ p ∨ (s.frameAt f).state ∉ [1, 2]) →
      exec (.leaseGrant p seq) s = .next (s.setTask t.tid
        { t with state := .ending, leases := [], fault := some { cls := .LS, num := 5 } })) ∧
    ((∀ l ∈ t.leases, s.leaseOk p l = true) → (∀ f ∈ fs, (s.frameAt f).owner = p) →
      ((∀ f ∈ fs, (s.frameAt f).state = 1 ∧ amGet s.xfers f = none) → t.xform = none →
        exec (.leaseGrant p seq) s = .next (s.setTask t.tid { t with state := .queued })) ∧
      (∀ f q, fs = [f] → (s.frameAt f).state = 2 → amGet s.xfers f = none → s.spareFrame p = some q →
        ∃ r : State, exec (.leaseGrant p seq) s = .next r ∧ amGet r.xfers f = some ⟨.back q, []⟩ ∧
          r.frameAt f = { s.frameAt f with moving := true } ∧ r.tasks = s.tasks ∧ r.mem = s.mem))) ∧
  (∀ (s : State) (f q : Nat) (x : Xfer), amGet s.xfers f = some x → x.slots.Nodup → s.memCanonical → s.noNotices →
    let e := s.frameAt f
    let rest (r : State) : Prop := amGet r.xfers f = none ∧ (∀ g, g ≠ f → amGet r.xfers g = amGet s.xfers g) ∧
      ∀ g, g ≠ f → (r.frameAt g).state = (s.frameAt g).state ∧ (r.frameAt g).pframe = (s.frameAt g).pframe
    (x.kind = .back q → s.sound = true → q < 9437184 → ∃ r : State, exec (.frameReturn f true) s = .next r ∧
      r.frameAt f = { e with state := 1, pframe := q, hostAddr := 0, moving := false } ∧ rest r ∧ s.answers r x 0 q ∧
      s.movesFrame r x (hostAddr e.hostAddr) (hbmAddr q 0) ∧
      (r.paddockAt e.owner).spare = (s.paddockAt e.owner).spare.filter (· != q)) ∧
    (x.kind = .back q → ∃ r : State, exec (.frameReturn f false) s = .next r ∧ r.frameAt f = { e with moving := false } ∧ rest r ∧
      s.answers r x 5 0) ∧
    (x.kind = .migrate q → s.sound = true → q < 9437184 → ∃ r : State, exec (.migrationFlip f) s = .next r ∧
      r.frameAt f = { e with pframe := q, cnt := 0, noted := false, moving := false } ∧ rest r ∧ s.answers r x 0 0 ∧
      s.movesFrame r x (hbmAddr e.pframe 0) (hbmAddr q 0)) ∧
    (x.kind = .offload q → s.sound = true → ∃ r : State, exec (.offloadComplete f true) s = .next r ∧
      r.frameAt f = { e with state := 2, pframe := 0, hostAddr := q, cnt := 0, noted := false, moving := false } ∧ rest r ∧
      s.answers r x 0 0 ∧ s.movesFrame r x (hbmAddr e.pframe 0) (hostAddr q) ∧
      (r.paddockAt e.owner).spare = (s.paddockAt e.owner).spare ++ [e.pframe]) ∧
    (x.kind = .offload q → ∃ r : State, exec (.offloadComplete f false) s = .next r ∧ r.frameAt f = { e with moving := false } ∧ rest r ∧
      s.answers r x 5 0)) ∧
  (∀ (s : State) (p v : Nat), v < 65536 → ∃ r : State, exec (.nqhead p v) s = .next r ∧ (r.paddockAt p).nq.head = v ∧ r.mem = s.mem) ∧
  ∀ (s : State) (p : Nat), (∀ e ∈ s.frames, e.2.state = 1 → e.2.owner = p → (s.paddockAt p).nq.thresh = 0 ∨ e.2.cnt < (s.paddockAt p).nq.thresh) →
    ∃ r : State, exec (.noticeOvfClear p) s = .next r ∧ (r.paddockAt p).nq.ovf = false ∧ r.frames = s.frames

namespace Sys2Proof.Machine

/-- The slabs of a drain of the accumulators `acc`: 16 rows by 64 columns each, the last of a row or column of them smaller, in ascending
rows and then columns, each accumulator converted (06 R145; 03 R88). -/
def slabsHold (d : DrainSpec) (int bad : Bool) (acc : List (List (BitVec 48))) (sls : List Slab) : Prop :=
  let mr := acc.length
  let n := (acc.headD []).length
  let h := (n + 63) / 64
  sls.length = (mr + 15) / 16 * h ∧ ∀ a b, a < (mr + 15) / 16 → b < h →
    let sl := sls.getD (a * h + b) ⟨0, 0, 0, [], false⟩
    sl.fmt = d.fmt ∧ sl.nr = min 16 (mr - 16 * a) ∧ sl.nc = min 64 (n - 64 * b) ∧ sl.bad = bad ∧
      (d.rnd ≠ 1 → d.draws = [] → ∀ i < sl.nr, ∀ j < sl.nc, (sl.vals.getD i []).getD j 0 =
        encodeFmt d.fmt d.rnd (d.sat == 1) 0 (accNum int ((acc.getD (16 * a + i) []).getD (64 * b + j) 0)))

end Sys2Proof.Machine

/-- 06 R140 to R148, R156, 12 R319, R329: what the matrix array does with the oldest command of its queue: a load or a multiply starts, the
multiply with the starting values of its first chunk in the base store; a load fills the shadow plane with the tile's bytes and type; MSWAP
exchanges the planes; the last chunk of a multiply that does not drain leaves its sums in the accumulators; a chunk that drains, and
MDRAIN, turn them into slabs where their check passes, are replayed once where it fails, and end with AC-01 where it fails again; slabs
are pushed while the queue has room, and a drain that has waited more than 65,536 cycles ends with QU-01; a held follow-on enters. What the
check columns hold and that a flip waits for its check, or is undone by the replay, are the model's reading (log entry 13); that slabs of
one queue leave in the order of their commands is too (log entry 52). -/
def Obligations.MatrixArraySteps : Prop :=
  ∀ (s : State) (core id : Nat) (rest : List Nat) (o : Op) (c : MCmd) (g : MProg), (s.coreAt core).arr.mq = id :: rest →
    s.opAt id = some o → o.core = core → o.kind = .matrix c g → s.sound = true →
    let arr := (s.coreAt core).arr
    let ended (t : State) : Prop := t.ops = s.ops.filter (fun p => p.id != id) ∧ t.mem = s.mem
    let failed : Prop := ∃ r : State, exec (.mmulChunkEnd core) s = .next r ∧ ended r ∧
      (r.taskAt o.tid).tagFaults = (s.taskAt o.tid).tagFaults ++
        [⟨id, core, o.tag.getD 0, { cls := .AC, num := 1, fcmd := fcmdOf o }⟩]
    let begun : State := (s.actFor o).modOp id fun o => { o with started := true }
    (o.started = false → (∀ t w, c = .mlds t w → exec (.matrixCommandStart core) s = .next begun) ∧
      ∀ x, c = .mmul x →
        let first := 128 * g.chunk
        let mr := min 128 (x.m - first)
        let n := twExt arr.cur.tw 0
        let int := intAccum x.twA arr.cur.tw
        ∃ b : ArrayState, exec (.matrixCommandStart core) s = .next (begun.modArr core fun _ => b) ∧
          b = { arr with base := b.base, baseInt := b.baseInt, baseSat := b.baseSat, baseChk := b.baseChk, flips := [] } ∧
          (x.start = .cont → b.base = flipAcc arr.acc arr.flips ∧ b.baseInt = arr.accInt ∧ b.baseSat = arr.accSat ∧
            b.baseChk = arr.chk) ∧
          (x.start = .zero → b.base = List.replicate mr (List.replicate n (accRound int .zero)) ∧ b.baseInt = int) ∧
          (x.start = .addend → b.baseInt = int ∧ b.base.length = mr ∧ ∀ i < mr, (b.base.getD i []).length = n ∧ ∀ j < n,
            (b.base.getD i []).getD j 0 = accRound int (decodeFmt (twFmt x.twC)
              ((layOf x.twC).rawCode s.mem (tileAddr o.cid x.tc 0) [first + i, j])))) ∧
    (o.started = true → ∀ t w, c = .mlds t w → ∃ r : State, exec (.mldsLoadComplete core) s = .next r ∧ ended r ∧
      let img := memWrite [] 0 (memRead s.mem (tileAddr o.cid t 0) (layOf w).size)
      (r.coreAt core).arr = { arr with mq := arr.mq.filter (· != id), shadow := ⟨w, img, planeChk w img, false⟩ }) ∧
    (c = .mswap → ∃ r : State, exec (.mswapTakesEffect core) s = .next r ∧ ended r ∧
      (r.coreAt core).arr = { arr with mq := arr.mq.filter (· != id), cur := arr.shadow, shadow := arr.cur }) ∧
    (o.started = true → g.streamed = false → g.slabs = [] → ∀ x k, c = .mmul x → x.drain = none →
      s.chunkSums o.cid arr x (128 * g.chunk) (min 128 (x.m - 128 * g.chunk)) = .ok k →
      ∃ r : State, exec (.mmulChunkEnd core) s = .next r ∧ ended r ∧ (r.coreAt core).arr.acc = k.acc ∧
        (r.coreAt core).arr.flips = arr.flips.filter (fun f => f.1 < min 128 (x.m - 128 * g.chunk) && f.2.1 < twExt arr.cur.tw 0) ∧
        (r.coreAt core).arr.accSat = k.sat ∧ (r.coreAt core).arr.chk = k.chk ∧
        (r.coreAt core).arr.accInt = intAccum x.twA arr.cur.tw ∧ (r.coreAt core).arr.mq = arr.mq.filter (· != id)) ∧
    (o.started = true → g.streamed = false → g.slabs = [] → ∀ x d k, c = .mmul x → x.drain = some d →
      let first := 128 * g.chunk
      let mr := min 128 (x.m - first)
      let n := twExt arr.cur.tw 0
      let int := intAccum x.twA arr.cur.tw
      s.chunkSums o.cid arr x first mr = .ok k → k.acc.length = mr → (∀ r ∈ k.acc, r.length = n) → 0 < mr → 0 < n →
      let acc := flipAcc k.acc (arr.flips.filter fun f => f.1 < mr && f.2.1 < n)
      let fails := (checkRows int acc k.sat k.chk).1
      let bad := arr.cur.bad || (x.start == .cont && arr.accBad)
      (fails = true → g.retried = true → failed) ∧
      (fails = true → g.retried = false → ∃ r : State, exec (.mmulChunkEnd core) s = .next r ∧ r.mem = s.mem ∧
        (r.coreAt core).arr = { arr with flips := [] } ∧ r.opAt id = some { o with kind := .matrix c { g with retried := true } }) ∧
      (fails = false → ∃ (r : State) (sls : List Slab) (w : Option Nat), exec (.mmulChunkEnd core) s = .next r ∧ r.mem = s.mem ∧
        slabsHold d int bad acc sls ∧ (r.coreAt core).arr.acc = k.acc ∧ (r.coreAt core).arr.accInt = int ∧
        (d.q < arr.queues.length → g.retried = true → ((r.coreAt core).arr.queues.getD d.q .empty).retried = true) ∧
        r.opAt id = some { o with kind := .matrix c ⟨g.chunk + 1, decide (x.m ≤ first + mr), sls, w, false⟩ })) ∧
    (∀ d, c = .mdrain d → g.streamed = false → g.slabs = [] → 0 < arr.acc.length → 0 < (arr.acc.headD []).length →
      (∀ r ∈ arr.acc, r.length = (arr.acc.headD []).length) →
      let acc := flipAcc arr.acc arr.flips
      let fails := (checkRows arr.accInt acc arr.accSat arr.chk).1
      let e : Instr := if o.started then .mmulChunkEnd core else .matrixCommandStart core
      (fails = true → g.retried = true → o.started = true → failed) ∧
      (fails = true → g.retried = false → ∃ r : State, exec e s = .next r ∧ r.mem = s.mem ∧
        (r.coreAt core).arr = { arr with flips := [] } ∧
        r.opAt id = some { o with started := true, kind := .matrix c { g with retried := true } }) ∧
      (fails = false → ∃ (r : State) (sls : List Slab) (w : Option Nat), exec e s = .next r ∧ r.mem = s.mem ∧
        slabsHold d arr.accInt arr.accBad acc sls ∧ (r.coreAt core).arr.acc = arr.acc ∧
        r.opAt id = some { o with started := true, kind := .matrix c ⟨0, true, sls, w, false⟩ })) ∧
    (∀ x d sl sls, c = .mmul x → x.drain = some d → g.slabs = sl :: sls → d.q < arr.queues.length →
      ((arr.queues.getD d.q .empty).slabs.length < 16 → ∃ r : State, exec (.slabPush core) s = .next r ∧
        ((r.coreAt core).arr.queues.getD d.q .empty).slabs = (arr.queues.getD d.q .empty).slabs ++ [sl]) ∧
      (∀ w, g.waitSince = some w → 65536 < s.cycle - w → 16 ≤ (arr.queues.getD d.q .empty).slabs.length →
        ∃ r : State, exec (.drainWaitTimeout core) s = .next r ∧ ended r ∧
          (r.taskAt o.tid).tagFaults = (s.taskAt o.tid).tagFaults ++
            [⟨id, core, o.tag.getD 0, { cls := .QU, num := 1, fcmd := fcmdOf o }⟩])) ∧
    ∀ (f : Op) (h : List Nat) (t : Nat) (w : Word) (gf : MProg), (s.coreAt core).held = f.id :: h → s.opAt f.id = some f →
      (∃ k ∈ (s.coreAt core).slots, ∃ cid, k = some cid ∧ (s.ctxAt cid).tid = f.tid) → (∀ x, (s.taskAt f.tid).state ≠ .stabling x) →
      arr.mq.length < 16 → f.kind = .matrix (.mlds t w) gf → checkType true w = .ok () → s.checkMlds false w = .ok () → ∃ r : State, exec (.followOnEntry core) s = .next r ∧
        (r.coreAt core).arr.mq = arr.mq ++ [f.id] ∧ (r.coreAt core).arr.planShadow = w ∧ f.id ∉ (r.coreAt core).held

/-! ## The device's steps: engines (06 R152 to R169; 07 R176 to R179; 11 R292; 13 R340 to R349, R483) -/

namespace Sys2Proof.Machine

/-- The number that stands in a stretch of bits of memory: its first bit and its length. -/
def bitsOf (m : Memory) (b : Nat × Nat) : Nat := bits (memNat m (b.1 / 8) ((b.1 % 8 + b.2 + 7) / 8)) (b.1 % 8) b.2

/-- Byte `a` holds a bit of one of the stretches. -/
def within (bs : List (Nat × Nat)) (a : Nat) : Prop := ∃ b ∈ bs, b.1 / 8 ≤ a ∧ a < (b.1 + b.2 + 7) / 8

/-- No two stretches have a bit in common. -/
def apart (bs : List (Nat × Nat)) : Prop := bs.Pairwise fun x y => x.1 + x.2 ≤ y.1 ∨ y.1 + y.2 ≤ x.1

/-- What `f` reads of the state does not depend on the stretches. -/
def State.steady {α : Type} (s : State) (bs : List (Nat × Nat)) (f : State → α) : Prop :=
  ∀ m : Memory, (∀ a, ¬ within bs a → memGet m a = memGet s.mem a) → f { s with mem := m } = f s

/-- Nothing but the stretches of bits has changed. -/
def onlyWithin (bs : List (Nat × Nat)) (m m' : Memory) : Prop := ∀ a, ¬ within bs a → memGet m' a = memGet m a

/-- The bits of the element of a window at coordinates. -/
def State.spot (s : State) (d : WinDesc) (cs : List Nat) : List (Nat × Nat) := s.placeBits false (.win d) (.win cs, 0)

/-- The window is not compressed, and the elements at the coordinates can be written: they stand somewhere, no two in one place, and
where they stand is not written over. -/
structure State.writable (s : State) (d : WinDesc) (css : List (List Nat)) : Prop where
  plain : d.compressed = false
  placed : ∀ cs ∈ css, s.spot d cs ≠ []
  apart : apart (css.flatMap (s.spot d))
  steady : ∀ cs ∈ css, s.steady (css.flatMap (s.spot d)) fun u => u.spot d cs

/-- The operation has ended, with `fs` kept for the joins on its tag: its marks are gone with it, its tag's count has fallen by one. -/
def State.opEnds (s r : State) (o : Op) (fs : List FaultRec) : Prop :=
  r.ops = s.ops.filter (fun x => x.id != o.id) ∧
  (r.taskAt o.tid).tagFaults = (s.taskAt o.tid).tagFaults ++
    fs.map (fun f => ⟨o.id, o.core, o.tag.getD 0, { f with fcmd := fcmdOf o }⟩) ∧
  ∀ g, o.tag = some g → (r.taskAt o.tid).tagCount o.core g = (s.taskAt o.tid).tagCount o.core g - 1

/-- RC-04 for the operation: an earlier one of its task marks a block of a window that it marks too, one of them to write, not both as
atomic (07 R178, R179). -/
def State.clash (s : State) (o : Op) : Prop :=
  ∃ x ∈ s.ops, x.tid = o.tid ∧ x.id < o.id ∧ ∃ m ∈ o.marks, ∃ n ∈ x.marks, (∃ sp f, m.space = .frame sp f) ∧ m.space = n.space ∧
    m.lo ≤ n.hi ∧ n.lo ≤ m.hi ∧ (m.write = true ∨ n.write = true) ∧ ¬ (m.atomic = true ∧ n.atomic = true)

/-- The magnitude by which TCMPR compares: a NaN is greatest (12 R316). -/
def pruneMag (x : Num) : Num := if x.isNan then .inf false else x.abs

/-- The types of a tile-engine form as its issue admits them: valid, resolved, each within its home, the results LINEAR (12 R312 to R316). -/
structure TileCmd.typed (c : TileCmd) : Prop where
  source : typeFault false c.twA = none ∧ openExt c.twA = none ∧ (layOf c.twA).size ≤ 32768
  target : typeFault (match c.form with | .prune _ => true | _ => false) c.twD = none ∧ openExt c.twD = none ∧ twLayout c.twD = 0 ∧
    twView c.twD = false ∧ twComp c.twD = false ∧ (layOf c.twD).size ≤ 32768
  form : let a := layOf c.twA
    let d := layOf c.twD
    match c.form with
    | .reshape => d.fmt = a.fmt ∧ d.geom = 0 ∧ listProd d.ext = listProd a.ext
    | .cast => storageBits d.fmt = storageBits a.fmt ∧ d.geom = 0 ∧ d.ext = a.ext
    | .transpose => d.fmt = a.fmt ∧ d.geom = swapGeom a.geom ∧ d.ext = swapLast a.ext
    | .convert rnd _ => rnd ≠ 1 ∧ d.geom = 0 ∧ d.ext = a.ext
    | .quantise rnd => rnd ≠ 1 ∧ d.geom ≠ 0 ∧ d.ext = a.ext
    | .dequantise rnd _ => rnd ≠ 1 ∧ d.geom = 0 ∧ d.ext = a.ext
    | .prune e => e ≠ c.d ∧ d.fmt = a.fmt ∧ d.geom = a.geom ∧ a.geom ≤ 1 ∧ ∃ n k, k % 8 = 0 ∧ a.ext = [n, k] ∧ d.ext = [n, k / 2] ∧
        c.twE = mkType 2 0x10 0 0 0 [n, k / 8]

/-- What a tile-engine form of context `cid` leaves in its destination, element by element, where it draws nothing (12 R312 to R316; 03
R68, R75, R80, R89). -/
def TileCmd.holds (c : TileCmd) (cid : Nat) (m m' : Memory) : Prop :=
  let a := layOf c.twA
  let d := layOf c.twD
  let src (i : List Nat) : Nat := a.rawCode m (tileAddr cid c.a 0) i
  let val (i : List Nat) : Num := a.value (src i) (a.scale m (tileAddr cid c.a 0) i)
  let dst (i : List Nat) : Nat := d.rawCode m' (tileAddr cid c.d 0) i
  let scale (i : List Nat) : Nat := d.scale m' (tileAddr cid c.d 0) i
  let cut (v : Nat) : Nat := v % 2 ^ storageBits d.fmt
  match c.form with
  | .reshape => ∀ k < a.indices.length, dst (d.indices.getD k []) = cut (containerBits d.fmt (src (a.indices.getD k [])))
  | .cast => ∀ i ∈ d.indices, dst i = src i
  | .transpose => ∀ i ∈ d.indices, dst i = cut (containerBits d.fmt (src (swapLast i))) ∧
      scale i = a.scale m (tileAddr cid c.a 0) (swapLast i)
  | .convert rnd sat => ∀ i ∈ d.indices, dst i = cut (encodeFmt d.fmt rnd (sat == 1) 0 (decodeFmt a.fmt (src i)))
  | .dequantise rnd sat => ∀ i ∈ d.indices, dst i = cut (encodeFmt d.fmt rnd (sat == 1) 0 (val i))
  | .quantise rnd => ∀ b < d.blocks, let is := d.indices.filter fun i => d.blockAt i == b
      let q := quantBlock d.fmt rnd (is.map fun i => (decodeFmt a.fmt (src i), 0))
      is.map dst = q.2.map cut ∧ ∀ i ∈ is, scale i = q.1 % 256
  | .prune e => ∀ i < a.ext.getD 0 0, ∀ j < a.ext.getD 1 0 / 8, ∃ ks : List Nat, ks.length = 4 ∧ ks.Pairwise (· < ·) ∧ (∀ k ∈ ks, k < 8) ∧
      (∀ x ∈ ks, ∀ y < 8, y ∉ ks → let p := pruneMag (val [i, 8 * j + x])
        let q := pruneMag (val [i, 8 * j + y])
        p.lt false q = false ∧ (q.lt false p = false → x < y)) ∧
      (∀ u < 4, dst [i, 4 * j + u] = cut (containerBits d.fmt (src [i, 8 * j + ks.getD u 0])) ∧
        scale [i, 4 * j + u] = a.scale m (tileAddr cid c.a 0) [i, 8 * j]) ∧
      (layOf c.twE).rawCode m' (tileAddr cid e 0) [i, j] = ks.getD 0 0 + 8 * ks.getD 1 0 + 64 * ks.getD 2 0 + 512 * ks.getD 3 0

/-- The homes that a tile-engine form writes, as bits. -/
def TileCmd.areas (c : TileCmd) (cid : Nat) : List (Nat × Nat) :=
  (8 * tileAddr cid c.d 0, 8 * (layOf c.twD).size) :: (match c.form with
    | .prune e => [(8 * tileAddr cid e 0, 8 * (layOf c.twE).size)]
    | _ => [])

/-- The bits that a copy writes; of a tile its home. -/
def State.copyBits (s : State) (p : CopyPlan) : List (Nat × Nat) :=
  match p.dst with
  | .tile _ base t => [(8 * base, 8 * t.size)]
  | _ => p.writes.flatMap (s.placeBits false p.dst)

/-- A copy whose elements stand apart in a destination that is neither compressed nor scaled, and that does not write where they stand. -/
structure State.plainCopy (s : State) (p : CopyPlan) : Prop where
  shape : p.box ≠ [] ∧ p.m.raw = false ∧ sideGeom p.dst = 0 ∧ (p.m.kind = 6 → isWin p.dst = true)
  dst : match p.dst with
    | .win d => d.compressed = false
    | .tile _ base t => t.comp = false ∧ ∀ x ∈ p.writes, ∀ b ∈ s.placeBits false p.dst x, 8 * base ≤ b.1 ∧ b.1 + b.2 ≤ 8 * (base + t.size)
    | .chip _ => True
  apart : apart (p.writes.flatMap (s.placeBits false p.dst))
  steady : ∀ x ∈ p.writes, s.steady (s.copyBits p) fun u => u.placeBits false p.dst x

/-- The word `j` of the pairs of row `r` of a top-k copy (06 R155). -/
def State.pairBits (s : State) (p : CopyPlan) (r : List Nat) (j : Nat) : List (Nat × Nat) :=
  match p.dst with
  | .win _ => s.placeBits false p.dst (p.to_ (r ++ [j]), 4)
  | _ => match p.to_ (r ++ [0]) with
    | .chip a _ => [(8 * (a + 4 * j), 32)]
    | _ => []

/-- What a copy leaves in its destination, element by element (06 R151 to R157): fills; a converted element, rounded without a draw; a
transposed one by its container; an atomic one combined with what stood there; of a top-k row the k best values with their indices, the
lower index first among equals, then −Inf and all ones; any other element unchanged. -/
def State.copyHolds (s : State) (p : CopyPlan) (m' : Memory) : Prop :=
  let code (i : List Nat) : Except FaultRec Nat := s.placeCode false p.src p.sfmt (p.from_ i)
  let put (i : List Nat) (v : Nat → Nat) : Prop := ∀ b ∈ s.placeBits false p.dst (p.to_ i, storageBits p.dfmt / 8),
    bitsOf m' b = v (bitsOf s.mem b) % 2 ^ b.2
  (p.m.kind ≠ 7 → ∀ i ∈ p.indices,
    ((p.from_ i).isMasked = true → p.m.fill = true → put i fun _ => p.fillWord % 2 ^ min 32 (storageBits p.dfmt)) ∧
    ((p.from_ i).isMasked = false → ∀ v, code i = .ok v →
      (p.m.kind < 2 ∨ p.m.kind = 4 ∨ p.m.kind = 5 → put i fun _ => v) ∧
      (p.m.kind = 2 → p.m.rnd ≠ 1 → sideGeom p.src = 0 → put i fun _ => encodeFmt p.dfmt p.m.rnd p.m.sat 0 (decodeFmt p.sfmt v)) ∧
      (p.m.kind = 3 → put i fun _ => containerBits p.dfmt v) ∧
      (p.m.kind = 6 → put i fun old =>
        let x := decodeFmt p.dfmt old
        let y := decodeFmt p.dfmt v
        if p.m.atop = 0 then (if p.dfmt = 0x06 ∨ p.dfmt = 0x07 then old + v else encodeFmt p.dfmt 0 false 0 (x.add y))
        else encodeFmt p.dfmt 0 false 0 (pickNum (p.m.atop == 1) x y)))) ∧
  (p.m.kind = 7 → ∀ r ∈ p.rows, ∀ vs : Nat → Nat, let n := p.box.getLastD 0
    let seen := (List.range n).filter fun j => !(p.from_ (r ++ [j])).isMasked
    let key (j : Nat) : Num := decodeFmt p.sfmt (vs j)
    let ranks (j k : Nat) : Prop := before (key j, j) (key k, k) = true ∨ before (key k, k) (key j, j) = false ∧ j < k
    0 < n → (∀ j ∈ seen, code (r ++ [j]) = .ok (vs j)) →
    ∃ best : List Nat, best.length = min p.m.k seen.length ∧ (∀ j ∈ best, j ∈ seen) ∧ best.Pairwise ranks ∧
      (∀ j ∈ seen, j ∉ best → ∀ b ∈ best, ranks b j) ∧
      ∀ t < p.m.k, (∀ b ∈ s.pairBits p r (2 * t), bitsOf m' b =
          (if t < best.length then fp32.encode 0 false 0 (key (best.getD t 0)) else 0xFF800000) % 2 ^ b.2) ∧
        ∀ b ∈ s.pairBits p r (2 * t + 1), bitsOf m' b = (if t < best.length then best.getD t 0 else 0xFFFFFFFF) % 2 ^ b.2)

/-- A gather's rows stand packed in local scratch, one after another at its pitch (13 R350; 03 R68). -/
def State.gathHolds (s : State) (base n : Nat) (d : WinDesc) (idx : List Nat) (m' : Memory) : Prop :=
  ∀ i < n, ∀ c < d.ext.getD 1 0, ∀ v, s.winRead d [idx.getD i 0, c] = .ok v →
    bitsOf m' (8 * (base + i * gathPitch d) + c * storageBits d.fmt, storageBits d.fmt) = containerBits d.fmt v % 2 ^ storageBits d.fmt

/-- A pool's rows: the sum, the mean or the greatest of each column of its group, as FP32 (06 R168; 13 R352). -/
def poolHolds (m m' : Memory) (base op : Nat) (b : List Byte) (gs : List (List Nat)) : Prop :=
  ∀ g < poolG b, ∀ h < poolH b,
    let w := storageBits (poolFmt b) / 8
    let xs := (gs.getD g []).map fun o => decodeFmt (poolFmt b) (memNat m (base + o + h * w) w)
    let sum := rne32 (exactSum xs)
    memNat m' (base + poolOut b + g * poolOutPitch b + 4 * h) 4 = encodeFmt 0x09 0 false 0
      (if xs = [] then (if op = 2 then .inf true else .zero)
       else if op = 2 then xs.tail.foldl (pickNum true) (xs.headD .zero)
       else if op = 1 then rne32 (sum.div (.ofNat xs.length)) else sum) % 2 ^ 32

/-- The coordinates of rows `org` to `org + n − 1` of a window. -/
def rowSpots (org n w : Nat) : List (List Nat) := (List.range n).flatMap fun i => (List.range w).map fun h => [org + i, h]

/-- The bytes of a map record stand from `org` on in a window: version, counts, parent, flags, entries (06 R166). -/
def State.recordHolds (s : State) (d : WinDesc) (org : Nat) (r : MapRec) (m' : Memory) : Prop :=
  ∀ k < 64 + 2 * r.entries.length, ∀ b ∈ s.spot d [org + k], bitsOf m' b =
    if k < 4 then r.version / 256 ^ k % 256 else if k < 6 then r.norig / 256 ^ (k - 4) % 256
    else if k < 8 then r.nmerged / 256 ^ (k - 6) % 256 else if k < 12 then r.parent / 256 ^ (k - 8) % 256
    else if k = 12 then r.flags % 256 else if k < 64 then 0 else r.entries.getD ((k - 64) / 2) 0 / 256 ^ (k % 2) % 256

/-- The map of a matching of `n` tokens with merge count `r` (06 R164): each even token has the odd partner of greatest similarity, the
lowest on ties; the `r` of greatest similarity, the earlier first on ties, are merged into theirs; the others are numbered anew. -/
def matchMap (n r : Nat) (sim : Nat → Nat → Num) (map : List Nat) : Prop :=
  ∃ (partner : Nat → Nat) (merged : Nat → Bool),
    let even := (List.range n).filter (· % 2 == 0)
    let edge (i : Nat) : Num := sim i (partner i)
    (∀ i ∈ even, partner i < n ∧ partner i % 2 = 1 ∧ ∀ j < n, j % 2 = 1 → (edge i).lt false (sim i j) = false ∧
      (j < partner i → (sim i j).lt false (edge i) = true)) ∧
    (∀ i, merged i = true → i ∈ even) ∧ (even.filter merged).length = r ∧
    (∀ i ∈ even, ∀ k ∈ even, merged i = true → merged k = false → (edge i).lt false (edge k) = false ∧
      ((edge k).lt false (edge i) = false → i < k)) ∧
    map = (List.range n).map fun i =>
      ((List.range n).filter fun k => !merged k).idxOf (if merged i then partner i else i)

/-- What a yoke command leaves in its windows (06 R164 to R166). -/
def State.yokeHolds (s : State) (p : Nat) (c : YokeCmd) (m' : Memory) : Prop :=
  let b := c.blk
  let n := yokeN b
  match c.kind with
  | .retire => ∀ d, s.yokeWindow p b 3 = some d → s.writable d [[yokeMap b + 12]] → d.fmt = 3 →
      onlyWithin (s.spot d [yokeMap b + 12]) s.mem m' ∧
      ∀ x ∈ s.spot d [yokeMap b + 12], bitsOf m' x = bitsOf s.mem x ||| 1
  | .merge => ∀ f d r (rows : Nat → List Nat), s.yokeWindow p b 1 = some f → s.yokeWindow p b 2 = some d →
      s.yokeRecord p c = .ok (some r) → r.entries.length = n → c.sizes.length = n → let w := f.ext.getD 1 0
      (∀ i < n, s.getRow f (yokeForg b + i) w = .ok (rows i)) → let out := rowSpots (yokeOorg b) r.nmerged w
      s.writable d out → onlyWithin (out.flatMap (s.spot d)) s.mem m' ∧
      ∀ m < r.nmerged, ∀ h < w, ∀ x ∈ s.spot d [yokeOorg b + m, h],
        let into := (List.range n).filter fun i => r.entries.getD i 0 == m
        let top := rne32 (exactSum (into.map fun i => (Num.ofNat (c.sizes.getD i 0)).mul (decodeFmt f.fmt ((rows i).getD h 0))))
        bitsOf m' x = encodeFmt d.fmt 0 false 0 (rne32 (top.div (.ofNat (into.map fun i => c.sizes.getD i 0).sum))) % 2 ^ x.2
  | .unmerge => ∀ f d r (rows : Nat → List Nat), s.yokeWindow p b 1 = some f → s.yokeWindow p b 2 = some d →
      s.yokeRecord p c = .ok (some r) → r.entries.length = n → (∀ e ∈ r.entries, e < r.nmerged) → let w := f.ext.getD 1 0
      (∀ i < r.nmerged, s.getRow f (yokeForg b + i) w = .ok (rows i)) → let out := rowSpots (yokeOorg b) n w
      s.writable d out → onlyWithin (out.flatMap (s.spot d)) s.mem m' ∧
      ∀ i < n, ∀ h < w, ∀ x ∈ s.spot d [yokeOorg b + i, h],
        let v := (rows (r.entries.getD i 0)).getD h 0
        bitsOf m' x = (if f.fmt = d.fmt then v else encodeFmt d.fmt 0 false 0 (decodeFmt f.fmt v)) % 2 ^ x.2
  | .match_ r => ∀ key mw sw (q : Option MapRec) (rows : Nat → List Nat), s.yokeWindow p b 0 = some key →
      s.yokeWindow p b 3 = some mw → s.yokeWindow p b 5 = some sw → mw.fmt = 3 → sw.fmt = 7 →
      (∀ i < n, s.getRow key (yokeKorg b + i) (key.ext.getD 1 0) = .ok (rows i)) → s.yokeRecord p c = .ok q → 2 ≤ n →
      r ≤ (n + 1) / 2 → c.sizes.length = n →
      let map1 := (List.range (recordBytes n)).map fun k => [yokeMap b + k]
      let sizes := (List.range (n - r)).map fun k => [yokeSizes b + k]
      let map2 := match q with
        | some q => (List.range (recordBytes q.entries.length)).map fun k => [yokeComposed b + k]
        | none => []
      let all := (map1 ++ map2).flatMap (s.spot mw) ++ sizes.flatMap (s.spot sw)
      mw.compressed = false → sw.compressed = false → (∀ cs ∈ map1 ++ map2, s.spot mw cs ≠ []) → (∀ cs ∈ sizes, s.spot sw cs ≠ []) →
      apart all → (∀ cs ∈ map1 ++ map2, s.steady all fun u => u.spot mw cs) → (∀ cs ∈ sizes, s.steady all fun u => u.spot sw cs) →
      onlyWithin all s.mem m' ∧ ∃ map : List Nat,
        let vec (i : Nat) : List Num := (rows i).map (decodeFmt key.fmt)
        let norm (i : Nat) : Num := dot32 .zero (vec i) (vec i)
        matchMap n r (fun i j => simOf (vec i) (vec j) (norm i) (norm j)) map ∧
        s.recordHolds mw (yokeMap b) ⟨match q with | some q => (q.version + 1) % 2 ^ 32 | none => 1, n, n - r,
          match q with | some q => q.version | none => 0, 0, map⟩ m' ∧
        (∀ k < n - r, ∀ x ∈ s.spot sw [yokeSizes b + k], bitsOf m' x =
          (((List.range n).filter fun i => map.getD i 0 == k).map fun i => c.sizes.getD i 0).sum % 2 ^ 32) ∧
        ∀ q', q = some q' → s.recordHolds mw (yokeComposed b)
          ⟨(q'.version + 1) % 2 ^ 32, q'.norig, n - r, q'.version, 2, q'.entries.map fun e => map.getD e 0⟩ m'

end Sys2Proof.Machine

/-- 06 R152 to R157, R163 to R166, R168, 07 R176, R178, 12 R312 to R316, 13 R350, R352: an engine operation that meets no mark of an
earlier one starts; one that meets such a mark, and is no follow-on's copy, ends with RC-04, kept for the joins on its tag. At its
completion, one instant, its effect lands, its marks go and its tag's count falls: a tile-engine form, a copy, a gather, a pool and a yoke
command leave what TileCmd.holds, State.copyHolds, gathHolds, poolHolds and yokeHolds say, element by element, and change nothing
else. The instant of an operation is read by inference (log entry 31), the one RC-04 falls on too (log entry 42). -/
def Obligations.EngineSteps : Prop :=
  (∀ (s : State) (op : Nat) (o : Op), s.opAt op = some o → s.mayStartOp o = true →
    let u := s.actFor o
    let raced : Prop := ∃ (r : State) (f : FaultRec), exec (.copyStart op) s = .next r ∧ f.cls = .RC ∧ f.num = 4 ∧ s.opEnds r o [f] ∧
      r.mem = s.mem
    (∀ c, o.kind = .copy c → (¬ s.clash o → exec (.copyStart op) s = .next (u.startOp o)) ∧
      (s.clash o → c.follow = none → raced)) ∧
    (∀ c, o.kind = .tile c → exec (.copyStart op) s = .next (u.startOp o)) ∧
    (∀ b k, o.kind = .lpool b k → exec (.copyStart op) s = .next (u.startOp o)) ∧
    (∀ b n d, o.kind = .lgath b n → (s.clash o → raced) ∧ (¬ s.clash o → s.window (s.taskAt o.tid).p (gathWin b) = some d →
      (∀ i ∈ s.gathList o b n, i < d.ext.getD 0 0) → s.leaseCheck o.tid d true false (gathCoords d (s.gathList o b n)) = none →
      exec (.copyStart op) s = .next (u.startOp o)))) ∧
  (∀ (s : State) (op : Nat) (o : Op), s.opAt op = some o → (s.taskAt o.tid).served = true → o.started = true → s.sound = true →
    s.letsWrite o = true → s.memCanonical → s.noNotices →
    let u := s.actFor o
    (∀ c, o.kind = .tile c → ∃ r : State, exec (.copyCompletion op) s = .next r ∧ s.opEnds r o [] ∧
      (c.typed → onlyWithin (c.areas o.cid) s.mem r.mem ∧ (c.draws = [] → c.holds o.cid s.mem r.mem))) ∧
    (∀ c p w, o.kind = .copy c → c.follow = none → s.copyPlan (s.taskAt o.tid).p o.tid o.cid o.core c = some p →
      let v := u.l2Touch false false (u.copyIns p)
      v.copyEffect p c.draws c.rows = .ok w → ∃ r : State, exec (.copyCompletion op) s = .next r ∧ s.opEnds r o [] ∧ r.mem = w.mem ∧
      (v.plainCopy p → onlyWithin (v.copyBits p) s.mem r.mem ∧ (c.draws = [] → c.rows = 0 → v.copyHolds p r.mem))) ∧
    (∀ b k gs, o.kind = .lpool b k → poolGroups s.mem (s.lookupRegion o) b = some gs →
      let base := (s.lookupRegion o).base
      ∃ r : State, exec (.copyCompletion op) s = .next r ∧ s.opEnds r o [] ∧ poolHolds s.mem r.mem base k b gs ∧
        onlyWithin ((List.range (poolG b)).map fun g => (8 * (base + poolOut b + g * poolOutPitch b), 32 * poolH b)) s.mem r.mem) ∧
    (∀ b n d, o.kind = .lgath b n → s.window (s.taskAt o.tid).p (gathWin b) = some d →
      let base := (s.lookupRegion o).base + gathDst b
      let idx := s.gathList o b n
      let rows := (List.range n).map fun i => (8 * (base + i * gathPitch d), 8 * rowBytes (d.ext.getD 1 0) (storageBits d.fmt))
      let v := u.l2Touch false false (linesOf ((u.lookupRegion o).base + gathIdx b) (4 * n) ++ u.coordLines d (gathCoords d idx))
      (∀ i ∈ idx, ∀ c < d.ext.getD 1 0, (∃ x, v.winRead d [i, c] = .ok x) ∧ v.steady rows fun u => u.winRead d [i, c]) →
      ∃ r : State, exec (.copyCompletion op) s = .next r ∧ s.opEnds r o [] ∧ v.gathHolds base n d idx r.mem ∧
        onlyWithin rows s.mem r.mem)) ∧
  ∀ (s : State) (span : Nat) (o : Op) (c : YokeCmd), s.headYoke span = some (o, c) →
    let u := s.actAs (606 + span) o.tid
    let p := (s.taskAt o.tid).p
    (o.started = false → (s.taskAt o.tid).state ≠ .ending →
      (s.clash o → ∃ (r : State) (f : FaultRec), exec (.yokeCommandStart span) s = .next r ∧ f.cls = .RC ∧ f.num = 4 ∧
        s.opEnds r o [f] ∧ r.yokeQueue span = (s.yokeQueue span).drop 1 ∧ r.mem = s.mem) ∧
      (¬ s.clash o → u.yokeStart p o.tid c = .ok () →
        exec (.yokeCommandStart span) s = .next (u.modOp o.id fun o => { o with started := true }))) ∧
    (o.started = true → s.sound = true → s.letsWrite o = true → s.memCanonical → s.noNotices →
      let v := u.l2Touch false false (u.yokeLines p c false ++
        (u.yokeBoxes p c true).flatMap fun b => u.coordLines b.d (partCoords b.d b.coords))
      ∀ w, v.yokeEffect p c = .ok w →
      ∃ r : State, exec (.yokeCommandCompletion span) s = .next r ∧ s.opEnds r o [] ∧ r.mem = w.mem ∧
        r.yokeQueue span = (s.yokeQueue span).drop 1 ∧ v.yokeHolds p c r.mem)

/-- 11 R291, R292: a counter operation performs on its cell in one step, 8 bytes at the cell's address, and the reply, the old value,
reaches its register; one held back by an earlier one does not. 13 R340, 20 R434: GREAD reads a graph counter, GDEC lowers it by its
count, not below 0, and replies its old value; as it falls to 0 its node is dispatched, once. 06 R169, 13 R344 to R349: a
dispatched row leaves its queue; DFLUSH completes once every send of its batch has landed, DRECV once its cell holds the bound; a payload
that its receive expects fills the tile's home; a hand-off lands in the receiving team's cluster memory, and one to no task is discarded.
Replies of other modules are free values (log entry 10); which operations hold one back is read by inference (log entry 9). -/
def Obligations.CounterAndMessageSteps : Prop :=
  (∀ (s : State) (op : Nat) (o : Op) (c : CounterCmd), s.opAt op = some o → o.kind = .counter c → s.memCanonical →
     let held (c : CounterCmd) : Bool := s.heldBack o (OpKind.onCell c.module c.cell) (c.order.any (1 ≤ ·))
     (c.performed = false → held c = false → c.module = none →
       ∀ a, s.cellAddr (s.taskAt o.tid).p c.cell = some a → s.sound = true →
       let m : Word := BitVec.ofNat 64 (memNat s.mem a 8)
       let new := match c.act with
         | .add v => m + v
         | .swap v => v
         | .cas e v => if m = e then v else m
         | .min v => BitVec.ofInt 64 (min m.toInt v.toInt)
         | .max v => BitVec.ofInt 64 (max m.toInt v.toInt)
         | .load => m
       ∃ t : State, exec (.counterOperationPerform op) s = .next t ∧ memNat t.mem a 8 = new.toNat ∧ t.ctxs = s.ctxs ∧
         (∀ b, (b < a ∨ a + 8 ≤ b) → b < hostAddr 0 ∨ s.noNotices → memGet t.mem b = memGet s.mem b) ∧
         ∃ o' c', t.opAt op = some o' ∧ o'.kind = .counter c' ∧ c'.performed = true ∧ c'.reply = some m) ∧
     (c.performed = true ∨ held c = true → exec (.counterOperationPerform op) s = .fault (.notEnabled "COUNTER_OPERATION_PERFORM")) ∧
     (∀ v, c.reply = some v → ∃ t : State, exec (.counterReplyArrival op) s = .next t ∧ t.mem = s.mem ∧ t.opAt op = none ∧
       t.ctxAt o.cid = (s.ctxAt o.cid).deliver op v) ∧
     (c.module.isSome = true → c.reply = none → ∃ t : State, exec (.remoteTargetUnreachable op) s = .next t ∧ t.opAt op = none ∧
       (t.taskAt o.tid).state = .ending)) ∧
  ((∀ (s : State) (op : Nat) (o : Op) (g : GraphCmd), s.opAt op = some o → o.kind = .graph g → g.performed = false → g.amount = none →
     s.heldBack o (OpKind.onCounter g.inst g.c) false = false →
     ∃ t : State, exec (.graphCounterDecrement op) s = .next t ∧ t.mem = s.mem ∧
       ∀ i, amGet s.insts g.inst = some i → ∃ o' g', t.opAt op = some o' ∧ o'.kind = .graph g' ∧
         g'.reply = some (BitVec.ofNat 64 (i.counters.getD g.c 0))) ∧
   (∀ (s : State) (op k : Nat) (o : Op) (g : GraphCmd) (i : GraphInst), s.opAt op = some o → o.kind = .graph g →
     g.performed = false → g.amount = some k → s.heldBack o (OpKind.onCounter g.inst g.c) false = false →
     amGet s.insts g.inst = some i →
     let old := i.counters.getD g.c 0
     let j : GraphInst := { i with counters := i.counters.set g.c (old - min k old) }
     let u : State := { s with insts := amSet s.insts g.inst j }.modOp op fun o =>
       { o with kind := .graph { g with performed := true, reply := some (BitVec.ofNat 64 old) } }
     (old = 0 ∨ (k < old ∧ i.due = [] ∧ ∃ n ∈ i.dispatched, n ∉ i.finished) → exec (.graphCounterDecrement op) s = .next u) ∧
     (0 < old → old ≤ k → i.faulted = false → g.c ∉ i.dispatched → g.c ∉ i.finished → i.due = [] → ∀ v nd,
       s.graphVer i.p i.handle i.version = some v → v.nodes[g.c]? = some nd → ∃ t : State,
         exec (.graphCounterDecrement op) s = .next t ∧ t.mem = s.mem ∧ t.opAt op = u.opAt op ∧
         amGet t.insts g.inst = some { j with dispatched := g.c :: i.dispatched } ∧
         ∃ w, amGet t.tasks s.nextTid = some w ∧ w.p = i.p ∧ w.origin = .node g.inst g.c ∧
           (w.state = .waitLeases ∨ w.state = .ending))) ∧
   (∀ (s : State) (x : Send) (rest : List Send), s.sends = x :: rest →
     let cid := s.batchCid x.batch
     s.sendsBefore cid x.op = false → (∀ y ∈ rest, s.batchCid y.batch = cid → x.op ≤ y.op) →
     exec (.dispatchRowLanding x.op) s =
       .next (({ s with sends := rest }.actDispatch (s.ctxAt cid).core (cid / 32)).landSend (s.taskAt (cid / 32)).p x)) ∧
   (∀ (s : State) (op n : Nat) (o : Op), s.opAt op = some o → o.kind = .dflush n → s.sends = [] → amGet s.batches n = none →
     (∀ e ∈ s.ops, ∀ b r f m x, e.kind ≠ .dsend b r f m n x) → s.heldBack o (fun _ => true) true = false → exec (.dflushCompletion op) s = .next (s.finishOp o)) ∧
   (∀ (s : State) (op cell a : Nat) (bound : Word) (o : Op), s.opAt op = some o → o.kind = .drecv cell none bound →
     s.cellAddr (s.taskAt o.tid).p cell = some a → s.heldBack o (OpKind.onCell none cell) false = false →
     (bound.toNat ≤ memNat s.mem a 8 → exec (.dispatchWaitCompletion op) s =
       .next (((s.actDispatch o.core o.tid).l2Touch false false (linesOf a 8)).finishOp o)) ∧
     (memNat s.mem a 8 < bound.toNat → exec (.dispatchWaitCompletion op) s = .fault (.notEnabled "DISPATCH_WAIT_COMPLETION"))) ∧
   (∀ (s : State) (p seq m ch n : Nat) (w : Word) (bs : List Byte) (t : Task) (r : Op), s.bySeq p seq = some t → m < t.size →
     s.waitingReceive (t.tid * 32 + m) ch = some (r, n, w) → (∀ q ∈ t.inbox, ¬ (q.member = m ∧ q.channel = ch)) → t.takesIn = true →
     s.landingMet r.tid r.id ((layOf w).touch r.cid n) = none → s.sound = true →
     ∃ u : State, exec (.fabricPayloadArrival (.external p seq m ch w bs)) s = .next u ∧ s.opEnds u r [] ∧
       u.mem = memWrite s.mem (tileAddr r.cid n 0) (bs.take (layOf w).size)) ∧
   ∀ (s : State) (op : Nat) (o : Op) (b bs : List Byte) (held : Bool), s.opAt op = some o → o.kind = .lhand b bs held →
     (s.bySeq (s.taskAt o.tid).p (handSeq b) = none → exec (.handOffLanding op) s = .next (s.finishOp o)) ∧
     ∀ t core, s.bySeq (s.taskAt o.tid).p (handSeq b) = some t → t.cores = [core] → handMember b = 0 → 1 ≤ t.size → t.state = .running →
       (t.tagCount core (handTag b) = 0 → held = false → ∃ r : State, exec (.handOffLanding op) s = .next r ∧ r.mem = s.mem) ∧
       (t.tagCount core (handTag b) ≠ 0 → handTo b + handBytes b ≤ t.clusterSize → s.sound = true →
         { s with ops := s.ops.filter (·.id != o.id) }.landingMet t.tid o.id
           ((s.clusterOf t.tid).touch (handTo b) (handBytes b)) = none →
         ∃ r : State, exec (.handOffLanding op) s = .next r ∧ r.opAt op = none ∧
           r.mem = memWrite s.mem ((s.clusterOf t.tid).base + handTo b)
             (memRead s.mem ((s.lookupRegion o).base + handFrom b) (handBytes b))))

/-! ## The device's steps: rings and commands (20 R422 to R435; 21 R436 to R450) -/

namespace Sys2Proof.Machine

/-- It is ring `q`'s turn, and it has a record to fetch (20 R424). -/
def State.turnOf (s : State) (p q : Nat) : Prop :=
  ((List.range 4).map fun i => ((s.paddockAt p).turn + i) % 4).find? (s.ringDue p) = some q

/-- The state once the record is fetched: SQHEAD and the turn moved on (20 R424). -/
def State.fetched (s : State) (p q : Nat) : State :=
  (s.setPaddock p { s.paddockAt p with turn := (q + 1) % 4 }).setQp p q
    { s.qpAt p q with sqhead := ((s.qpAt p q).sqhead + 1) % 2 ^ (s.qpAt p q).sqlog }

/-- The state once the control ring's command is taken (21 R437). -/
def State.ctlTaken (s : State) : State := { s with ctl := { s.ctl with head := (s.ctl.head + 1) % 2 ^ s.ctl.log } }

end Sys2Proof.Machine

/-- 20 R423 to R435: doorbells within their ring are taken and others set an error bit; the ring whose turn it is has its record fetched:
it launches what its KIND says, or is rejected with the lowest reason that applies; a graph launch starts an instance of the version
named; SEAL answers a good graph with the lowest free handle and version 1, or the next version of the handle it names, and holds its
nodes; RETIRE marks the version, and frees it where no instance is left; an entry lies in its completion ring with the fields of R430.
The completion interrupt's timer fires once its time has passed. The reason given where several hold is read by inference (log entry
96), and that a record of no known KIND is answered in KERNEL_LAUNCH is the model's choice (log entry 95). -/
def Obligations.RingSteps : Prop :=
  (∀ (s : State) (p q v : Nat), v < 65536 →
    let r := s.qpAt p q
    let n := 2 ^ r.cqlog
    exec (.sqtail p q v) s = .next (s.setQp p q (if 2 ^ r.sqlog ≤ v then { r with sqerr := true } else { r with sqtail := v })) ∧
    (n ≤ v → exec (.cqhead p q v) s = .next (s.setQp p q { r with cqerr := true })) ∧
    (v < n → (v + n - r.cqhead) % n ≤ (r.cqtail + n - r.cqhead) % n → r.held = [] →
      exec (.cqhead p q v) s = .next (s.setQp p q { r with cqhead := v })) ∧
    (r.ien = true → r.ctime ≠ 0 → r.unsignalled ≠ 0 → r.ctime * 1700 ≤ s.cycle - r.firstAt →
      exec (.cqInterruptTimer p q) s = .next ((s.setQp p q { r with unsignalled := 0 }).interrupt (p + 1) r.vec))) ∧
  (∀ (s : State) (p : Nat) (e : Entry), s.memCanonical → e.ring < 4 →
    let c := (s.qpAt p e.ring).sqcq
    let r := s.qpAt p c
    let t := s.postEntry p e
    let a := hostAddr (r.cqbase.toNat + 64 * r.cqtail)
    let f (o n : Nat) : Nat := memNat t.mem (a + o) n
    c < (s.paddockAt p).qps.length → r.cqen = true → r.held = [] →
    ((r.cqtail + 1) % 2 ^ r.cqlog = r.cqhead → t.mem = s.mem ∧ (t.qpAt p c).held = [e]) ∧
    ((r.cqtail + 1) % 2 ^ r.cqlog ≠ r.cqhead → (t.qpAt p c).held = [] ∧ (t.qpAt p c).cqtail = (r.cqtail + 1) % 2 ^ r.cqlog ∧
      (∀ b, (b < a ∨ a + 64 ≤ b) → memGet t.mem b = memGet s.mem b) ∧
      f 0 2 = e.cmdid % 2 ^ 16 ∧ f 2 1 = e.status % 256 ∧ f 3 1 = r.phase.toNat + 2 * e.ring ∧
      f 4 2 = (s.qpAt p e.ring).sqhead % 2 ^ 16 ∧ f 6 2 = e.reason % 2 ^ 16 ∧ f 8 4 = e.seq % 2 ^ 32 ∧ f 12 4 = e.graph % 2 ^ 32 ∧
      f 16 2 = e.version % 2 ^ 16 ∧ f 18 6 = 0 ∧
      (e.flt = none → ∀ k < 5, f (24 + 8 * k) 8 = 0) ∧
      ∀ x, e.flt = some x → f 24 8 = x.causeWord.toNat ∧ f 32 8 = x.fdet.toNat ∧ f 40 8 = x.ftypeA.toNat ∧ f 48 8 = x.ftypeB.toNat ∧
        f 56 8 = x.fcmd.toNat)) ∧
  ∀ (s : State) (p q : Nat), s.turnOf p q →
    let b := s.record p q
    let s1 := s.fetched p q
    let kind := fieldAt b 2 1
    (kind = 0 ∨ 6 < kind → exec (.kernelLaunch p q) s = .next (s1.rejectRecord p q b 1)) ∧
    (∀ i, (i = .kernelLaunch p q ∧ kind = 1) ∨ (i = .lookupKernelLaunch p q ∧ kind = 2) ∨ (i = .transformLaunch p q ∧ kind = 3) →
      exec i s = .next (s1.launchRecord p q b) ∧
      (∀ k, (s1.recordReasons p false b).min? = some k → s1.launchRecord p q b = s1.rejectRecord p q b k) ∧
      (s1.recordReasons p false b = [] → ∃ t, amGet (s1.launchRecord p q b).tasks s.nextTid = some t ∧ t.p = p ∧
        t.origin = .launch s.nextLaunch ∧ (t.state = .waitLeases ∨ t.state = .ending))) ∧
    (kind = 4 → recordClear false b = true →
      (s1.namedVersion p (fieldAt b 32 4) (fieldAt b 36 2) true = none → exec (.graphLaunch p q) s = .next (s1.rejectRecord p q b 5)) ∧
      ∀ v g, s1.namedVersion p (fieldAt b 32 4) (fieldAt b 36 2) true = some v → s1.graphVer p (fieldAt b 32 4) v = some g →
        let counters := g.nodes.mapIdx fun n d => fieldAt d.record 38 2 + edgesInto g.nodes n
        exec (.graphLaunch p q) s = .next (({ (s1.newLaunch p q b (fieldAt b 32 4) v).1 with
          insts := amSet s.insts s.nextInst ⟨p, s.nextLaunch, fieldAt b 32 4, v, counters, [], [], false⟩,
          nextInst := s.nextInst + 1 } : State).runInst s.nextInst)) ∧
    (kind = 5 → let d := s1.hostBytes (fieldAt b 16 8) (fieldAt b 24 4)
      let prev := fieldAt d 4 4
      let versions (h : Nat) : AMap GraphVer := (amGet (s1.paddockAt p).graphs h).getD []
      (parseGraph d = none → ∃ k, exec (.seal p q) s = .next (s1.rejectRecord p q b k) ∧ 1 < k ∧ k ≤ 8) ∧
      ∀ (ns : List (List Byte × List Nat)) (level : Nat → Nat) (h v : Nat), parseGraph d = some ns → s1.recordReasons p false b = [] →
        s1.bufferRead b = true → (∀ n ∈ ns, s1.recordReasons p true n.1 = []) →
        (∀ i < ns.length, ∀ j ∈ (ns.getD i ([], [])).2, level i < level j) →
        (prev = 0 → 1 ≤ h ∧ h ≤ 1024 ∧ v = 1 ∧ (∀ e ∈ versions h, e.2.nodes = []) ∧
          ∀ k, 1 ≤ k → k < h → ∃ e ∈ versions k, e.2.nodes ≠ []) →
        (prev ≠ 0 → h = prev ∧ (∃ e ∈ versions h, e.2.nodes ≠ []) ∧ (∃ e ∈ versions h, e.1 + 1 = v) ∧ ∀ e ∈ versions h, e.1 < v) →
        ∃ u : State, exec (.seal p q) s = .next (u.postEntry p ⟨fieldAt b 0 2, 0, q, 0, 0, h, v, none⟩) ∧ u.mem = s.mem ∧
          u.tasks = s.tasks ∧ u.graphVer p h v = some ⟨ns.map fun n =>
            ⟨n.1, s1.hostBytes (fieldAt n.1 16 8) (min (fieldAt n.1 24 4) 4096), n.2⟩, false⟩ ∧
          (∀ p' h', (p', h') ≠ (p, h) → ∀ v', u.graphVer p' h' v' = s1.graphVer p' h' v') ∧
          (prev ≠ 0 → ∀ v', v' ≠ v → u.graphVer p h v' = s1.graphVer p h v')) ∧
    (kind = 6 → recordClear false b = true →
      (s1.namedVersion p (fieldAt b 32 4) (fieldAt b 36 2) false = none → exec (.retire p q) s = .next (s1.rejectRecord p q b 5)) ∧
      (∀ v g, s1.namedVersion p (fieldAt b 32 4) (fieldAt b 36 2) false = some v →
        s1.graphVer p (fieldAt b 32 4) (fieldAt b 36 2) = some g →
        let h := fieldAt b 32 4
        let w := fieldAt b 36 2
        ∃ u : State, exec (.retire p q) s = .next (u.postEntry p ⟨fieldAt b 0 2, 0, q, 0, 0, h, w, none⟩) ∧ v = w ∧ u.mem = s.mem ∧
          u.tasks = s.tasks ∧
          ((∀ e ∈ s.insts, ¬ (e.2.p = p ∧ e.2.handle = h ∧ e.2.version = w)) → u.graphVer p h w = some ⟨[], true⟩) ∧
          ((∃ e ∈ s.insts, e.2.p = p ∧ e.2.handle = h ∧ e.2.version = w) → u.graphVer p h w = some { g with retired := true }) ∧
          ∀ p' h' v', (p', h', v') ≠ (p, h, w) → u.graphVer p' h' v' = s1.graphVer p' h' v'))

/-- 21 R436 to R441, R450: the control ring's tail is written; the command at its head answers RESULT and RETVAL and sets DONE; the
commands on frames, windows, cells, cores and registers do what R438 says of them. Results in cases the list leaves open are read by
inference (log entry 93); that a command of no known opcode is answered in FMSET is the model's choice (log entry 95). -/
def Obligations.ControlRingImmediate : Prop :=
  (∀ (s : State) (v : Nat), v < 65536 → exec (.ctltail v) s = .next { s with ctl := { s.ctl with tail := v } }) ∧
  (∀ (s : State) (k r v : Nat), r < 65536 → v < 2 ^ 64 → s.memCanonical →
    let a := hostAddr (s.ctl.base.toNat + 64 * k)
    memNat (s.finishCtl k r v).mem (a + 2) 2 = r ∧ memNat (s.finishCtl k r v).mem (a + 40) 8 = v ∧
      memNat (s.finishCtl k r v).mem (a + 1) 1 % 2 = 1) ∧
  ∀ (s : State) (c : CtlCmd), s.ctlHead = some c →
    let s1 := s.ctlTaken
    let done (i : Instr) (r v : Nat) (t : State) : Prop := exec i s = .next (t.finishCtl c.slot r v)
    let d := s.paddockAt c.a
    let e := s.frameAt c.a
    (c.op = 0 ∨ 0x16 < c.op → done .fmset 1 0 s1) ∧
    (c.op = 1 → c.a < 2 ^ 24 → (e.moving = true ∨ s.frameLeased c.a = true → done .fmset 2 0 s1) ∧
      (e.moving = false → s.frameLeased c.a = false → s.badEntry c.a c.b = false → done .fmset 0 0 (s1.setFrame c.a (frameEntryOf c.b e)))) ∧
    (c.op = 2 → c.a < 2 ^ 24 → done .fmget 0 e.word s1) ∧
    (c.op = 3 → s.frameSpan c = true → s.hostFails c.c c.d = false →
      done .wrfrm 0 0 (((s1.actAs portUnit 0).l2Touch true true (linesOf (hbmAddr e.pframe c.b) c.d)).store (hbmAddr e.pframe c.b)
        (s.hostBytes c.c c.d))) ∧
    (c.op = 4 → s.frameSpan c = true → s.hostFails c.c c.d = false → s.sound = true →
      done .rdfrm 0 0 { (s1.actAs portUnit 0).l2Touch true false (linesOf (hbmAddr e.pframe c.b) c.d) with mem := memWrite s.mem (hostAddr c.c) (memRead s.mem (hbmAddr e.pframe c.b) c.d) }) ∧
    (c.op = 5 → c.a < 64 → c.b + 4 ≤ 2 ^ 24 → (∀ k < 4, s.pinnedBy c.a (c.b + k) = true) →
      done .wtset 0 0 (s1.setPaddock c.a { d with wt := some c.b })) ∧
    (c.op = 6 → done .inval (if c.a < 64 ∧ c.b < 4096 then 0 else 1) 0 s1) ∧
    (c.op = 10 → c.a < 64 → c.c ≤ 9437184 →
      (∀ k < c.c, s.unusedFrame (c.b + k) = true ∧ ∀ x ∈ s.paddocks, c.b + k ∉ x.2.spare) →
      done .pool 0 0 (s1.setPaddock c.a { d with
        spare := d.spare ++ (List.range c.c).map (c.b + ·), poolNoted := d.poolNoted && (List.range c.c).isEmpty })) ∧
    (c.op = 11 → c.a < 64 → c.b < 8 → s.pinnedBy c.a c.c = true →
      done .cells 0 0 (s1.setPaddock c.a { d with cells := amSet d.cells c.b c.c })) ∧
    (c.op = 12 → c.a < 64 → c.c ≤ 2 ^ 24 → (∀ k < c.c, c.b + k < 2 ^ 24 ∧ (s.frameAt (c.b + k)).state = 1 ∧
        (s.frameAt (c.b + k)).owner = c.a ∧ c.b + k ∉ d.evac ∧ ∀ x ∈ s.tasks, c.b + k ∉ x.2.evac) →
      done .evac 0 0 (s1.setPaddock c.a { d with evac := d.evac ++ (List.range c.c).map (c.b + ·) })) ∧
    (c.op = 17 → c.a < 48 → c.b < 64 → (∀ x ∈ (s.coreAt (384 + c.a)).slots, x = none) →
      done .lkassign 0 0 { s1 with lookups := amSet s.lookups c.a c.b }) ∧
    (c.op = 18 → c.a < 64 → c.b ≤ 1 → done .debug 0 0 (s1.setPaddock c.a { d with session := c.b == 1 })) ∧
    (c.op = 19 → c.a < 2 ^ 24 → done .ctrclr 0 0 (s1.setFrame c.a { e with cnt := 0, noted := false })) ∧
    (c.op = 20 → c.a < 64 → c.b < 1024 → c.c < 8192 → done .barmap 0 0 { s1 with
      bars := if 4096 ≤ c.c then amSet s.bars (4096 + c.a * 1024 + c.b) ⟨c.a, c.c % 4096, c.d⟩ else amDel s.bars (4096 + c.a * 1024 + c.b) })

/-- 21 R442, R446 to R450, R452 to R456: the commands that begin a transfer finish when it does; those on tasks pre-empt, resume, end or
read a task; ATTEST writes the report, FWSTAGE keeps an image that verifies. Results in cases the list leaves open are read by inference
(log entries 91, 94). -/
def Obligations.ControlRingTransfersAndTasks : Prop :=
  ∀ (s : State) (c : CtlCmd), s.ctlHead = some c →
    let s1 := s.ctlTaken
    let done (i : Instr) (r v : Nat) (t : State) : Prop := exec i s = .next (t.finishCtl c.slot r v)
    let e := s.frameAt c.a
    (c.op = 7 → (e.moving = true → done .migrate 2 0 s1) ∧
      (e.moving = false → c.a < 2 ^ 24 → e.state = 1 → s.unusedFrame c.b = true →
        exec .migrate s = .next (s1.startXfer c.a ⟨.migrate c.b, [c.slot]⟩))) ∧
    (c.op = 8 → c.a < 2 ^ 24 → c.b % 65536 = 0 →
      (e.pin = true ∨ e.moving = true ∨ s.frameLeased c.a = true → done .offload 2 0 s1) ∧
      (e.state = 1 → e.pin = false → e.moving = false → s.frameLeased c.a = false → (∀ l ∈ s.poison, l / 1024 ≠ e.pframe) →
        exec .offload s = .next (s1.startXfer c.a ⟨.offload c.b, [c.slot]⟩))) ∧
    (c.op = 9 → amGet s.xfers c.a = none → c.a < 2 ^ 24 →
      (e.state ≠ 2 → done .returnFrame 1 0 s1) ∧
      (e.state = 2 → s.unusedFrame c.b = true → exec .returnFrame s = .next (s1.startXfer c.a ⟨.back c.b, [c.slot]⟩))) ∧
    (∀ i, (i = .preempt ∧ c.op = 13) ∨ (i = .resume ∧ c.op = 14) ∨ (i = .endtask ∧ c.op = 15) ∨ (i = .ctxread ∧ c.op = 16) →
      s.taskNamed c = none → done i 6 0 s1) ∧
    (∀ t, s.taskNamed c = some t →
      (c.op = 13 → t.state = .running → t.lookup = none → (∀ r ∈ s.preempts, r.tid ≠ t.tid) → c.c = 0 →
        exec .preempt s = .next ((s1.setTask t.tid { t with hold := t.hold }).askPreempt t.tid false (some c.slot))) ∧
      (c.op = 14 → done .resume 0 0 (s1.setTask t.tid { t with hold := false })) ∧
      (c.op = 15 → done .endtask 0 0 ((s1.endPreempt t.tid 0).endTask t.tid { cls := .PV, num := 3 })) ∧
      (c.op = 16 → t.debugHalt.isSome = true → t.state = .running → c.c < t.size → s.hostFails c.d 2240 = false →
        done .ctxread 0 0 { s1 with mem := memWrite s.mem (hostAddr c.d) (s1.ctxImage (t.tid * 32 + c.c)) })) ∧
    (c.op = 21 → s.hostFails c.a 32 = false → s.hostFails c.b 8842 = false →
      done .attest 0 0 { s1 with mem := memWrite s.mem (hostAddr c.b) (s1.report (s.hostBytes c.a 32)) }) ∧
    (c.op = 22 → s.hostFails c.a c.b = false →
      (s.verifyImage (s.hostBytes c.a c.b) = none → done .fwstage 1 0 s1) ∧
      ∀ k img, s.verifyImage (s.hostBytes c.a c.b) = some (k, img) →
        done .fwstage 0 0 { s1 with boot := { s.boot with staged := amSet s.boot.staged k img } })

/-! ## Registers, power, errors, reset (20 R420 to R423; 22 R457 to R472; 23 R473 to R480; 01 R39) -/

namespace Sys2Proof.Machine

/-- By how much the power attributed to a paddock exceeds PWRSHARE/64 of PLIMIT, in sixty-fourths of a watt (22 R471). -/
def State.overShare (s : State) (p w : Nat) : Int := 64 * (w : Int) - ((s.paddockAt p).pwrShare * s.power.plimit : Nat)

/-- The credit of a waiting paddock at an arbiter: what is left of its share in the round, or its share where no paddock that waits has
any left (22 R465). -/
def State.credit (s : State) (arb : Nat) (ws : List Nat) (p : Nat) : Nat :=
  let left (q : Nat) : Nat := (amGet ((amGet s.arbs arb).getD .fresh).credit q).getD 0
  if ∃ q ∈ ws, q < 64 ∧ 0 < left q then left p
  else if arb < 24 then (s.paddockAt p).hbmShare else (s.paddockAt p).netShare

/-- A paddock that may have the slot: it waits, has credit, and is not held by its cap, of the last 1,023 slots 16 for each of its share
(22 R465, R466). -/
def State.takesGrant (s : State) (arb : Nat) (ws : List Nat) (p : Nat) : Prop :=
  p ∈ ws ∧ p < 64 ∧ 0 < s.credit arb ws p ∧
    let n := ((amGet s.arbs arb).getD .fresh).recent.count p
    if arb < 24 then (s.paddockAt p).hbmCap = true → n < 16 * (s.paddockAt p).hbmShare
    else (s.paddockAt p).netCap = true → n < 16 * (s.paddockAt p).netShare

end Sys2Proof.Machine

/-- 22 R457 to R459, R461, 23 R479, 00 R7: a paddock's registers take a legal value and refuse an illegal one with their error bit; a
read-only register ignores a write. 22 R465 to R472, 01 R39, R40: the power limit is held between 1,200 and 2,600 W; a sample
above 2,600 W slows every matrix array to point 5; a step above the limit slows the paddock of most excess, the lower number on ties,
its arrays one point, or once those are at 5 its cores; an island moves to a point it may have and to no other, the steps against it
stay; an arbiter's slot serves the next paddock in order that waits with credit and is not capped, or none; a register-cache line's power state changes no value. 22 R463, R464: a line that
its slice of the L2 holds is hit in any way, moves no line and becomes the most recently used; another fills a way of its owner's mask, at
the cost of at most the line that stood there; with no way none is held. 00 R7: registers read as they stand. Ignored writes and
idle slots are read by inference (log entries 100, 104), a line's set by the model's choice (log entry 122); offsets with a row of
their own in the table are not this one's (log entry 102). -/
def Obligations.RegistersPowerAndArbiters : Prop :=
  ((∀ (s : State) (p : Nat) (v : BitVec 64),
     let d := s.paddockAt p
     let f := bits v.toNat
     let m := v.setWidth 48
     (d.en = true → s.crowded p m = true → exec (.clmask p v) s = .next (s.setPaddock p { d with clErr := true })) ∧
     (d.en = false ∨ s.crowded p m = false → (∀ cl < 48, d.clmask.getLsbD cl = true → v.getLsbD cl = true) →
       exec (.clmask p v) s = .next (s.setPaddock p { d with clmask := m })) ∧
     (v.getLsbD 0 = false ∨ d.en = true ∨ s.crowded p d.clmask = false → exec (.paddockEn p v) s = .next (s.setPaddock p { d with
       en := v.getLsbD 0, clErr := d.clErr && !v.getLsbD 1, valErr := d.valErr && !v.getLsbD 2 })) ∧
     ((1 ≤ f 0 7 ∧ f 0 7 ≤ 64) ∧ (1 ≤ f 8 7 ∧ f 8 7 ≤ 64) ∧ (1 ≤ f 16 7 ∧ f 16 7 ≤ 64) ∧ 10 ≤ f 32 16 →
       exec (.paddockAllotmentWrite p 8 v) s = .next (s.setPaddock p { d with
         hbmShare := f 0 7, hbmCap := f 7 1 == 1, netShare := f 8 7, netCap := f 15 1 == 1, pwrShare := f 16 7, ptop := f 24 3,
         tsquant := f 32 16 })) ∧
     (f 32 16 < 10 → exec (.paddockAllotmentWrite p 8 v) s = .next (s.setPaddock p { d with valErr := true })) ∧
     exec (.paddockAllotmentWrite p 16 v) s = .next (s.setPaddock p
       (if f 0 13 ≤ 4096 ∧ f 16 3 ≤ 4 then { d with winMax := f 0 13, qpMax := f 16 3 } else { d with valErr := true }))) ∧
   (∀ (s : State) (v : Nat), v < 65536 → exec (.elhead v) s = .next { s with elog := { s.elog with head := v } }) ∧
   (∀ (s : State) (v : BitVec 64), s.ctl.en = false →
     exec (.registerWrite 0 v) s = .next { s with ctl := { s.ctl with base := BitVec.ofNat 64 (v.toNat / 64 * 64) } }) ∧
   (∀ (s : State) (off : Nat) (v : BitVec 64), off % 8 = 0 → off = 0x18 ∨ (0x1000 ≤ off ∧ off < 0x1080) ∨ off = 0x2000 ∨ off = 0x3008 ∨
     (0x3400 ≤ off ∧ off < 0x3600) ∨ (0x20000 ≤ off ∧ off < 0x24000) → exec (.registerWrite off v) s = .next s) ∧
   ∀ (s : State) (off : Nat) (v : BitVec 64), off % 8 = 0 → off < 16777216 → ∃ t : State, exec (.registerWrite off v) s = .next t ∧
     t.mem = s.mem ∧ t.ctxs = s.ctxs ∧ t.tasks = s.tasks ∧ t.ops = s.ops ∧ t.frames = s.frames) ∧
  ((∀ (s : State) (v : BitVec 64), ∃ t : State, exec (.plimit v) s = .next t ∧ t = { s with power := t.power } ∧
     t.power.plimit = max 1200 (min 2600 (v.toNat % 4096)) ∧ t.power.samples = s.power.samples ∧ t.power.points = s.power.points ∧
     t.power.emerg = (s.power.emerg && decide (t.power.plimit ≤ s.power.now))) ∧
   (∀ (s : State) (w : Nat), ∃ t : State, exec (.powerSample w) s = .next t ∧ t.power.samples = (w :: s.power.samples).take 100 ∧
     t.power.plimit = s.power.plimit ∧ t.mem = s.mem ∧
     (2600 < w → t.power.emerg = true ∧ ∀ c < 384, s.topPoint (c / 8) ≤ 5 → t.point (384 + c) = 5) ∧
     (w ≤ 2600 → t.power.points = s.power.points)) ∧
   (∀ (s : State) (ws : List (Nat × Nat)),
     (s.power.plimit < s.power.now → ∀ p w, (p, w) ∈ ws → p < 64 → (∀ e ∈ ws, e.1 < 64 →
         s.overShare e.1 e.2 < s.overShare p w ∨ (s.overShare e.1 e.2 = s.overShare p w ∧ p ≤ e.1)) →
       ∃ t : State, exec (.powerStep ws) s = .next t ∧ t.mem = s.mem ∧ t.tasks = s.tasks ∧ ∀ i,
         t.point i = if (if ∀ c ∈ s.coresOf p, 5 ≤ s.point (384 + c) then i ∈ s.coresOf p else ∃ c ∈ s.coresOf p, i = 384 + c)
           then max (s.point i) (min 5 (s.point i + 1)) else s.point i) ∧
     (s.power.now ≤ s.power.plimit → s.power.low ≤ 100 ∨ s.power.emerg = true →
       ∃ t : State, exec (.powerStep ws) s = .next t ∧ t.power = s.power ∧ t.mem = s.mem ∧ t.tasks = s.tasks)) ∧
   (∀ (s : State) (i pt : Nat), ((i < 1024 ∧ pt < 8 ∧ (1020 ≤ i → pt = 0) ∧ (s.stepsOf i ≠ 0 → s.point i ≤ pt) ∧
       (s.power.emerg = true → 384 ≤ i → i < 768 → 5 ≤ pt) ∧
       (∀ cl, islandCluster i = some cl → s.topPoint cl ≤ pt ∧ (5 < pt → s.clusterBusy cl = false))) →
       ∃ t : State, exec (.islandOperatingPointChange i pt) s = .next t ∧ t = { s with power := t.power } ∧ t.point i = pt ∧
         t.stepsOf i = s.stepsOf i ∧ ∀ j, j ≠ i → t.point j = s.point j ∧ t.stepsOf j = s.stepsOf j) ∧
     (1024 ≤ i ∨ 7 < pt ∨ (1020 ≤ i ∧ pt ≠ 0) ∨ (s.stepsOf i ≠ 0 ∧ pt < s.point i) ∨
       (s.power.emerg = true ∧ 384 ≤ i ∧ i < 768 ∧ pt < 5) ∨ (∃ cl, islandCluster i = some cl ∧ (pt < s.topPoint cl ∨ (5 < pt ∧ s.clusterBusy cl = true))) →
       exec (.islandOperatingPointChange i pt) s = .fault (.notEnabled "ISLAND_OPERATING_POINT_CHANGE"))) ∧
   (∀ (s : State) (arb : Nat) (ws : List Nat),
     let a := (amGet s.arbs arb).getD .fresh
     let able := s.takesGrant arb ws
     (∀ i < 64, let p := (a.last + 1 + i) % 64
       able p → (∀ j < i, ¬ able ((a.last + 1 + j) % 64)) → ∃ (r : State) (b : Arb), amGet r.arbs arb = some b ∧ r = { s with arbs := r.arbs } ∧
         (∀ k, k ≠ arb → amGet r.arbs k = amGet s.arbs k) ∧ b.last = p ∧ b.recent = (p :: a.recent).take 1023 ∧
         (∀ q ∈ ws, q < 64 → (amGet b.credit q).getD 0 = s.credit arb ws q - if q = p then 1 else 0) ∧
         (arb < 24 → exec (.arbiterGrant arb ws none) s = .next r ∧
           ∀ f, s.frameAtArb arb p f = true → exec (.arbiterGrant arb ws (some f)) s = .next r) ∧
         (24 ≤ arb → exec (.arbiterGrant arb ws none) s = .next (r.telemetry p 6 1))) ∧
     ((∀ p < 64, ¬ able p) → ∃ (r : State) (b : Arb), exec (.arbiterGrant arb ws none) s = .next r ∧ amGet r.arbs arb = some b ∧
       r = { s with arbs := r.arbs } ∧ b.last = a.last ∧ b.recent = (64 :: a.recent).take 1023)) ∧
   (∀ (s : State) (core : Nat) (id : LineId) (st : LinePower), core < 384 → (lineId id).2 < cacheSize (lineId id).1 →
     let l := (s.coreAt core).line (lineId id).1 (lineId id).2
     l.used < s.cycle ∨ l.holds = none ∨ st = .refreshing ∨ st = .operating →
     ∃ t : State, exec (.cacheLinePowerState core id st) s = .next t ∧ t.ctxs = s.ctxs ∧
       (t.coreAt core).arr = (s.coreAt core).arr ∧ (t.coreAt core).slots = (s.coreAt core).slots ∧
       ((t.coreAt core).line (lineId id).1 (lineId id).2).power = st ∧ (st ≠ .gated → t.mem = s.mem) ∧
       (st = .gated → ((t.coreAt core).line (lineId id).1 (lineId id).2).holds = none ∧
         ∀ cid r, (lineId id).1 = false → l.holds = some (cid, r) → l.dirty = true → s.memCanonical →
           memRead t.mem (runAddr cid r 0) (packImage ((s.ctxAt cid).vAt r)).length = packImage ((s.ctxAt cid).vAt r)))) ∧
  (∀ (s : State) (host write : Bool) (line f p : Nat), s.frameOfLine line = some (f, p) →
    let slice := homeSlice (line * 128)
    let held := (amGet s.l2 slice).getD []
    let ways := maskWays ((s.paddockAt p).wayMask slice)
    let t := s.l2Access host write line
    t.ctxs = s.ctxs ∧ t.tasks = s.tasks ∧ t.ops = s.ops ∧
    (∀ e, held.find? (·.line == line) = some e → t.mem = s.mem ∧ t.frames = s.frames ∧
      t.l2 = amSet s.l2 slice ({ e with dirty := e.dirty || write } :: held.filter (·.line != line))) ∧
    (held.find? (·.line == line) = none → ways = [] → t.l2 = s.l2) ∧
    (held.find? (·.line == line) = none → ways ≠ [] → ∃ e rest, amGet t.l2 slice = some (e :: rest) ∧ e.line = line ∧ e.owner = p ∧
      e.dirty = write ∧ e.way ∈ ways ∧ (∀ x ∈ rest, x ∈ held) ∧
      ∀ x ∈ held, x ∈ rest ∨ ∃ v ∈ held, v.line = x.line ∧ v.set = e.set ∧ v.way = e.way)) ∧
  ∀ (s : State) (p : Nat), p < 64 →
    s.registerRead (0x8000 + 128 * p) = (s.paddockAt p).clmask.toNat ∧
    s.registerRead (0x8010 + 128 * p) = (s.paddockAt p).winMax + 65536 * (s.paddockAt p).qpMax ∧
    (∀ k < 10, s.registerRead (0x20000 + 256 * p + 8 * k) = (s.paddockAt p).tele.getD k 0) ∧
    s.registerRead 0x10 = 0 ∧ s.registerRead 0x3000 = s.power.plimit

/-- 20 R420, R421, 21 R438, R454, 23 R475, R480: module reset leaves no task, context, queue or mapping, and the memories as they are; a
function-level reset disables a paddock's queues and ends its tasks; a host access through a window BAR reads all ones where nothing is
mapped and drops such a write; a scrub settles its line, poisoned where a code word cannot be corrected; a soft error changes only what
it names. That memories stay and no entry is posted are read by inference (log entries 98, 99, 103), and which flips a code corrects
(log entry 132); the numbers of registers and of lines in other memories are the model's (log entries 28, 133). -/
def Obligations.ResetHostAccessAndErrors : Prop :=
  (∀ s : State, ∃ t : State, exec .moduleReset s = .next t ∧ t.mem = s.mem ∧ t.ctxs = [] ∧ t.tasks = [] ∧ t.ops = [] ∧ t.frames = [] ∧
    t.paddocks = [] ∧ t.launches = [] ∧ t.bars = [] ∧ t.cycle = 0 ∧ (t.boot.stage = 3 ∨ t.boot.stage = 4) ∧
    ∀ i, t.ready.testBit i = true → i < 642 ∧ Config.selfTest i = true) ∧
  (∀ (s : State) (vf : Nat), 1 ≤ vf → vf ≤ 64 → ∃ t : State, exec (.functionLevelReset vf) s = .next t ∧
    (∀ r ∈ (t.paddockAt (vf - 1)).qps, r.sqen = false ∧ r.cqen = false ∧ r.held = []) ∧ (∀ e ∈ t.launches, e.2.p ≠ vf - 1) ∧
    ∀ e ∈ s.tasks, e.2.p = vf - 1 → (t.taskAt e.1).state = .ending) ∧
  (∀ (s : State) (pf : Bool) (p addr n : Nat) (bs : List Byte), (∀ i, s.barPlace pf p i = none) →
    exec (.windowBarAccess pf p addr (.read n)) s = .next { s.actAs portUnit 0 with cpl := some (List.replicate n 0xFF, false) } ∧
    exec (.windowBarAccess pf p addr (.write bs)) s = .next (s.actAs portUnit 0)) ∧
  (∀ (s : State) (pf : Bool) (p addr a n : Nat), (∀ i < n, s.barPlace pf p (addr + i) = some (a + i)) → s.sound = true →
    ∃ t : State, exec (.windowBarAccess pf p addr (.read n)) s = .next t ∧ t.cpl = some (memRead s.mem a n, false) ∧ t.mem = s.mem) ∧
  (∀ (s : State) (pf : Bool) (p addr a : Nat) (bs : List Byte), s.barPlace pf p addr = some a → s.sound = true → bs ≠ [] →
    addr % 64 + bs.length ≤ 64 → ∃ t : State, exec (.windowBarAccess pf p addr (.write bs)) s = .next t ∧
      t.mem = memWrite s.mem a bs ∧ t.ctxs = s.ctxs) ∧
  (∀ (s : State) (line : Nat), (amGet s.latent line = none → exec (.scrubRead line) s = .next (s.actAs (s.unitOfLine line) 0)) ∧
    ∀ bits, amGet s.latent line = some bits → (∀ b ∈ bits, b < 512) →
      let lost : Prop := if inHbm line then ∃ a ∈ bits, ∃ b ∈ bits, a / 16 ≠ b / 16 else ∃ w, 1 < (bits.filter (· / 64 == w)).length
      ∃ t : State, exec (.scrubRead line) s = .next t ∧ t.ctxs = s.ctxs ∧ t.tasks = s.tasks ∧ amGet t.latent line = none ∧
        (∀ l, l ≠ line → amGet t.latent l = amGet s.latent l) ∧ ∀ l, l ∈ t.poison ↔ l ∈ s.poison ∨ (l = s.dataLine line ∧ lost)) ∧
  ∀ (s : State) (line bit core row col slot reg cid : Nat),
    (line < 2 ^ 140 ∨ s.lineThere line = true → ∃ t : State, exec (.softError (.memory line bit)) s = .next t ∧
      t = { s with latent := t.latent } ∧ (∀ l, l ≠ line → amGet t.latent l = amGet s.latent l) ∧
      ∀ b, b ∈ (amGet t.latent line).getD [] ↔
        if b = bit % 512 then b ∉ (amGet s.latent line).getD [] else b ∈ (amGet s.latent line).getD []) ∧
    (s.lineThere line = false → exec (.softError (.memory line bit)) s = .fault (.notEnabled "SOFT_ERROR")) ∧
    (s.memCanonical → let a := line * 64 + bit / 8 % 64
      ∃ t : State, exec (.softError (.dataPath line bit)) s = .next t ∧ t = { s with mem := t.mem, badSeal := t.badSeal } ∧
        memGet t.mem a = memGet s.mem a ^^^ BitVec.ofNat 8 (2 ^ (bit % 8)) ∧ (∀ b, b ≠ a → memGet t.mem b = memGet s.mem b) ∧
        t.checkWord line = s.checkWord line ∧ (lineCrc t.mem line = s.checkWord line ↔ amGet t.badSeal line = none) ∧
        ∀ l, l ≠ line → amGet t.badSeal l = amGet s.badSeal l) ∧
    (∃ t : State, exec (.softError (.accumulator core row col bit)) s = .next t ∧ t = { s with cores := t.cores } ∧
      (∀ c, c ≠ core → t.coreAt c = s.coreAt c) ∧
      let k := s.coreAt core
      t.coreAt core = { k with arr := { k.arr with flips := k.arr.flips ++ [(row % 128, col % 128, bit % 48)] } }) ∧
    ((s.coreAt core).slots.getD slot none = some cid → ∃ (t : State) (d : List Nat),
      exec (.softError (.registerFile core slot reg)) s = .next t ∧ t = { s with ctxs := t.ctxs } ∧
      (∀ c, c ≠ cid → t.ctxAt c = s.ctxAt c) ∧ t.ctxAt cid = { s.ctxAt cid with damaged := d } ∧
      ∀ r, r ∈ d ↔ r = reg ∨ r ∈ (s.ctxAt cid).damaged)

/-! ## Normal execution -/

namespace Sys2Proof.Machine

/-- The word completes: it answers a next state in which nothing has stopped its bundle. -/
def State.completes (s : State) (i : Instr) : Prop := ∃ t, exec i s = .next t ∧ t.bun.isOpen = true ∧ t.bun.stop = none

/-- No fault of an engine waits for a join on the core of the context in issue (00 R9). -/
def State.joinsClean (s : State) : Prop := ∀ f ∈ s.task.tagFaults, f.core ≠ s.ctx.core

end Sys2Proof.Machine

/-- Where the spec has a word execute normally, it completes: 09 R234, R237 (a loop with room in the stack; a stream inside core scratch,
aligned, over lines that can be read, not decreasing), R242, R243 (a wait whose tags are complete), R246 to R250 (every register that the
core has), 11 R293 (a fence with nothing left to wait for), R289 to R292 (an operation on a cell that the paddock has), 13 R340, R345, R357,
R358, 12 R306 to R309, R318 to R326 (types valid, dimensions in range, room in the queue and the tag), 10 R265 to R267 (a queue with a sound
slab; lanes inside their slices). -/
def Obligations.WordsComplete : Prop :=
  (∀ (s : State) (g d a b n off : Nat), s.canRun .control g → s.readable a → s.readable b →
    (s.ctx.loops.length < 4 → s.completes (.loop g a off) ∧ s.completes (.loopi g n off)) ∧
    (∀ o : Nat, s.ctx.loops.length < 4 → s.ctx.trav = none → (s.xval a).toNat = o → o % 4 = 0 → (s.xval b).toNat ≤ 4095 →
      let reg := s.scratchOf s.ctx.tid s.ctx.core
      let r := (s.xval b).toNat
      o + 4 * (r + 1) ≤ reg.size → s.raceCore [⟨reg.space, o / 64, (o + 4 * (r + 1) - 1) / 64, 0⟩] [] = .ok () →
      (∀ l ∈ linesOf (reg.base + o) (4 * (r + 1)), s.lineBad l (inRead (reg.base + o) (4 * (r + 1)) l) = false) →
      nonDecreasing ((List.range (r + 1)).map fun i => memNat s.mem (reg.base + o + 4 * i) 4) = true →
      s.completes (.loopt g d a b off)) ∧
    (s.joinsClean →
      let tags := s.task.tagsWord s.ctx.core
      (tags &&& s.xval a ≠ 0 ∨ s.xval a = 0 → s.completes (.waitany g d a)) ∧
      (tags &&& s.xval a = s.xval a → s.completes (.waitall g d a)) ∧ s.completes (.ffrdy g d a) ∧
      (s.ctx.core < 384 ∨ csrOnLookup n = true → s.completes (.csrr g d n)) ∧
      ((∀ k < 16, (s.xval a).getLsbD k = true → k < s.task.tiles ∧ s.tileWriters k = []) → s.completes (.regwb g a))) ∧
    (s.ctx.core < 384 ∨ csrOnLookup n = true → s.completes (.csrw g a n) ∧ s.completes (.csrs g a n) ∧ s.completes (.csrc g a n)) ∧
    s.completes (.lqry g d a)) ∧
  (∀ (s : State) (g ord scope : Nat), s.canRun .fence g → (scope ≤ 2 ∨ ∀ o ∈ s.ops, o.unperformed = false) →
    s.completes (.fence g ord scope)) ∧
  (∀ (s : State) (i : Instr) (g d a b sc od oo : Nat) (f : Word → Word → CellAct), counterWord i = some (g, d, a, b, sc, od, oo, f) →
    s.canRun .cell g → s.readable a → s.readable b → s.readable d → (s.xval a).toNat < 65536 →
    s.cellAddr s.task.p (s.xval a).toNat ≠ none → s.completes i) ∧
  (∀ (s : State) (g d a b t x m clr set tag v : Nat) (imm : Imm), s.canRun .eMain g → s.readable a → s.readable b →
    (s.tilesFree [t] → s.completes (.tgett g d t) ∧
      (s.xval a = 0 ∨ (twRank (s.xval a) ≠ 0 ∧ typeFault true (s.xval a) = none ∧
        (openExt (s.xval a) ≠ none ∨ (layOf (s.xval a)).size ≤ 32768)) → s.completes (.tsett g t a))) ∧
    (1 ≤ (s.xval a).toNat → (s.xval a).toNat ≤ 511 → s.completes (.drebind g d a) ∧
      (s.ctx.dAt d = none ∨ s.ctx.dAt d = some (s.xval a).toNat → s.completes (.dbind g d a))) ∧
    s.completes (.dclr g m) ∧ s.completes (.dget g d x) ∧ s.completes (.mxw g x a) ∧ s.completes (.mxr g d x) ∧
    s.completes (.cew g x a) ∧ s.completes (.cewi g x imm) ∧ s.completes (.cer g d x) ∧ s.completes (.cerst g) ∧
    s.completes (.ystat g d) ∧
    (∀ inst, s.task.instance_ = some inst → (s.xval a).toNat < 4096 → s.completes (.gread g d a) ∧
      (1 ≤ (s.xval b).toNat → (s.xval b).toNat ≤ 65535 → (∀ o ∈ s.ops, o.unperformed = false) → s.completes (.gdec g d a b))) ∧
    (s.tagRoom tag 1 → s.completes (.dflush g tag) ∧
      (s.matrixRoom s.ctx.tid s.ctx.core = true → s.completes (.mswap g tag) ∧
        ∀ q fmt sat, fmt ≤ 0x0E → (s.coreAt s.ctx.core).arr.planValid = true → s.completes (.mdrain g q tag fmt 0 sat)))) ∧
  ∀ (s : State) (g d q tag a b : Nat), s.canRun .vector g → s.readable b →
    let v := s.ctx.vAt a
    let w := s.ctx.vAt b
    let n := (s.xval b).toNat
    (∀ sl rest, ((s.coreAt s.ctx.core).arr.queues.getD q .empty).slabs = sl :: rest → sl.bad = false → s.completes (.vpopq g d q)) ∧
    (s.sound = true → v.tag.isInt = true → 1 ≤ n →
      (∀ l < 16, chain (v.row l) ≠ 0 → (elemAt (v.row l) 0).toNat % 4 = 0 ∧ (elemAt (v.row l) 0).toNat + 4 * n ≤ s.ctx.sliceSize) →
      (∀ l < 16, (runsOf (readWords s.mem (laneAddr s.ctx.core l (s.ctx.sliceBase + (elemAt (v.row l) 0).toNat)) n)).length ≤ 64) →
      s.completes (.vldl g tag d a b)) ∧
    (s.sound = true → (∀ l < 16, chain (v.row l) ≠ 0 → chain (w.row l) ≠ 0 ∧ (elemAt (w.row l) 0).toNat % 4 = 0 ∧
        (elemAt (w.row l) 0).toNat + 4 * chain (v.row l) ≤ s.ctx.sliceSize) → s.completes (.vstl g a b))
end

