-- ==== Sys2Proof/Laws/Maps.lean ====
section
/-! SUPPORT. Laws of the finite maps and of the access to contexts, tasks, cores, paddocks and frames. -/
namespace Sys2Proof.Machine

theorem amGet_amSet_self {α : Type} (m : AMap α) (k : Nat) (v : α) : amGet (amSet m k v) k = some v := by
  induction m with
  | nil => simp [amSet, amGet]
  | cons e m ih =>
    obtain ⟨k', v'⟩ := e
    simp only [amSet]
    split
    · simp [amGet]
    · split
      · simp [amGet]
      · rename_i h; simp [amGet, h, ih]

theorem amGet_amSet_of_ne {α : Type} (m : AMap α) {k j : Nat} (v : α) (h : j ≠ k) : amGet (amSet m k v) j = amGet m j := by
  induction m with
  | nil => simp [amSet, amGet, h]
  | cons e m ih =>
    obtain ⟨k', v'⟩ := e
    simp only [amSet]
    split
    · simp [amGet, h]
    · split
      · rename_i h'; subst h'; simp [amGet, h]
      · simp [amGet, ih]

theorem amGet_amDel_self {α : Type} (m : AMap α) (k : Nat) : amGet (amDel m k) k = none := by
  induction m with
  | nil => rfl
  | cons e m ih =>
    obtain ⟨k', v'⟩ := e
    by_cases h : k' = k
    · simpa [amDel, h] using ih
    · have h' : ¬ k = k' := fun e => h e.symm
      simpa [amDel, h, amGet, h'] using ih

theorem amGet_amDel_of_ne {α : Type} (m : AMap α) {k j : Nat} (h : j ≠ k) : amGet (amDel m k) j = amGet m j := by
  induction m with
  | nil => rfl
  | cons e m ih =>
    obtain ⟨k', v'⟩ := e
    by_cases h' : k' = k
    · subst h'; simpa [amDel, amGet, h] using ih
    · have ih' : amGet (List.filter (fun e => e.1 != k) m) j = amGet m j := ih
      simp [amDel, h', amGet, ih']

@[simp] theorem State.ctxAt_setCtx_self (s : State) (cid : Nat) (c : Ctx) : (s.setCtx cid c).ctxAt cid = c := by
  simp [State.ctxAt, State.setCtx, amGet_amSet_self]

theorem State.ctxAt_setCtx_of_ne (s : State) {cid j : Nat} (c : Ctx) (h : j ≠ cid) : (s.setCtx cid c).ctxAt j = s.ctxAt j := by
  simp [State.ctxAt, State.setCtx, amGet_amSet_of_ne _ _ h]

@[simp] theorem State.taskAt_setTask_self (s : State) (tid : Nat) (t : Task) : (s.setTask tid t).taskAt tid = t := by
  simp [State.taskAt, State.setTask, amGet_amSet_self]

theorem State.taskAt_setTask_of_ne (s : State) {tid j : Nat} (t : Task) (h : j ≠ tid) : (s.setTask tid t).taskAt j = s.taskAt j := by
  simp [State.taskAt, State.setTask, amGet_amSet_of_ne _ _ h]

@[simp] theorem State.coreAt_setCore_self (s : State) (c : Nat) (k : CoreSt) : (s.setCore c k).coreAt c = k := by
  simp [State.coreAt, State.setCore, amGet_amSet_self]

theorem State.coreAt_setCore_of_ne (s : State) {c j : Nat} (k : CoreSt) (h : j ≠ c) : (s.setCore c k).coreAt j = s.coreAt j := by
  simp [State.coreAt, State.setCore, amGet_amSet_of_ne _ _ h]

@[simp] theorem State.paddockAt_setPaddock_self (s : State) (p : Nat) (k : Paddock) : (s.setPaddock p k).paddockAt p = k := by
  simp [State.paddockAt, State.setPaddock, amGet_amSet_self]

theorem State.paddockAt_setPaddock_of_ne (s : State) {p j : Nat} (k : Paddock) (h : j ≠ p) :
    (s.setPaddock p k).paddockAt j = s.paddockAt j := by
  simp [State.paddockAt, State.setPaddock, amGet_amSet_of_ne _ _ h]

@[simp] theorem State.frameAt_setFrame_self (s : State) (f : Nat) (e : FrameEntry) : (s.setFrame f e).frameAt f = e := by
  simp [State.frameAt, State.setFrame, amGet_amSet_self]

theorem State.frameAt_setFrame_of_ne (s : State) {f j : Nat} (e : FrameEntry) (h : j ≠ f) :
    (s.setFrame f e).frameAt j = s.frameAt j := by
  simp [State.frameAt, State.setFrame, amGet_amSet_of_ne _ _ h]

/-- The context in issue after it has been written is the one written. -/
@[simp] theorem State.ctx_putCtx (s : State) (c : Ctx) : (s.putCtx c).ctx = c := State.ctxAt_setCtx_self s s.me c

@[simp] theorem State.ctx_setTask (s : State) (tid : Nat) (t : Task) : (s.setTask tid t).ctx = s.ctx := rfl

@[simp] theorem State.ctx_setCore (s : State) (c : Nat) (k : CoreSt) : (s.setCore c k).ctx = s.ctx := rfl

@[simp] theorem State.ctx_setPaddock (s : State) (p : Nat) (k : Paddock) : (s.setPaddock p k).ctx = s.ctx := rfl

@[simp] theorem State.task_putTask (s : State) (t : Task) : (s.putTask t).task = t := by
  simp [State.task, State.putTask]

/-- A result posted joins the context's results in flight; nothing else changes. -/
@[simp] theorem State.ctx_post (s : State) (L : Nat) (r : Result) : (s.post L r).ctx = s.ctx.post L r := by
  simp [State.post]

end Sys2Proof.Machine
end

