-- ==== Sys2Proof/Laws/State.lean ====
section
/-! SUPPORT. What each update of the state leaves alone: one lemma for a field and an update. -/
namespace Sys2Proof.Machine

@[simp] theorem State.setCtx_module (s : State) (cid : Nat) (c : Ctx) : (s.setCtx cid c).module = s.module := rfl
@[simp] theorem State.setCtx_me (s : State) (cid : Nat) (c : Ctx) : (s.setCtx cid c).me = s.me := rfl
@[simp] theorem State.setCtx_focus (s : State) (cid : Nat) (c : Ctx) : (s.setCtx cid c).focus = s.focus := rfl
@[simp] theorem State.setCtx_agenda (s : State) (cid : Nat) (c : Ctx) : (s.setCtx cid c).agenda = s.agenda := rfl
@[simp] theorem State.setCtx_bun (s : State) (cid : Nat) (c : Ctx) : (s.setCtx cid c).bun = s.bun := rfl
@[simp] theorem State.setCtx_freeCtr (s : State) (cid : Nat) (c : Ctx) : (s.setCtx cid c).freeCtr = s.freeCtr := rfl
@[simp] theorem State.setCtx_nextOp (s : State) (cid : Nat) (c : Ctx) : (s.setCtx cid c).nextOp = s.nextOp := rfl
@[simp] theorem State.setCtx_nextTid (s : State) (cid : Nat) (c : Ctx) : (s.setCtx cid c).nextTid = s.nextTid := rfl
@[simp] theorem State.setCtx_cycle (s : State) (cid : Nat) (c : Ctx) : (s.setCtx cid c).cycle = s.cycle := rfl
@[simp] theorem State.setCtx_mem (s : State) (cid : Nat) (c : Ctx) : (s.setCtx cid c).mem = s.mem := rfl
@[simp] theorem State.setCtx_poison (s : State) (cid : Nat) (c : Ctx) : (s.setCtx cid c).poison = s.poison := rfl
@[simp] theorem State.setCtx_badSeal (s : State) (cid : Nat) (c : Ctx) : (s.setCtx cid c).badSeal = s.badSeal := rfl
@[simp] theorem State.setCtx_sealer (s : State) (cid : Nat) (c : Ctx) : (s.setCtx cid c).sealer = s.sealer := rfl
@[simp] theorem State.setCtx_latent (s : State) (cid : Nat) (c : Ctx) : (s.setCtx cid c).latent = s.latent := rfl
@[simp] theorem State.setCtx_l2 (s : State) (cid : Nat) (c : Ctx) : (s.setCtx cid c).l2 = s.l2 := rfl
@[simp] theorem State.setCtx_round (s : State) (cid : Nat) (c : Ctx) : (s.setCtx cid c).round = s.round := rfl
@[simp] theorem State.setCtx_unit (s : State) (cid : Nat) (c : Ctx) : (s.setCtx cid c).unit = s.unit := rfl
@[simp] theorem State.setCtx_tasks (s : State) (cid : Nat) (c : Ctx) : (s.setCtx cid c).tasks = s.tasks := rfl
@[simp] theorem State.setCtx_cores (s : State) (cid : Nat) (c : Ctx) : (s.setCtx cid c).cores = s.cores := rfl
@[simp] theorem State.setCtx_ops (s : State) (cid : Nat) (c : Ctx) : (s.setCtx cid c).ops = s.ops := rfl
@[simp] theorem State.setCtx_yokes (s : State) (cid : Nat) (c : Ctx) : (s.setCtx cid c).yokes = s.yokes := rfl
@[simp] theorem State.setCtx_sends (s : State) (cid : Nat) (c : Ctx) : (s.setCtx cid c).sends = s.sends := rfl
@[simp] theorem State.setCtx_batches (s : State) (cid : Nat) (c : Ctx) : (s.setCtx cid c).batches = s.batches := rfl
@[simp] theorem State.setCtx_frames (s : State) (cid : Nat) (c : Ctx) : (s.setCtx cid c).frames = s.frames := rfl
@[simp] theorem State.setCtx_paddocks (s : State) (cid : Nat) (c : Ctx) : (s.setCtx cid c).paddocks = s.paddocks := rfl
@[simp] theorem State.setCtx_elog (s : State) (cid : Nat) (c : Ctx) : (s.setCtx cid c).elog = s.elog := rfl
@[simp] theorem State.setCtx_irq (s : State) (cid : Nat) (c : Ctx) : (s.setCtx cid c).irq = s.irq := rfl
@[simp] theorem State.setCtx_hostBad (s : State) (cid : Nat) (c : Ctx) : (s.setCtx cid c).hostBad = s.hostBad := rfl
@[simp] theorem State.setCtx_launches (s : State) (cid : Nat) (c : Ctx) : (s.setCtx cid c).launches = s.launches := rfl
@[simp] theorem State.setCtx_nextLaunch (s : State) (cid : Nat) (c : Ctx) : (s.setCtx cid c).nextLaunch = s.nextLaunch := rfl
@[simp] theorem State.setCtx_insts (s : State) (cid : Nat) (c : Ctx) : (s.setCtx cid c).insts = s.insts := rfl
@[simp] theorem State.setCtx_nextInst (s : State) (cid : Nat) (c : Ctx) : (s.setCtx cid c).nextInst = s.nextInst := rfl
@[simp] theorem State.setCtx_ctl (s : State) (cid : Nat) (c : Ctx) : (s.setCtx cid c).ctl = s.ctl := rfl
@[simp] theorem State.setCtx_xfers (s : State) (cid : Nat) (c : Ctx) : (s.setCtx cid c).xfers = s.xfers := rfl
@[simp] theorem State.setCtx_preempts (s : State) (cid : Nat) (c : Ctx) : (s.setCtx cid c).preempts = s.preempts := rfl
@[simp] theorem State.setCtx_bars (s : State) (cid : Nat) (c : Ctx) : (s.setCtx cid c).bars = s.bars := rfl
@[simp] theorem State.setCtx_holders (s : State) (cid : Nat) (c : Ctx) : (s.setCtx cid c).holders = s.holders := rfl
@[simp] theorem State.setCtx_lookups (s : State) (cid : Nat) (c : Ctx) : (s.setCtx cid c).lookups = s.lookups := rfl
@[simp] theorem State.setCtx_ready (s : State) (cid : Nat) (c : Ctx) : (s.setCtx cid c).ready = s.ready := rfl
@[simp] theorem State.setCtx_boot (s : State) (cid : Nat) (c : Ctx) : (s.setCtx cid c).boot = s.boot := rfl
@[simp] theorem State.setCtx_power (s : State) (cid : Nat) (c : Ctx) : (s.setCtx cid c).power = s.power := rfl
@[simp] theorem State.setCtx_arbs (s : State) (cid : Nat) (c : Ctx) : (s.setCtx cid c).arbs = s.arbs := rfl
@[simp] theorem State.setCtx_cpl (s : State) (cid : Nat) (c : Ctx) : (s.setCtx cid c).cpl = s.cpl := rfl

@[simp] theorem State.setTask_module (s : State) (tid : Nat) (t : Task) : (s.setTask tid t).module = s.module := rfl
@[simp] theorem State.setTask_me (s : State) (tid : Nat) (t : Task) : (s.setTask tid t).me = s.me := rfl
@[simp] theorem State.setTask_focus (s : State) (tid : Nat) (t : Task) : (s.setTask tid t).focus = s.focus := rfl
@[simp] theorem State.setTask_agenda (s : State) (tid : Nat) (t : Task) : (s.setTask tid t).agenda = s.agenda := rfl
@[simp] theorem State.setTask_bun (s : State) (tid : Nat) (t : Task) : (s.setTask tid t).bun = s.bun := rfl
@[simp] theorem State.setTask_freeCtr (s : State) (tid : Nat) (t : Task) : (s.setTask tid t).freeCtr = s.freeCtr := rfl
@[simp] theorem State.setTask_nextOp (s : State) (tid : Nat) (t : Task) : (s.setTask tid t).nextOp = s.nextOp := rfl
@[simp] theorem State.setTask_nextTid (s : State) (tid : Nat) (t : Task) : (s.setTask tid t).nextTid = s.nextTid := rfl
@[simp] theorem State.setTask_cycle (s : State) (tid : Nat) (t : Task) : (s.setTask tid t).cycle = s.cycle := rfl
@[simp] theorem State.setTask_mem (s : State) (tid : Nat) (t : Task) : (s.setTask tid t).mem = s.mem := rfl
@[simp] theorem State.setTask_poison (s : State) (tid : Nat) (t : Task) : (s.setTask tid t).poison = s.poison := rfl
@[simp] theorem State.setTask_badSeal (s : State) (tid : Nat) (t : Task) : (s.setTask tid t).badSeal = s.badSeal := rfl
@[simp] theorem State.setTask_sealer (s : State) (tid : Nat) (t : Task) : (s.setTask tid t).sealer = s.sealer := rfl
@[simp] theorem State.setTask_latent (s : State) (tid : Nat) (t : Task) : (s.setTask tid t).latent = s.latent := rfl
@[simp] theorem State.setTask_l2 (s : State) (tid : Nat) (t : Task) : (s.setTask tid t).l2 = s.l2 := rfl
@[simp] theorem State.setTask_round (s : State) (tid : Nat) (t : Task) : (s.setTask tid t).round = s.round := rfl
@[simp] theorem State.setTask_unit (s : State) (tid : Nat) (t : Task) : (s.setTask tid t).unit = s.unit := rfl
@[simp] theorem State.setTask_ctxs (s : State) (tid : Nat) (t : Task) : (s.setTask tid t).ctxs = s.ctxs := rfl
@[simp] theorem State.setTask_cores (s : State) (tid : Nat) (t : Task) : (s.setTask tid t).cores = s.cores := rfl
@[simp] theorem State.setTask_ops (s : State) (tid : Nat) (t : Task) : (s.setTask tid t).ops = s.ops := rfl
@[simp] theorem State.setTask_yokes (s : State) (tid : Nat) (t : Task) : (s.setTask tid t).yokes = s.yokes := rfl
@[simp] theorem State.setTask_sends (s : State) (tid : Nat) (t : Task) : (s.setTask tid t).sends = s.sends := rfl
@[simp] theorem State.setTask_batches (s : State) (tid : Nat) (t : Task) : (s.setTask tid t).batches = s.batches := rfl
@[simp] theorem State.setTask_frames (s : State) (tid : Nat) (t : Task) : (s.setTask tid t).frames = s.frames := rfl
@[simp] theorem State.setTask_paddocks (s : State) (tid : Nat) (t : Task) : (s.setTask tid t).paddocks = s.paddocks := rfl
@[simp] theorem State.setTask_elog (s : State) (tid : Nat) (t : Task) : (s.setTask tid t).elog = s.elog := rfl
@[simp] theorem State.setTask_irq (s : State) (tid : Nat) (t : Task) : (s.setTask tid t).irq = s.irq := rfl
@[simp] theorem State.setTask_hostBad (s : State) (tid : Nat) (t : Task) : (s.setTask tid t).hostBad = s.hostBad := rfl
@[simp] theorem State.setTask_launches (s : State) (tid : Nat) (t : Task) : (s.setTask tid t).launches = s.launches := rfl
@[simp] theorem State.setTask_nextLaunch (s : State) (tid : Nat) (t : Task) : (s.setTask tid t).nextLaunch = s.nextLaunch := rfl
@[simp] theorem State.setTask_insts (s : State) (tid : Nat) (t : Task) : (s.setTask tid t).insts = s.insts := rfl
@[simp] theorem State.setTask_nextInst (s : State) (tid : Nat) (t : Task) : (s.setTask tid t).nextInst = s.nextInst := rfl
@[simp] theorem State.setTask_ctl (s : State) (tid : Nat) (t : Task) : (s.setTask tid t).ctl = s.ctl := rfl
@[simp] theorem State.setTask_xfers (s : State) (tid : Nat) (t : Task) : (s.setTask tid t).xfers = s.xfers := rfl
@[simp] theorem State.setTask_preempts (s : State) (tid : Nat) (t : Task) : (s.setTask tid t).preempts = s.preempts := rfl
@[simp] theorem State.setTask_bars (s : State) (tid : Nat) (t : Task) : (s.setTask tid t).bars = s.bars := rfl
@[simp] theorem State.setTask_holders (s : State) (tid : Nat) (t : Task) : (s.setTask tid t).holders = s.holders := rfl
@[simp] theorem State.setTask_lookups (s : State) (tid : Nat) (t : Task) : (s.setTask tid t).lookups = s.lookups := rfl
@[simp] theorem State.setTask_ready (s : State) (tid : Nat) (t : Task) : (s.setTask tid t).ready = s.ready := rfl
@[simp] theorem State.setTask_boot (s : State) (tid : Nat) (t : Task) : (s.setTask tid t).boot = s.boot := rfl
@[simp] theorem State.setTask_power (s : State) (tid : Nat) (t : Task) : (s.setTask tid t).power = s.power := rfl
@[simp] theorem State.setTask_arbs (s : State) (tid : Nat) (t : Task) : (s.setTask tid t).arbs = s.arbs := rfl
@[simp] theorem State.setTask_cpl (s : State) (tid : Nat) (t : Task) : (s.setTask tid t).cpl = s.cpl := rfl

@[simp] theorem State.setCore_module (s : State) (c : Nat) (k : CoreSt) : (s.setCore c k).module = s.module := rfl
@[simp] theorem State.setCore_me (s : State) (c : Nat) (k : CoreSt) : (s.setCore c k).me = s.me := rfl
@[simp] theorem State.setCore_focus (s : State) (c : Nat) (k : CoreSt) : (s.setCore c k).focus = s.focus := rfl
@[simp] theorem State.setCore_agenda (s : State) (c : Nat) (k : CoreSt) : (s.setCore c k).agenda = s.agenda := rfl
@[simp] theorem State.setCore_bun (s : State) (c : Nat) (k : CoreSt) : (s.setCore c k).bun = s.bun := rfl
@[simp] theorem State.setCore_freeCtr (s : State) (c : Nat) (k : CoreSt) : (s.setCore c k).freeCtr = s.freeCtr := rfl
@[simp] theorem State.setCore_nextOp (s : State) (c : Nat) (k : CoreSt) : (s.setCore c k).nextOp = s.nextOp := rfl
@[simp] theorem State.setCore_nextTid (s : State) (c : Nat) (k : CoreSt) : (s.setCore c k).nextTid = s.nextTid := rfl
@[simp] theorem State.setCore_cycle (s : State) (c : Nat) (k : CoreSt) : (s.setCore c k).cycle = s.cycle := rfl
@[simp] theorem State.setCore_mem (s : State) (c : Nat) (k : CoreSt) : (s.setCore c k).mem = s.mem := rfl
@[simp] theorem State.setCore_poison (s : State) (c : Nat) (k : CoreSt) : (s.setCore c k).poison = s.poison := rfl
@[simp] theorem State.setCore_badSeal (s : State) (c : Nat) (k : CoreSt) : (s.setCore c k).badSeal = s.badSeal := rfl
@[simp] theorem State.setCore_sealer (s : State) (c : Nat) (k : CoreSt) : (s.setCore c k).sealer = s.sealer := rfl
@[simp] theorem State.setCore_latent (s : State) (c : Nat) (k : CoreSt) : (s.setCore c k).latent = s.latent := rfl
@[simp] theorem State.setCore_l2 (s : State) (c : Nat) (k : CoreSt) : (s.setCore c k).l2 = s.l2 := rfl
@[simp] theorem State.setCore_round (s : State) (c : Nat) (k : CoreSt) : (s.setCore c k).round = s.round := rfl
@[simp] theorem State.setCore_unit (s : State) (c : Nat) (k : CoreSt) : (s.setCore c k).unit = s.unit := rfl
@[simp] theorem State.setCore_ctxs (s : State) (c : Nat) (k : CoreSt) : (s.setCore c k).ctxs = s.ctxs := rfl
@[simp] theorem State.setCore_tasks (s : State) (c : Nat) (k : CoreSt) : (s.setCore c k).tasks = s.tasks := rfl
@[simp] theorem State.setCore_ops (s : State) (c : Nat) (k : CoreSt) : (s.setCore c k).ops = s.ops := rfl
@[simp] theorem State.setCore_yokes (s : State) (c : Nat) (k : CoreSt) : (s.setCore c k).yokes = s.yokes := rfl
@[simp] theorem State.setCore_sends (s : State) (c : Nat) (k : CoreSt) : (s.setCore c k).sends = s.sends := rfl
@[simp] theorem State.setCore_batches (s : State) (c : Nat) (k : CoreSt) : (s.setCore c k).batches = s.batches := rfl
@[simp] theorem State.setCore_frames (s : State) (c : Nat) (k : CoreSt) : (s.setCore c k).frames = s.frames := rfl
@[simp] theorem State.setCore_paddocks (s : State) (c : Nat) (k : CoreSt) : (s.setCore c k).paddocks = s.paddocks := rfl
@[simp] theorem State.setCore_elog (s : State) (c : Nat) (k : CoreSt) : (s.setCore c k).elog = s.elog := rfl
@[simp] theorem State.setCore_irq (s : State) (c : Nat) (k : CoreSt) : (s.setCore c k).irq = s.irq := rfl
@[simp] theorem State.setCore_hostBad (s : State) (c : Nat) (k : CoreSt) : (s.setCore c k).hostBad = s.hostBad := rfl
@[simp] theorem State.setCore_launches (s : State) (c : Nat) (k : CoreSt) : (s.setCore c k).launches = s.launches := rfl
@[simp] theorem State.setCore_nextLaunch (s : State) (c : Nat) (k : CoreSt) : (s.setCore c k).nextLaunch = s.nextLaunch := rfl
@[simp] theorem State.setCore_insts (s : State) (c : Nat) (k : CoreSt) : (s.setCore c k).insts = s.insts := rfl
@[simp] theorem State.setCore_nextInst (s : State) (c : Nat) (k : CoreSt) : (s.setCore c k).nextInst = s.nextInst := rfl
@[simp] theorem State.setCore_ctl (s : State) (c : Nat) (k : CoreSt) : (s.setCore c k).ctl = s.ctl := rfl
@[simp] theorem State.setCore_xfers (s : State) (c : Nat) (k : CoreSt) : (s.setCore c k).xfers = s.xfers := rfl
@[simp] theorem State.setCore_preempts (s : State) (c : Nat) (k : CoreSt) : (s.setCore c k).preempts = s.preempts := rfl
@[simp] theorem State.setCore_bars (s : State) (c : Nat) (k : CoreSt) : (s.setCore c k).bars = s.bars := rfl
@[simp] theorem State.setCore_holders (s : State) (c : Nat) (k : CoreSt) : (s.setCore c k).holders = s.holders := rfl
@[simp] theorem State.setCore_lookups (s : State) (c : Nat) (k : CoreSt) : (s.setCore c k).lookups = s.lookups := rfl
@[simp] theorem State.setCore_ready (s : State) (c : Nat) (k : CoreSt) : (s.setCore c k).ready = s.ready := rfl
@[simp] theorem State.setCore_boot (s : State) (c : Nat) (k : CoreSt) : (s.setCore c k).boot = s.boot := rfl
@[simp] theorem State.setCore_power (s : State) (c : Nat) (k : CoreSt) : (s.setCore c k).power = s.power := rfl
@[simp] theorem State.setCore_arbs (s : State) (c : Nat) (k : CoreSt) : (s.setCore c k).arbs = s.arbs := rfl
@[simp] theorem State.setCore_cpl (s : State) (c : Nat) (k : CoreSt) : (s.setCore c k).cpl = s.cpl := rfl

@[simp] theorem State.setPaddock_module (s : State) (p : Nat) (k : Paddock) : (s.setPaddock p k).module = s.module := rfl
@[simp] theorem State.setPaddock_me (s : State) (p : Nat) (k : Paddock) : (s.setPaddock p k).me = s.me := rfl
@[simp] theorem State.setPaddock_focus (s : State) (p : Nat) (k : Paddock) : (s.setPaddock p k).focus = s.focus := rfl
@[simp] theorem State.setPaddock_agenda (s : State) (p : Nat) (k : Paddock) : (s.setPaddock p k).agenda = s.agenda := rfl
@[simp] theorem State.setPaddock_bun (s : State) (p : Nat) (k : Paddock) : (s.setPaddock p k).bun = s.bun := rfl
@[simp] theorem State.setPaddock_freeCtr (s : State) (p : Nat) (k : Paddock) : (s.setPaddock p k).freeCtr = s.freeCtr := rfl
@[simp] theorem State.setPaddock_nextOp (s : State) (p : Nat) (k : Paddock) : (s.setPaddock p k).nextOp = s.nextOp := rfl
@[simp] theorem State.setPaddock_nextTid (s : State) (p : Nat) (k : Paddock) : (s.setPaddock p k).nextTid = s.nextTid := rfl
@[simp] theorem State.setPaddock_cycle (s : State) (p : Nat) (k : Paddock) : (s.setPaddock p k).cycle = s.cycle := rfl
@[simp] theorem State.setPaddock_mem (s : State) (p : Nat) (k : Paddock) : (s.setPaddock p k).mem = s.mem := rfl
@[simp] theorem State.setPaddock_poison (s : State) (p : Nat) (k : Paddock) : (s.setPaddock p k).poison = s.poison := rfl
@[simp] theorem State.setPaddock_badSeal (s : State) (p : Nat) (k : Paddock) : (s.setPaddock p k).badSeal = s.badSeal := rfl
@[simp] theorem State.setPaddock_sealer (s : State) (p : Nat) (k : Paddock) : (s.setPaddock p k).sealer = s.sealer := rfl
@[simp] theorem State.setPaddock_latent (s : State) (p : Nat) (k : Paddock) : (s.setPaddock p k).latent = s.latent := rfl
@[simp] theorem State.setPaddock_l2 (s : State) (p : Nat) (k : Paddock) : (s.setPaddock p k).l2 = s.l2 := rfl
@[simp] theorem State.setPaddock_round (s : State) (p : Nat) (k : Paddock) : (s.setPaddock p k).round = s.round := rfl
@[simp] theorem State.setPaddock_unit (s : State) (p : Nat) (k : Paddock) : (s.setPaddock p k).unit = s.unit := rfl
@[simp] theorem State.setPaddock_ctxs (s : State) (p : Nat) (k : Paddock) : (s.setPaddock p k).ctxs = s.ctxs := rfl
@[simp] theorem State.setPaddock_tasks (s : State) (p : Nat) (k : Paddock) : (s.setPaddock p k).tasks = s.tasks := rfl
@[simp] theorem State.setPaddock_cores (s : State) (p : Nat) (k : Paddock) : (s.setPaddock p k).cores = s.cores := rfl
@[simp] theorem State.setPaddock_ops (s : State) (p : Nat) (k : Paddock) : (s.setPaddock p k).ops = s.ops := rfl
@[simp] theorem State.setPaddock_yokes (s : State) (p : Nat) (k : Paddock) : (s.setPaddock p k).yokes = s.yokes := rfl
@[simp] theorem State.setPaddock_sends (s : State) (p : Nat) (k : Paddock) : (s.setPaddock p k).sends = s.sends := rfl
@[simp] theorem State.setPaddock_batches (s : State) (p : Nat) (k : Paddock) : (s.setPaddock p k).batches = s.batches := rfl
@[simp] theorem State.setPaddock_frames (s : State) (p : Nat) (k : Paddock) : (s.setPaddock p k).frames = s.frames := rfl
@[simp] theorem State.setPaddock_elog (s : State) (p : Nat) (k : Paddock) : (s.setPaddock p k).elog = s.elog := rfl
@[simp] theorem State.setPaddock_irq (s : State) (p : Nat) (k : Paddock) : (s.setPaddock p k).irq = s.irq := rfl
@[simp] theorem State.setPaddock_hostBad (s : State) (p : Nat) (k : Paddock) : (s.setPaddock p k).hostBad = s.hostBad := rfl
@[simp] theorem State.setPaddock_launches (s : State) (p : Nat) (k : Paddock) : (s.setPaddock p k).launches = s.launches := rfl
@[simp] theorem State.setPaddock_nextLaunch (s : State) (p : Nat) (k : Paddock) : (s.setPaddock p k).nextLaunch = s.nextLaunch := rfl
@[simp] theorem State.setPaddock_insts (s : State) (p : Nat) (k : Paddock) : (s.setPaddock p k).insts = s.insts := rfl
@[simp] theorem State.setPaddock_nextInst (s : State) (p : Nat) (k : Paddock) : (s.setPaddock p k).nextInst = s.nextInst := rfl
@[simp] theorem State.setPaddock_ctl (s : State) (p : Nat) (k : Paddock) : (s.setPaddock p k).ctl = s.ctl := rfl
@[simp] theorem State.setPaddock_xfers (s : State) (p : Nat) (k : Paddock) : (s.setPaddock p k).xfers = s.xfers := rfl
@[simp] theorem State.setPaddock_preempts (s : State) (p : Nat) (k : Paddock) : (s.setPaddock p k).preempts = s.preempts := rfl
@[simp] theorem State.setPaddock_bars (s : State) (p : Nat) (k : Paddock) : (s.setPaddock p k).bars = s.bars := rfl
@[simp] theorem State.setPaddock_holders (s : State) (p : Nat) (k : Paddock) : (s.setPaddock p k).holders = s.holders := rfl
@[simp] theorem State.setPaddock_lookups (s : State) (p : Nat) (k : Paddock) : (s.setPaddock p k).lookups = s.lookups := rfl
@[simp] theorem State.setPaddock_ready (s : State) (p : Nat) (k : Paddock) : (s.setPaddock p k).ready = s.ready := rfl
@[simp] theorem State.setPaddock_boot (s : State) (p : Nat) (k : Paddock) : (s.setPaddock p k).boot = s.boot := rfl
@[simp] theorem State.setPaddock_power (s : State) (p : Nat) (k : Paddock) : (s.setPaddock p k).power = s.power := rfl
@[simp] theorem State.setPaddock_arbs (s : State) (p : Nat) (k : Paddock) : (s.setPaddock p k).arbs = s.arbs := rfl
@[simp] theorem State.setPaddock_cpl (s : State) (p : Nat) (k : Paddock) : (s.setPaddock p k).cpl = s.cpl := rfl

@[simp] theorem State.setFrame_module (s : State) (f : Nat) (e : FrameEntry) : (s.setFrame f e).module = s.module := rfl
@[simp] theorem State.setFrame_me (s : State) (f : Nat) (e : FrameEntry) : (s.setFrame f e).me = s.me := rfl
@[simp] theorem State.setFrame_focus (s : State) (f : Nat) (e : FrameEntry) : (s.setFrame f e).focus = s.focus := rfl
@[simp] theorem State.setFrame_agenda (s : State) (f : Nat) (e : FrameEntry) : (s.setFrame f e).agenda = s.agenda := rfl
@[simp] theorem State.setFrame_bun (s : State) (f : Nat) (e : FrameEntry) : (s.setFrame f e).bun = s.bun := rfl
@[simp] theorem State.setFrame_freeCtr (s : State) (f : Nat) (e : FrameEntry) : (s.setFrame f e).freeCtr = s.freeCtr := rfl
@[simp] theorem State.setFrame_nextOp (s : State) (f : Nat) (e : FrameEntry) : (s.setFrame f e).nextOp = s.nextOp := rfl
@[simp] theorem State.setFrame_nextTid (s : State) (f : Nat) (e : FrameEntry) : (s.setFrame f e).nextTid = s.nextTid := rfl
@[simp] theorem State.setFrame_cycle (s : State) (f : Nat) (e : FrameEntry) : (s.setFrame f e).cycle = s.cycle := rfl
@[simp] theorem State.setFrame_mem (s : State) (f : Nat) (e : FrameEntry) : (s.setFrame f e).mem = s.mem := rfl
@[simp] theorem State.setFrame_poison (s : State) (f : Nat) (e : FrameEntry) : (s.setFrame f e).poison = s.poison := rfl
@[simp] theorem State.setFrame_badSeal (s : State) (f : Nat) (e : FrameEntry) : (s.setFrame f e).badSeal = s.badSeal := rfl
@[simp] theorem State.setFrame_sealer (s : State) (f : Nat) (e : FrameEntry) : (s.setFrame f e).sealer = s.sealer := rfl
@[simp] theorem State.setFrame_latent (s : State) (f : Nat) (e : FrameEntry) : (s.setFrame f e).latent = s.latent := rfl
@[simp] theorem State.setFrame_l2 (s : State) (f : Nat) (e : FrameEntry) : (s.setFrame f e).l2 = s.l2 := rfl
@[simp] theorem State.setFrame_round (s : State) (f : Nat) (e : FrameEntry) : (s.setFrame f e).round = s.round := rfl
@[simp] theorem State.setFrame_unit (s : State) (f : Nat) (e : FrameEntry) : (s.setFrame f e).unit = s.unit := rfl
@[simp] theorem State.setFrame_ctxs (s : State) (f : Nat) (e : FrameEntry) : (s.setFrame f e).ctxs = s.ctxs := rfl
@[simp] theorem State.setFrame_tasks (s : State) (f : Nat) (e : FrameEntry) : (s.setFrame f e).tasks = s.tasks := rfl
@[simp] theorem State.setFrame_cores (s : State) (f : Nat) (e : FrameEntry) : (s.setFrame f e).cores = s.cores := rfl
@[simp] theorem State.setFrame_ops (s : State) (f : Nat) (e : FrameEntry) : (s.setFrame f e).ops = s.ops := rfl
@[simp] theorem State.setFrame_yokes (s : State) (f : Nat) (e : FrameEntry) : (s.setFrame f e).yokes = s.yokes := rfl
@[simp] theorem State.setFrame_sends (s : State) (f : Nat) (e : FrameEntry) : (s.setFrame f e).sends = s.sends := rfl
@[simp] theorem State.setFrame_batches (s : State) (f : Nat) (e : FrameEntry) : (s.setFrame f e).batches = s.batches := rfl
@[simp] theorem State.setFrame_paddocks (s : State) (f : Nat) (e : FrameEntry) : (s.setFrame f e).paddocks = s.paddocks := rfl
@[simp] theorem State.setFrame_elog (s : State) (f : Nat) (e : FrameEntry) : (s.setFrame f e).elog = s.elog := rfl
@[simp] theorem State.setFrame_irq (s : State) (f : Nat) (e : FrameEntry) : (s.setFrame f e).irq = s.irq := rfl
@[simp] theorem State.setFrame_hostBad (s : State) (f : Nat) (e : FrameEntry) : (s.setFrame f e).hostBad = s.hostBad := rfl
@[simp] theorem State.setFrame_launches (s : State) (f : Nat) (e : FrameEntry) : (s.setFrame f e).launches = s.launches := rfl
@[simp] theorem State.setFrame_nextLaunch (s : State) (f : Nat) (e : FrameEntry) : (s.setFrame f e).nextLaunch = s.nextLaunch := rfl
@[simp] theorem State.setFrame_insts (s : State) (f : Nat) (e : FrameEntry) : (s.setFrame f e).insts = s.insts := rfl
@[simp] theorem State.setFrame_nextInst (s : State) (f : Nat) (e : FrameEntry) : (s.setFrame f e).nextInst = s.nextInst := rfl
@[simp] theorem State.setFrame_ctl (s : State) (f : Nat) (e : FrameEntry) : (s.setFrame f e).ctl = s.ctl := rfl
@[simp] theorem State.setFrame_xfers (s : State) (f : Nat) (e : FrameEntry) : (s.setFrame f e).xfers = s.xfers := rfl
@[simp] theorem State.setFrame_preempts (s : State) (f : Nat) (e : FrameEntry) : (s.setFrame f e).preempts = s.preempts := rfl
@[simp] theorem State.setFrame_bars (s : State) (f : Nat) (e : FrameEntry) : (s.setFrame f e).bars = s.bars := rfl
@[simp] theorem State.setFrame_holders (s : State) (f : Nat) (e : FrameEntry) : (s.setFrame f e).holders = s.holders := rfl
@[simp] theorem State.setFrame_lookups (s : State) (f : Nat) (e : FrameEntry) : (s.setFrame f e).lookups = s.lookups := rfl
@[simp] theorem State.setFrame_ready (s : State) (f : Nat) (e : FrameEntry) : (s.setFrame f e).ready = s.ready := rfl
@[simp] theorem State.setFrame_boot (s : State) (f : Nat) (e : FrameEntry) : (s.setFrame f e).boot = s.boot := rfl
@[simp] theorem State.setFrame_power (s : State) (f : Nat) (e : FrameEntry) : (s.setFrame f e).power = s.power := rfl
@[simp] theorem State.setFrame_arbs (s : State) (f : Nat) (e : FrameEntry) : (s.setFrame f e).arbs = s.arbs := rfl
@[simp] theorem State.setFrame_cpl (s : State) (f : Nat) (e : FrameEntry) : (s.setFrame f e).cpl = s.cpl := rfl

@[simp] theorem State.putCtx_module (s : State) (c : Ctx) : (s.putCtx c).module = s.module := rfl
@[simp] theorem State.putCtx_me (s : State) (c : Ctx) : (s.putCtx c).me = s.me := rfl
@[simp] theorem State.putCtx_focus (s : State) (c : Ctx) : (s.putCtx c).focus = s.focus := rfl
@[simp] theorem State.putCtx_agenda (s : State) (c : Ctx) : (s.putCtx c).agenda = s.agenda := rfl
@[simp] theorem State.putCtx_bun (s : State) (c : Ctx) : (s.putCtx c).bun = s.bun := rfl
@[simp] theorem State.putCtx_freeCtr (s : State) (c : Ctx) : (s.putCtx c).freeCtr = s.freeCtr := rfl
@[simp] theorem State.putCtx_nextOp (s : State) (c : Ctx) : (s.putCtx c).nextOp = s.nextOp := rfl
@[simp] theorem State.putCtx_nextTid (s : State) (c : Ctx) : (s.putCtx c).nextTid = s.nextTid := rfl
@[simp] theorem State.putCtx_cycle (s : State) (c : Ctx) : (s.putCtx c).cycle = s.cycle := rfl
@[simp] theorem State.putCtx_mem (s : State) (c : Ctx) : (s.putCtx c).mem = s.mem := rfl
@[simp] theorem State.putCtx_poison (s : State) (c : Ctx) : (s.putCtx c).poison = s.poison := rfl
@[simp] theorem State.putCtx_badSeal (s : State) (c : Ctx) : (s.putCtx c).badSeal = s.badSeal := rfl
@[simp] theorem State.putCtx_sealer (s : State) (c : Ctx) : (s.putCtx c).sealer = s.sealer := rfl
@[simp] theorem State.putCtx_latent (s : State) (c : Ctx) : (s.putCtx c).latent = s.latent := rfl
@[simp] theorem State.putCtx_l2 (s : State) (c : Ctx) : (s.putCtx c).l2 = s.l2 := rfl
@[simp] theorem State.putCtx_round (s : State) (c : Ctx) : (s.putCtx c).round = s.round := rfl
@[simp] theorem State.putCtx_unit (s : State) (c : Ctx) : (s.putCtx c).unit = s.unit := rfl
@[simp] theorem State.putCtx_tasks (s : State) (c : Ctx) : (s.putCtx c).tasks = s.tasks := rfl
@[simp] theorem State.putCtx_cores (s : State) (c : Ctx) : (s.putCtx c).cores = s.cores := rfl
@[simp] theorem State.putCtx_ops (s : State) (c : Ctx) : (s.putCtx c).ops = s.ops := rfl
@[simp] theorem State.putCtx_yokes (s : State) (c : Ctx) : (s.putCtx c).yokes = s.yokes := rfl
@[simp] theorem State.putCtx_sends (s : State) (c : Ctx) : (s.putCtx c).sends = s.sends := rfl
@[simp] theorem State.putCtx_batches (s : State) (c : Ctx) : (s.putCtx c).batches = s.batches := rfl
@[simp] theorem State.putCtx_frames (s : State) (c : Ctx) : (s.putCtx c).frames = s.frames := rfl
@[simp] theorem State.putCtx_paddocks (s : State) (c : Ctx) : (s.putCtx c).paddocks = s.paddocks := rfl
@[simp] theorem State.putCtx_elog (s : State) (c : Ctx) : (s.putCtx c).elog = s.elog := rfl
@[simp] theorem State.putCtx_irq (s : State) (c : Ctx) : (s.putCtx c).irq = s.irq := rfl
@[simp] theorem State.putCtx_hostBad (s : State) (c : Ctx) : (s.putCtx c).hostBad = s.hostBad := rfl
@[simp] theorem State.putCtx_launches (s : State) (c : Ctx) : (s.putCtx c).launches = s.launches := rfl
@[simp] theorem State.putCtx_nextLaunch (s : State) (c : Ctx) : (s.putCtx c).nextLaunch = s.nextLaunch := rfl
@[simp] theorem State.putCtx_insts (s : State) (c : Ctx) : (s.putCtx c).insts = s.insts := rfl
@[simp] theorem State.putCtx_nextInst (s : State) (c : Ctx) : (s.putCtx c).nextInst = s.nextInst := rfl
@[simp] theorem State.putCtx_ctl (s : State) (c : Ctx) : (s.putCtx c).ctl = s.ctl := rfl
@[simp] theorem State.putCtx_xfers (s : State) (c : Ctx) : (s.putCtx c).xfers = s.xfers := rfl
@[simp] theorem State.putCtx_preempts (s : State) (c : Ctx) : (s.putCtx c).preempts = s.preempts := rfl
@[simp] theorem State.putCtx_bars (s : State) (c : Ctx) : (s.putCtx c).bars = s.bars := rfl
@[simp] theorem State.putCtx_holders (s : State) (c : Ctx) : (s.putCtx c).holders = s.holders := rfl
@[simp] theorem State.putCtx_lookups (s : State) (c : Ctx) : (s.putCtx c).lookups = s.lookups := rfl
@[simp] theorem State.putCtx_ready (s : State) (c : Ctx) : (s.putCtx c).ready = s.ready := rfl
@[simp] theorem State.putCtx_boot (s : State) (c : Ctx) : (s.putCtx c).boot = s.boot := rfl
@[simp] theorem State.putCtx_power (s : State) (c : Ctx) : (s.putCtx c).power = s.power := rfl
@[simp] theorem State.putCtx_arbs (s : State) (c : Ctx) : (s.putCtx c).arbs = s.arbs := rfl
@[simp] theorem State.putCtx_cpl (s : State) (c : Ctx) : (s.putCtx c).cpl = s.cpl := rfl

@[simp] theorem State.putTask_module (s : State) (t : Task) : (s.putTask t).module = s.module := rfl
@[simp] theorem State.putTask_me (s : State) (t : Task) : (s.putTask t).me = s.me := rfl
@[simp] theorem State.putTask_focus (s : State) (t : Task) : (s.putTask t).focus = s.focus := rfl
@[simp] theorem State.putTask_agenda (s : State) (t : Task) : (s.putTask t).agenda = s.agenda := rfl
@[simp] theorem State.putTask_bun (s : State) (t : Task) : (s.putTask t).bun = s.bun := rfl
@[simp] theorem State.putTask_freeCtr (s : State) (t : Task) : (s.putTask t).freeCtr = s.freeCtr := rfl
@[simp] theorem State.putTask_nextOp (s : State) (t : Task) : (s.putTask t).nextOp = s.nextOp := rfl
@[simp] theorem State.putTask_nextTid (s : State) (t : Task) : (s.putTask t).nextTid = s.nextTid := rfl
@[simp] theorem State.putTask_cycle (s : State) (t : Task) : (s.putTask t).cycle = s.cycle := rfl
@[simp] theorem State.putTask_mem (s : State) (t : Task) : (s.putTask t).mem = s.mem := rfl
@[simp] theorem State.putTask_poison (s : State) (t : Task) : (s.putTask t).poison = s.poison := rfl
@[simp] theorem State.putTask_badSeal (s : State) (t : Task) : (s.putTask t).badSeal = s.badSeal := rfl
@[simp] theorem State.putTask_sealer (s : State) (t : Task) : (s.putTask t).sealer = s.sealer := rfl
@[simp] theorem State.putTask_latent (s : State) (t : Task) : (s.putTask t).latent = s.latent := rfl
@[simp] theorem State.putTask_l2 (s : State) (t : Task) : (s.putTask t).l2 = s.l2 := rfl
@[simp] theorem State.putTask_round (s : State) (t : Task) : (s.putTask t).round = s.round := rfl
@[simp] theorem State.putTask_unit (s : State) (t : Task) : (s.putTask t).unit = s.unit := rfl
@[simp] theorem State.putTask_ctxs (s : State) (t : Task) : (s.putTask t).ctxs = s.ctxs := rfl
@[simp] theorem State.putTask_cores (s : State) (t : Task) : (s.putTask t).cores = s.cores := rfl
@[simp] theorem State.putTask_ops (s : State) (t : Task) : (s.putTask t).ops = s.ops := rfl
@[simp] theorem State.putTask_yokes (s : State) (t : Task) : (s.putTask t).yokes = s.yokes := rfl
@[simp] theorem State.putTask_sends (s : State) (t : Task) : (s.putTask t).sends = s.sends := rfl
@[simp] theorem State.putTask_batches (s : State) (t : Task) : (s.putTask t).batches = s.batches := rfl
@[simp] theorem State.putTask_frames (s : State) (t : Task) : (s.putTask t).frames = s.frames := rfl
@[simp] theorem State.putTask_paddocks (s : State) (t : Task) : (s.putTask t).paddocks = s.paddocks := rfl
@[simp] theorem State.putTask_elog (s : State) (t : Task) : (s.putTask t).elog = s.elog := rfl
@[simp] theorem State.putTask_irq (s : State) (t : Task) : (s.putTask t).irq = s.irq := rfl
@[simp] theorem State.putTask_hostBad (s : State) (t : Task) : (s.putTask t).hostBad = s.hostBad := rfl
@[simp] theorem State.putTask_launches (s : State) (t : Task) : (s.putTask t).launches = s.launches := rfl
@[simp] theorem State.putTask_nextLaunch (s : State) (t : Task) : (s.putTask t).nextLaunch = s.nextLaunch := rfl
@[simp] theorem State.putTask_insts (s : State) (t : Task) : (s.putTask t).insts = s.insts := rfl
@[simp] theorem State.putTask_nextInst (s : State) (t : Task) : (s.putTask t).nextInst = s.nextInst := rfl
@[simp] theorem State.putTask_ctl (s : State) (t : Task) : (s.putTask t).ctl = s.ctl := rfl
@[simp] theorem State.putTask_xfers (s : State) (t : Task) : (s.putTask t).xfers = s.xfers := rfl
@[simp] theorem State.putTask_preempts (s : State) (t : Task) : (s.putTask t).preempts = s.preempts := rfl
@[simp] theorem State.putTask_bars (s : State) (t : Task) : (s.putTask t).bars = s.bars := rfl
@[simp] theorem State.putTask_holders (s : State) (t : Task) : (s.putTask t).holders = s.holders := rfl
@[simp] theorem State.putTask_lookups (s : State) (t : Task) : (s.putTask t).lookups = s.lookups := rfl
@[simp] theorem State.putTask_ready (s : State) (t : Task) : (s.putTask t).ready = s.ready := rfl
@[simp] theorem State.putTask_boot (s : State) (t : Task) : (s.putTask t).boot = s.boot := rfl
@[simp] theorem State.putTask_power (s : State) (t : Task) : (s.putTask t).power = s.power := rfl
@[simp] theorem State.putTask_arbs (s : State) (t : Task) : (s.putTask t).arbs = s.arbs := rfl
@[simp] theorem State.putTask_cpl (s : State) (t : Task) : (s.putTask t).cpl = s.cpl := rfl

@[simp] theorem State.post_module (s : State) (L : Nat) (r : Result) : (s.post L r).module = s.module := rfl
@[simp] theorem State.post_me (s : State) (L : Nat) (r : Result) : (s.post L r).me = s.me := rfl
@[simp] theorem State.post_focus (s : State) (L : Nat) (r : Result) : (s.post L r).focus = s.focus := rfl
@[simp] theorem State.post_agenda (s : State) (L : Nat) (r : Result) : (s.post L r).agenda = s.agenda := rfl
@[simp] theorem State.post_bun (s : State) (L : Nat) (r : Result) : (s.post L r).bun = s.bun := rfl
@[simp] theorem State.post_freeCtr (s : State) (L : Nat) (r : Result) : (s.post L r).freeCtr = s.freeCtr := rfl
@[simp] theorem State.post_nextOp (s : State) (L : Nat) (r : Result) : (s.post L r).nextOp = s.nextOp := rfl
@[simp] theorem State.post_nextTid (s : State) (L : Nat) (r : Result) : (s.post L r).nextTid = s.nextTid := rfl
@[simp] theorem State.post_cycle (s : State) (L : Nat) (r : Result) : (s.post L r).cycle = s.cycle := rfl
@[simp] theorem State.post_mem (s : State) (L : Nat) (r : Result) : (s.post L r).mem = s.mem := rfl
@[simp] theorem State.post_poison (s : State) (L : Nat) (r : Result) : (s.post L r).poison = s.poison := rfl
@[simp] theorem State.post_badSeal (s : State) (L : Nat) (r : Result) : (s.post L r).badSeal = s.badSeal := rfl
@[simp] theorem State.post_sealer (s : State) (L : Nat) (r : Result) : (s.post L r).sealer = s.sealer := rfl
@[simp] theorem State.post_latent (s : State) (L : Nat) (r : Result) : (s.post L r).latent = s.latent := rfl
@[simp] theorem State.post_l2 (s : State) (L : Nat) (r : Result) : (s.post L r).l2 = s.l2 := rfl
@[simp] theorem State.post_round (s : State) (L : Nat) (r : Result) : (s.post L r).round = s.round := rfl
@[simp] theorem State.post_unit (s : State) (L : Nat) (r : Result) : (s.post L r).unit = s.unit := rfl
@[simp] theorem State.post_tasks (s : State) (L : Nat) (r : Result) : (s.post L r).tasks = s.tasks := rfl
@[simp] theorem State.post_cores (s : State) (L : Nat) (r : Result) : (s.post L r).cores = s.cores := rfl
@[simp] theorem State.post_ops (s : State) (L : Nat) (r : Result) : (s.post L r).ops = s.ops := rfl
@[simp] theorem State.post_yokes (s : State) (L : Nat) (r : Result) : (s.post L r).yokes = s.yokes := rfl
@[simp] theorem State.post_sends (s : State) (L : Nat) (r : Result) : (s.post L r).sends = s.sends := rfl
@[simp] theorem State.post_batches (s : State) (L : Nat) (r : Result) : (s.post L r).batches = s.batches := rfl
@[simp] theorem State.post_frames (s : State) (L : Nat) (r : Result) : (s.post L r).frames = s.frames := rfl
@[simp] theorem State.post_paddocks (s : State) (L : Nat) (r : Result) : (s.post L r).paddocks = s.paddocks := rfl
@[simp] theorem State.post_elog (s : State) (L : Nat) (r : Result) : (s.post L r).elog = s.elog := rfl
@[simp] theorem State.post_irq (s : State) (L : Nat) (r : Result) : (s.post L r).irq = s.irq := rfl
@[simp] theorem State.post_hostBad (s : State) (L : Nat) (r : Result) : (s.post L r).hostBad = s.hostBad := rfl
@[simp] theorem State.post_launches (s : State) (L : Nat) (r : Result) : (s.post L r).launches = s.launches := rfl
@[simp] theorem State.post_nextLaunch (s : State) (L : Nat) (r : Result) : (s.post L r).nextLaunch = s.nextLaunch := rfl
@[simp] theorem State.post_insts (s : State) (L : Nat) (r : Result) : (s.post L r).insts = s.insts := rfl
@[simp] theorem State.post_nextInst (s : State) (L : Nat) (r : Result) : (s.post L r).nextInst = s.nextInst := rfl
@[simp] theorem State.post_ctl (s : State) (L : Nat) (r : Result) : (s.post L r).ctl = s.ctl := rfl
@[simp] theorem State.post_xfers (s : State) (L : Nat) (r : Result) : (s.post L r).xfers = s.xfers := rfl
@[simp] theorem State.post_preempts (s : State) (L : Nat) (r : Result) : (s.post L r).preempts = s.preempts := rfl
@[simp] theorem State.post_bars (s : State) (L : Nat) (r : Result) : (s.post L r).bars = s.bars := rfl
@[simp] theorem State.post_holders (s : State) (L : Nat) (r : Result) : (s.post L r).holders = s.holders := rfl
@[simp] theorem State.post_lookups (s : State) (L : Nat) (r : Result) : (s.post L r).lookups = s.lookups := rfl
@[simp] theorem State.post_ready (s : State) (L : Nat) (r : Result) : (s.post L r).ready = s.ready := rfl
@[simp] theorem State.post_boot (s : State) (L : Nat) (r : Result) : (s.post L r).boot = s.boot := rfl
@[simp] theorem State.post_power (s : State) (L : Nat) (r : Result) : (s.post L r).power = s.power := rfl
@[simp] theorem State.post_arbs (s : State) (L : Nat) (r : Result) : (s.post L r).arbs = s.arbs := rfl
@[simp] theorem State.post_cpl (s : State) (L : Nat) (r : Result) : (s.post L r).cpl = s.cpl := rfl

@[simp] theorem State.wx_module (s : State) (L k : Nat) (w : Word) : (s.wx L k w).module = s.module := rfl
@[simp] theorem State.wx_me (s : State) (L k : Nat) (w : Word) : (s.wx L k w).me = s.me := rfl
@[simp] theorem State.wx_focus (s : State) (L k : Nat) (w : Word) : (s.wx L k w).focus = s.focus := rfl
@[simp] theorem State.wx_agenda (s : State) (L k : Nat) (w : Word) : (s.wx L k w).agenda = s.agenda := rfl
@[simp] theorem State.wx_bun (s : State) (L k : Nat) (w : Word) : (s.wx L k w).bun = s.bun := rfl
@[simp] theorem State.wx_freeCtr (s : State) (L k : Nat) (w : Word) : (s.wx L k w).freeCtr = s.freeCtr := rfl
@[simp] theorem State.wx_nextOp (s : State) (L k : Nat) (w : Word) : (s.wx L k w).nextOp = s.nextOp := rfl
@[simp] theorem State.wx_nextTid (s : State) (L k : Nat) (w : Word) : (s.wx L k w).nextTid = s.nextTid := rfl
@[simp] theorem State.wx_cycle (s : State) (L k : Nat) (w : Word) : (s.wx L k w).cycle = s.cycle := rfl
@[simp] theorem State.wx_mem (s : State) (L k : Nat) (w : Word) : (s.wx L k w).mem = s.mem := rfl
@[simp] theorem State.wx_poison (s : State) (L k : Nat) (w : Word) : (s.wx L k w).poison = s.poison := rfl
@[simp] theorem State.wx_badSeal (s : State) (L k : Nat) (w : Word) : (s.wx L k w).badSeal = s.badSeal := rfl
@[simp] theorem State.wx_sealer (s : State) (L k : Nat) (w : Word) : (s.wx L k w).sealer = s.sealer := rfl
@[simp] theorem State.wx_latent (s : State) (L k : Nat) (w : Word) : (s.wx L k w).latent = s.latent := rfl
@[simp] theorem State.wx_l2 (s : State) (L k : Nat) (w : Word) : (s.wx L k w).l2 = s.l2 := rfl
@[simp] theorem State.wx_round (s : State) (L k : Nat) (w : Word) : (s.wx L k w).round = s.round := rfl
@[simp] theorem State.wx_unit (s : State) (L k : Nat) (w : Word) : (s.wx L k w).unit = s.unit := rfl
@[simp] theorem State.wx_tasks (s : State) (L k : Nat) (w : Word) : (s.wx L k w).tasks = s.tasks := rfl
@[simp] theorem State.wx_cores (s : State) (L k : Nat) (w : Word) : (s.wx L k w).cores = s.cores := rfl
@[simp] theorem State.wx_ops (s : State) (L k : Nat) (w : Word) : (s.wx L k w).ops = s.ops := rfl
@[simp] theorem State.wx_yokes (s : State) (L k : Nat) (w : Word) : (s.wx L k w).yokes = s.yokes := rfl
@[simp] theorem State.wx_sends (s : State) (L k : Nat) (w : Word) : (s.wx L k w).sends = s.sends := rfl
@[simp] theorem State.wx_batches (s : State) (L k : Nat) (w : Word) : (s.wx L k w).batches = s.batches := rfl
@[simp] theorem State.wx_frames (s : State) (L k : Nat) (w : Word) : (s.wx L k w).frames = s.frames := rfl
@[simp] theorem State.wx_paddocks (s : State) (L k : Nat) (w : Word) : (s.wx L k w).paddocks = s.paddocks := rfl
@[simp] theorem State.wx_elog (s : State) (L k : Nat) (w : Word) : (s.wx L k w).elog = s.elog := rfl
@[simp] theorem State.wx_irq (s : State) (L k : Nat) (w : Word) : (s.wx L k w).irq = s.irq := rfl
@[simp] theorem State.wx_hostBad (s : State) (L k : Nat) (w : Word) : (s.wx L k w).hostBad = s.hostBad := rfl
@[simp] theorem State.wx_launches (s : State) (L k : Nat) (w : Word) : (s.wx L k w).launches = s.launches := rfl
@[simp] theorem State.wx_nextLaunch (s : State) (L k : Nat) (w : Word) : (s.wx L k w).nextLaunch = s.nextLaunch := rfl
@[simp] theorem State.wx_insts (s : State) (L k : Nat) (w : Word) : (s.wx L k w).insts = s.insts := rfl
@[simp] theorem State.wx_nextInst (s : State) (L k : Nat) (w : Word) : (s.wx L k w).nextInst = s.nextInst := rfl
@[simp] theorem State.wx_ctl (s : State) (L k : Nat) (w : Word) : (s.wx L k w).ctl = s.ctl := rfl
@[simp] theorem State.wx_xfers (s : State) (L k : Nat) (w : Word) : (s.wx L k w).xfers = s.xfers := rfl
@[simp] theorem State.wx_preempts (s : State) (L k : Nat) (w : Word) : (s.wx L k w).preempts = s.preempts := rfl
@[simp] theorem State.wx_bars (s : State) (L k : Nat) (w : Word) : (s.wx L k w).bars = s.bars := rfl
@[simp] theorem State.wx_holders (s : State) (L k : Nat) (w : Word) : (s.wx L k w).holders = s.holders := rfl
@[simp] theorem State.wx_lookups (s : State) (L k : Nat) (w : Word) : (s.wx L k w).lookups = s.lookups := rfl
@[simp] theorem State.wx_ready (s : State) (L k : Nat) (w : Word) : (s.wx L k w).ready = s.ready := rfl
@[simp] theorem State.wx_boot (s : State) (L k : Nat) (w : Word) : (s.wx L k w).boot = s.boot := rfl
@[simp] theorem State.wx_power (s : State) (L k : Nat) (w : Word) : (s.wx L k w).power = s.power := rfl
@[simp] theorem State.wx_arbs (s : State) (L k : Nat) (w : Word) : (s.wx L k w).arbs = s.arbs := rfl
@[simp] theorem State.wx_cpl (s : State) (L k : Nat) (w : Word) : (s.wx L k w).cpl = s.cpl := rfl

@[simp] theorem State.wp_module (s : State) (L k : Nat) (b : Bool) : (s.wp L k b).module = s.module := rfl
@[simp] theorem State.wp_me (s : State) (L k : Nat) (b : Bool) : (s.wp L k b).me = s.me := rfl
@[simp] theorem State.wp_focus (s : State) (L k : Nat) (b : Bool) : (s.wp L k b).focus = s.focus := rfl
@[simp] theorem State.wp_agenda (s : State) (L k : Nat) (b : Bool) : (s.wp L k b).agenda = s.agenda := rfl
@[simp] theorem State.wp_bun (s : State) (L k : Nat) (b : Bool) : (s.wp L k b).bun = s.bun := rfl
@[simp] theorem State.wp_freeCtr (s : State) (L k : Nat) (b : Bool) : (s.wp L k b).freeCtr = s.freeCtr := rfl
@[simp] theorem State.wp_nextOp (s : State) (L k : Nat) (b : Bool) : (s.wp L k b).nextOp = s.nextOp := rfl
@[simp] theorem State.wp_nextTid (s : State) (L k : Nat) (b : Bool) : (s.wp L k b).nextTid = s.nextTid := rfl
@[simp] theorem State.wp_cycle (s : State) (L k : Nat) (b : Bool) : (s.wp L k b).cycle = s.cycle := rfl
@[simp] theorem State.wp_mem (s : State) (L k : Nat) (b : Bool) : (s.wp L k b).mem = s.mem := rfl
@[simp] theorem State.wp_poison (s : State) (L k : Nat) (b : Bool) : (s.wp L k b).poison = s.poison := rfl
@[simp] theorem State.wp_badSeal (s : State) (L k : Nat) (b : Bool) : (s.wp L k b).badSeal = s.badSeal := rfl
@[simp] theorem State.wp_sealer (s : State) (L k : Nat) (b : Bool) : (s.wp L k b).sealer = s.sealer := rfl
@[simp] theorem State.wp_latent (s : State) (L k : Nat) (b : Bool) : (s.wp L k b).latent = s.latent := rfl
@[simp] theorem State.wp_l2 (s : State) (L k : Nat) (b : Bool) : (s.wp L k b).l2 = s.l2 := rfl
@[simp] theorem State.wp_round (s : State) (L k : Nat) (b : Bool) : (s.wp L k b).round = s.round := rfl
@[simp] theorem State.wp_unit (s : State) (L k : Nat) (b : Bool) : (s.wp L k b).unit = s.unit := rfl
@[simp] theorem State.wp_tasks (s : State) (L k : Nat) (b : Bool) : (s.wp L k b).tasks = s.tasks := rfl
@[simp] theorem State.wp_cores (s : State) (L k : Nat) (b : Bool) : (s.wp L k b).cores = s.cores := rfl
@[simp] theorem State.wp_ops (s : State) (L k : Nat) (b : Bool) : (s.wp L k b).ops = s.ops := rfl
@[simp] theorem State.wp_yokes (s : State) (L k : Nat) (b : Bool) : (s.wp L k b).yokes = s.yokes := rfl
@[simp] theorem State.wp_sends (s : State) (L k : Nat) (b : Bool) : (s.wp L k b).sends = s.sends := rfl
@[simp] theorem State.wp_batches (s : State) (L k : Nat) (b : Bool) : (s.wp L k b).batches = s.batches := rfl
@[simp] theorem State.wp_frames (s : State) (L k : Nat) (b : Bool) : (s.wp L k b).frames = s.frames := rfl
@[simp] theorem State.wp_paddocks (s : State) (L k : Nat) (b : Bool) : (s.wp L k b).paddocks = s.paddocks := rfl
@[simp] theorem State.wp_elog (s : State) (L k : Nat) (b : Bool) : (s.wp L k b).elog = s.elog := rfl
@[simp] theorem State.wp_irq (s : State) (L k : Nat) (b : Bool) : (s.wp L k b).irq = s.irq := rfl
@[simp] theorem State.wp_hostBad (s : State) (L k : Nat) (b : Bool) : (s.wp L k b).hostBad = s.hostBad := rfl
@[simp] theorem State.wp_launches (s : State) (L k : Nat) (b : Bool) : (s.wp L k b).launches = s.launches := rfl
@[simp] theorem State.wp_nextLaunch (s : State) (L k : Nat) (b : Bool) : (s.wp L k b).nextLaunch = s.nextLaunch := rfl
@[simp] theorem State.wp_insts (s : State) (L k : Nat) (b : Bool) : (s.wp L k b).insts = s.insts := rfl
@[simp] theorem State.wp_nextInst (s : State) (L k : Nat) (b : Bool) : (s.wp L k b).nextInst = s.nextInst := rfl
@[simp] theorem State.wp_ctl (s : State) (L k : Nat) (b : Bool) : (s.wp L k b).ctl = s.ctl := rfl
@[simp] theorem State.wp_xfers (s : State) (L k : Nat) (b : Bool) : (s.wp L k b).xfers = s.xfers := rfl
@[simp] theorem State.wp_preempts (s : State) (L k : Nat) (b : Bool) : (s.wp L k b).preempts = s.preempts := rfl
@[simp] theorem State.wp_bars (s : State) (L k : Nat) (b : Bool) : (s.wp L k b).bars = s.bars := rfl
@[simp] theorem State.wp_holders (s : State) (L k : Nat) (b : Bool) : (s.wp L k b).holders = s.holders := rfl
@[simp] theorem State.wp_lookups (s : State) (L k : Nat) (b : Bool) : (s.wp L k b).lookups = s.lookups := rfl
@[simp] theorem State.wp_ready (s : State) (L k : Nat) (b : Bool) : (s.wp L k b).ready = s.ready := rfl
@[simp] theorem State.wp_boot (s : State) (L k : Nat) (b : Bool) : (s.wp L k b).boot = s.boot := rfl
@[simp] theorem State.wp_power (s : State) (L k : Nat) (b : Bool) : (s.wp L k b).power = s.power := rfl
@[simp] theorem State.wp_arbs (s : State) (L k : Nat) (b : Bool) : (s.wp L k b).arbs = s.arbs := rfl
@[simp] theorem State.wp_cpl (s : State) (L k : Nat) (b : Bool) : (s.wp L k b).cpl = s.cpl := rfl

end Sys2Proof.Machine
end

