-- ==== Sys2Proof/Laws/Issue.lean ====
section
/-! SUPPORT. Laws of the issue of a bundle: what a word does inside it, what reading a register answers, how a bundle ends. -/
namespace Sys2Proof.Machine

/-- A readable register is read. -/
theorem State.rx_of_readable {s : State} {k : Nat} (h : s.readable k) : s.rx k = .ok (s.xval k) := by
  rcases h with h | h
  · simp only [State.rx, State.xval, Ctx.xAt, h]
    split <;> simp
  · simp [State.rx, State.xval, h]

/-- A word that can run does what its body says: the body's state, a core access ordered, or the stop recorded. -/
theorem runWord_of_canRun {s : State} {k : WordKind} {g : Nat} (len : Nat) (body : State → Except Stop State) (h : s.canRun k g) :
    runWord k len g body s = .next (match body s with
      | .ok t => k.order t
      | .error e => s.stopAt e) := by
  obtain ⟨h1, h2, h4, h5, h6⟩ := h
  have ha : (k.waitsAcquire && s.acquiring) = false := by
    cases hk : k.waitsAcquire <;> simp_all
  simp only [runWord, runWordPre, runPart, h1, h2, h4, h5, ha, id, WordKind.order]
  cases body s <;> simp

/-- The same where the body succeeds. -/
theorem runWord_ok {s t : State} {k : WordKind} {g len : Nat} {body : State → Except Stop State} (h : s.canRun k g)
    (hb : body s = .ok t) : runWord k len g body s = .next (k.order t) := by
  rw [runWord_of_canRun len body h, hb]

/-- The same where the body stops. -/
theorem runWord_stop {s : State} {k : WordKind} {g len : Nat} {body : State → Except Stop State} {e : Stop} (h : s.canRun k g)
    (hb : body s = .error e) : runWord k len g body s = .next (s.stopAt e) := by
  rw [runWord_of_canRun len body h, hb]

/-- A word with a part that the guard does not govern: that part first, then the body on what it leaves. -/
theorem runWordPre_ok {s t : State} {k : WordKind} {g len : Nat} {pre : State → State} {body : State → Except Stop State}
    (h : s.canRun k g) (hstop : (pre s).bun.stop = none) (hctx : (pre s).ctx = s.ctx)
    (hacq : k.waitsAcquire = true → (pre s).acquiring = false) (hb : body (pre s) = .ok t) :
    runWordPre k len g pre body s = .next (k.order t) := by
  obtain ⟨h1, h2, h4, h5, h6⟩ := h
  have ha : (k.waitsAcquire && (pre s).acquiring) = false := by
    cases hk : k.waitsAcquire <;> simp_all
  simp [runWordPre, runPart, h1, h2, h4, h5, ha, hstop, hctx, hb, WordKind.order]

/-- A squashed word without such a part leaves the state as it is (08 R192). -/
theorem runWord_squashed {s : State} {k : WordKind} {g : Nat} (len : Nat) (body : State → Except Stop State) (h1 : s.bun.isOpen = true)
    (h2 : s.bun.stop = none) (h4 : k.decoded (decide (384 ≤ s.ctx.core)) = true)
    (h5 : s.ctx.pAt g = false) (h6 : k.waitsAcquire = true → s.acquiring = false) : runWord k len g body s = .next s := by
  have ha : (k.waitsAcquire && s.acquiring) = false := by
    cases hk : k.waitsAcquire <;> simp_all
  simp [runWord, runWordPre, runPart, h1, h2, h4, h5, ha]

/-- After a stop, the other words of the bundle do nothing (08 R197). -/
theorem runWordPre_stopped {s : State} {k : WordKind} {g : Nat} (len : Nat) (pre : State → State) (body : State → Except Stop State)
    (h1 : s.bun.isOpen = true) (h2 : s.bun.stop.isSome = true) : runWordPre k len g pre body s = .next s := by
  simp [runWordPre, runPart, h1, h2]

/-- A word alone is its own bundle. -/
theorem runWordPre_alone {s : State} {k : WordKind} {g len : Nat} {pre : State → State} {body : State → Except Stop State}
    (h1 : s.bun.isOpen = false) (h2 : (amGet s.ctxs s.me).isSome = true) :
    runWordPre k len g pre body s = .next (closeBundle s (runPart k g pre body (s.openBundle len))) := by
  cases h : amGet s.ctxs s.me <;> simp_all [runWordPre]

end Sys2Proof.Machine
end

