-- ==== Sys2Proof/Laws/Memory.lean ====
section
/-! SUPPORT. Laws of the memory: its canonical form is kept by every operation; what is read after a write. -/
namespace Sys2Proof.Machine

/-- Every listed address is above `a`. -/
def Memory.above (a : Nat) (m : Memory) : Prop := ∀ e ∈ m, a < e.1

theorem Memory.wf_cons (a : Nat) (b : Byte) (m : Memory) :
    Memory.wf ((a, b) :: m) = true ↔ b ≠ 0 ∧ Memory.above a m ∧ Memory.wf m = true := by
  induction m generalizing a b with
  | nil => simp [Memory.wf, Memory.above]
  | cons e m ih =>
    obtain ⟨a', b'⟩ := e
    have h := ih a' b'
    simp only [Memory.wf, Bool.and_eq_true, bne_iff_ne, decide_eq_true_eq, Memory.above, List.mem_cons, forall_eq_or_imp] at h ⊢
    constructor
    · rintro ⟨⟨hb, hlt⟩, hw⟩
      exact ⟨hb, ⟨hlt, fun e he => Nat.lt_trans hlt ((h.1 hw).2.1 e he)⟩, hw⟩
    · rintro ⟨hb, ⟨hlt, _⟩, hw⟩
      exact ⟨⟨hb, hlt⟩, hw⟩

theorem memGet_of_above {a : Nat} {m : Memory} (h : Memory.above a m) : memGet m a = 0 := by
  cases m with
  | nil => rfl
  | cons e m =>
    have := h e (List.mem_cons_self ..)
    simp [memGet, this, Nat.ne_of_lt this]

theorem memSet_above {a c : Nat} {b : Byte} {m : Memory} (h : Memory.above c m) (hc : c < a) : Memory.above c (memSet m a b) := by
  induction m with
  | nil =>
    simp only [memSet]
    split
    · exact h
    · intro e he; simp at he; simp [he, hc]
  | cons e m ih =>
    obtain ⟨a', b'⟩ := e
    have h1 : c < a' := h (a', b') (List.mem_cons_self ..)
    have h2 : Memory.above c m := fun e he => h e (List.mem_cons_of_mem _ he)
    simp only [memSet]
    split
    · split
      · exact h
      · intro e he
        rcases List.mem_cons.1 he with rfl | he
        · exact hc
        · exact h e he
    · split
      · split
        · exact h2
        · intro e he
          rcases List.mem_cons.1 he with rfl | he
          · exact hc
          · exact h2 e he
      · intro e he
        rcases List.mem_cons.1 he with rfl | he
        · exact h1
        · exact ih h2 e he

/-- Writing one byte keeps the canonical form. -/
theorem memSet_wf {m : Memory} (a : Nat) (b : Byte) (h : Memory.wf m = true) : Memory.wf (memSet m a b) = true := by
  induction m with
  | nil =>
    simp only [memSet]
    split <;> simp_all [Memory.wf]
  | cons e m ih =>
    obtain ⟨a', b'⟩ := e
    obtain ⟨hb, ha, hw⟩ := (Memory.wf_cons ..).1 h
    simp only [memSet]
    split
    · split
      · exact h
      · rename_i hlt hb0
        refine (Memory.wf_cons ..).2 ⟨hb0, ?_, h⟩
        intro e he
        rcases List.mem_cons.1 he with rfl | he
        · exact hlt
        · exact Nat.lt_trans hlt (ha e he)
    · split
      · rename_i _ heq
        subst heq
        split
        · exact hw
        · rename_i hb0
          exact (Memory.wf_cons ..).2 ⟨hb0, ha, hw⟩
      · rename_i h1 h2
        exact (Memory.wf_cons ..).2 ⟨hb, memSet_above ha (by omega), ih hw⟩

/-- A byte read after one byte is written. -/
theorem memGet_memSet {m : Memory} (a c : Nat) (b : Byte) (h : Memory.wf m = true) :
    memGet (memSet m a b) c = if c = a then b else memGet m c := by
  induction m with
  | nil =>
    by_cases hb : b = 0#8
    · simp [memSet, hb, memGet]
    · simp [memSet, hb, memGet]
  | cons e m ih =>
    obtain ⟨a', b'⟩ := e
    obtain ⟨hb', ha, hw⟩ := (Memory.wf_cons ..).1 h
    by_cases h1 : a < a'
    · have h1' : a ≠ a' := Nat.ne_of_lt h1
      by_cases hb : b = 0#8
      · by_cases hc : c = a
        · subst hc; simp [memSet, h1, hb, memGet, h1']
        · simp [memSet, h1, hb, hc]
      · by_cases hc : c = a
        · subst hc; simp [memSet, h1, hb, memGet]
        · by_cases hl : c < a
          · have : c ≠ a' := by omega
            have : c < a' := by omega
            simp [memSet, memGet, *]
          · simp [memSet, h1, hb, memGet, hc, hl]
    · by_cases h2 : a = a'
      · subst h2
        by_cases hb : b = 0#8
        · by_cases hc : c = a
          · subst hc; simp [memSet, hb, memGet_of_above ha]
          · by_cases hl : c < a
            · have : memGet m c = 0 := memGet_of_above fun e he => Nat.lt_trans hl (ha e he)
              simp [memSet, hb, memGet, hc, hl, this]
            · simp [memSet, hb, memGet, hc, hl]
        · by_cases hc : c = a
          · subst hc; simp [memSet, hb, memGet]
          · simp [memSet, hb, memGet, hc]
      · by_cases hc : c = a'
        · subst hc
          have : c ≠ a := fun h => h2 h.symm
          simp [memSet, h1, h2, memGet, this]
        · by_cases hl : c < a'
          · have : c ≠ a := by omega
            simp [memSet, h1, h2, memGet, hc, hl, this]
          · simp [memSet, h1, h2, memGet, hc, hl, ih hw]

/-- Writing bytes keeps the canonical form. -/
theorem memWrite_wf (bs : List Byte) {m : Memory} (a : Nat) (h : Memory.wf m = true) : Memory.wf (memWrite m a bs) = true := by
  induction bs generalizing m a with
  | nil => exact h
  | cons b bs ih => exact ih (a + 1) (memSet_wf a b h)

theorem memPut_wf {m : Memory} (a n v : Nat) (h : Memory.wf m = true) : Memory.wf (memPut m a n v) = true := memWrite_wf _ a h

/-- A byte read after bytes are written. -/
theorem memGet_memWrite (bs : List Byte) {m : Memory} (a c : Nat) (h : Memory.wf m = true) :
    memGet (memWrite m a bs) c = if a ≤ c ∧ c < a + bs.length then bs.getD (c - a) 0 else memGet m c := by
  induction bs generalizing m a with
  | nil => simp [memWrite]
  | cons b bs ih =>
    simp only [memWrite, ih (a + 1) (memSet_wf a b h), memGet_memSet a c b h, List.length_cons]
    by_cases h1 : a + 1 ≤ c ∧ c < a + 1 + bs.length
    · have h2 : a ≤ c ∧ c < a + (bs.length + 1) := by omega
      have h3 : c - a = (c - (a + 1)) + 1 := by omega
      simp [h1, h2, h3]
    · by_cases h4 : c = a
      · subst h4; simp
      · have h2 : ¬ (a ≤ c ∧ c < a + (bs.length + 1)) := by omega
        rw [if_neg h1, if_neg h2, if_neg h4]

/-- Bytes outside a write read as before. -/
theorem memGet_memWrite_outside (bs : List Byte) {m : Memory} {a c : Nat} (h : Memory.wf m = true)
    (ho : c < a ∨ a + bs.length ≤ c) : memGet (memWrite m a bs) c = memGet m c := by
  rw [memGet_memWrite bs a c h, if_neg (by omega)]

theorem memRead_length (m : Memory) (a n : Nat) : (memRead m a n).length = n := by
  induction n generalizing a with
  | zero => rfl
  | succ n ih => simp [memRead, ih]

theorem memRead_congr {m m' : Memory} {a n : Nat} (h : ∀ c, a ≤ c → c < a + n → memGet m' c = memGet m c) :
    memRead m' a n = memRead m a n := by
  induction n generalizing a with
  | zero => rfl
  | succ n ih =>
    simp only [memRead]
    rw [h a (by omega) (by omega), ih fun c h1 h2 => h c (by omega) (by omega)]

/-- What is written is read. -/
theorem memRead_memWrite (bs : List Byte) {m : Memory} (a : Nat) (h : Memory.wf m = true) :
    memRead (memWrite m a bs) a bs.length = bs := by
  induction bs generalizing m a with
  | nil => rfl
  | cons b bs ih =>
    simp only [List.length_cons, memRead, memWrite]
    rw [ih (a + 1) (memSet_wf a b h), memGet_memWrite_outside bs (memSet_wf a b h) (by omega), memGet_memSet a a b h]
    simp

theorem natLe_length (n v : Nat) : (natLe n v).length = n := by
  induction n generalizing v with
  | zero => rfl
  | succ n ih => simp [natLe, ih]

/-- The little-endian bytes of a number give it back, modulo their width (00 R5). -/
theorem leNat_natLe (n v : Nat) : leNat (natLe n v) = v % 256 ^ n := by
  induction n generalizing v with
  | zero => simp [natLe, leNat, Nat.mod_one]
  | succ n ih =>
    have h : 256 ^ (n + 1) = 256 * 256 ^ n := Nat.pow_succ'
    simp only [natLe, leNat, ih, BitVec.toNat_ofNat]
    rw [h, Nat.mod_mul]

/-- A number put in memory is read from it. -/
theorem memNat_memPut {m : Memory} (a n v : Nat) (h : Memory.wf m = true) : memNat (memPut m a n v) a n = v % 256 ^ n := by
  have := memRead_memWrite (natLe n v) a h
  rw [natLe_length] at this
  rw [memNat, memPut, this, leNat_natLe]

theorem Memory.wf_filter (p : Host.Cell → Bool) {m : Memory} (h : Memory.wf m = true) : Memory.wf (m.filter p) = true := by
  induction m with
  | nil => rfl
  | cons e m ih =>
    obtain ⟨a, b⟩ := e
    obtain ⟨hb, ha, hw⟩ := (Memory.wf_cons ..).1 h
    by_cases hp : p (a, b)
    · simp only [List.filter_cons, hp, if_true]
      exact (Memory.wf_cons ..).2 ⟨hb, fun e he => ha e (List.mem_filter.1 he).1, ih hw⟩
    · simpa [List.filter_cons, hp] using ih hw

theorem layCells_above (bs : List Byte) {a c : Nat} (hc : c < a) : Memory.above c (layCells a bs) := by
  induction bs generalizing a with
  | nil => intro e he; cases he
  | cons b bs ih =>
    simp only [layCells]
    split
    · exact ih (Nat.lt_succ_of_lt hc)
    · intro e he
      rcases List.mem_cons.1 he with rfl | he
      · exact hc
      · exact ih (Nat.lt_succ_of_lt hc) e he

theorem layCells_below (bs : List Byte) (a : Nat) : ∀ e ∈ layCells a bs, a ≤ e.1 ∧ e.1 < a + bs.length := by
  induction bs generalizing a with
  | nil => intro e he; cases he
  | cons b bs ih =>
    intro e he
    simp only [layCells] at he
    split at he
    · have := ih (a + 1) e he; simp only [List.length_cons]; omega
    · rcases List.mem_cons.1 he with rfl | he
      · simp
      · have := ih (a + 1) e he; simp only [List.length_cons]; omega

theorem layCells_wf (bs : List Byte) (a : Nat) : Memory.wf (layCells a bs) = true := by
  induction bs generalizing a with
  | nil => rfl
  | cons b bs ih =>
    simp only [layCells]
    split
    · exact ih _
    · rename_i hb
      exact (Memory.wf_cons ..).2 ⟨hb, layCells_above bs (Nat.lt_succ_self a), ih _⟩

/-- Clearing a stretch keeps the canonical form. -/
theorem memClear_wf {m : Memory} (a n : Nat) (h : Memory.wf m = true) : Memory.wf (memClear m a n) = true := Memory.wf_filter _ h

theorem Memory.wf_append {m m' : Memory} (h : Memory.wf m = true) (h' : Memory.wf m' = true)
    (hlt : ∀ e ∈ m, ∀ e' ∈ m', e.1 < e'.1) : Memory.wf (m ++ m') = true := by
  induction m with
  | nil => exact h'
  | cons e m ih =>
    obtain ⟨a, b⟩ := e
    obtain ⟨hb, ha, hw⟩ := (Memory.wf_cons ..).1 h
    refine (Memory.wf_cons ..).2 ⟨hb, ?_, ih hw fun e he => hlt e (List.mem_cons_of_mem _ he)⟩
    intro e he
    rcases List.mem_append.1 he with he | he
    · exact ha e he
    · exact hlt (a, b) (List.mem_cons_self ..) e he

theorem Memory.wf_shift (a b : Nat) {m : Memory} (h : Memory.wf m = true) (hge : ∀ e ∈ m, a ≤ e.1) :
    Memory.wf (m.map fun e => (e.1 - a + b, e.2)) = true := by
  induction m with
  | nil => rfl
  | cons e m ih =>
    obtain ⟨c, x⟩ := e
    obtain ⟨hb, ha, hw⟩ := (Memory.wf_cons ..).1 h
    refine (Memory.wf_cons ..).2 ⟨hb, ?_, ih hw fun e he => hge e (List.mem_cons_of_mem _ he)⟩
    intro e he
    obtain ⟨e', he', rfl⟩ := List.mem_map.1 he
    have h1 := ha e' he'
    have h2 : a ≤ c := hge (c, x) (List.mem_cons_self ..)
    show c - a + b < e'.1 - a + b
    omega

/-- Laying bytes keeps the canonical form. -/
theorem memLay_wf {m : Memory} (a : Nat) (bs : List Byte) (h : Memory.wf m = true) : Memory.wf (memLay m a bs) = true := by
  have hlow : ∀ e ∈ m.filter (fun e => decide (e.1 < a)), e.1 < a := fun e he => by simpa using (List.mem_filter.1 he).2
  have hhigh : ∀ e ∈ m.filter (fun e => decide (a + bs.length ≤ e.1)), a + bs.length ≤ e.1 := fun e he => by
    simpa using (List.mem_filter.1 he).2
  refine Memory.wf_append (Memory.wf_append (Memory.wf_filter _ h) (layCells_wf bs a) ?_) (Memory.wf_filter _ h) ?_
  · intro e he e' he'
    have := hlow e he
    have := (layCells_below bs a e' he').1
    omega
  · intro e he e' he'
    have h2 := hhigh e' he'
    rcases List.mem_append.1 he with he | he
    · have := hlow e he; omega
    · have := (layCells_below bs a e he).2; omega

/-- Copying a stretch keeps the canonical form. -/
theorem memCopy_wf {m : Memory} (a b n : Nat) (h : Memory.wf m = true) : Memory.wf (memCopy m a b n) = true := by
  have hm : ∀ e ∈ (m.filter fun e => decide (a ≤ e.1) && decide (e.1 < a + n)).map (fun e => (e.1 - a + b, e.2)),
      b ≤ e.1 ∧ e.1 < b + n := by
    intro e he
    obtain ⟨e', he', rfl⟩ := List.mem_map.1 he
    have := (List.mem_filter.1 he').2
    simp only [Bool.and_eq_true, decide_eq_true_eq] at this
    show b ≤ e'.1 - a + b ∧ e'.1 - a + b < b + n
    omega
  have hlow : ∀ e ∈ m.filter (fun e => decide (e.1 < b)), e.1 < b := fun e he => by
    simpa using (List.mem_filter.1 he).2
  have hhigh : ∀ e ∈ m.filter (fun e => decide (b + n ≤ e.1)), b + n ≤ e.1 := fun e he => by
    simpa using (List.mem_filter.1 he).2
  refine Memory.wf_append (Memory.wf_append (Memory.wf_filter _ h) (Memory.wf_shift a b (Memory.wf_filter _ h) ?_) ?_)
    (Memory.wf_filter _ h) ?_
  · intro e he
    have := (List.mem_filter.1 he).2
    simp only [Bool.and_eq_true, decide_eq_true_eq] at this
    exact this.1
  · intro e he e' he'
    have := hlow e he
    have := (hm e' he').1
    omega
  · intro e he e' he'
    have h2 := hhigh e' he'
    rcases List.mem_append.1 he with he | he
    · have := hlow e he; omega
    · have := (hm e he).2; omega

end Sys2Proof.Machine
end

