-- ==== Sys2Proof/Laws/PerInstr.lean ====
section
/-! SUPPORT. One lemma per instruction on its words: their number and their size (08 R191, R194). -/
namespace Sys2Proof

set_option Elab.async false
set_option linter.all false

/-- At most three words, each below 2^31: bit B is left to the bundle (08 R191, R194). -/
def Laws.Coding.Statement (i : Instr) : Prop := i.wf = true → (encode i).length ≤ 3 ∧ ∀ w ∈ encode i, w < 2 ^ 31

theorem Laws.Coding.of_none {i : Instr} (h : encode i = []) : Laws.Coding.Statement i := by
  intro _; rw [h]; exact ⟨Nat.zero_le _, fun _ h => absurd h List.not_mem_nil⟩

theorem Laws.Coding.of_cons {i : Instr} {w : Nat} {xs : List Nat} (he : encode i = w :: xs)
    (h : i.wf = true → w < 2 ^ 31 ∧ xs.length ≤ 2 ∧ ∀ x ∈ xs, x < 2 ^ 31) : Laws.Coding.Statement i := by
  intro hw
  obtain ⟨h1, h2, h3⟩ := h hw
  rw [he]
  refine ⟨by simpa using Nat.succ_le_succ h2, fun v hv => ?_⟩
  rcases List.mem_cons.1 hv with rfl | hv
  · exact h1
  · exact h3 v hv

/-- The X words of an immediate. -/
theorem Laws.Coding.imm {width n : Nat} {m : Imm} (h : m.wf width n = true) (hn : n ≤ 2) :
    (m.xs.map mkX).length ≤ 2 ∧ ∀ x ∈ m.xs.map mkX, x < 2 ^ 31 := by
  simp only [Imm.wf, Bool.and_eq_true, decide_eq_true_eq, List.all_eq_true] at h
  refine ⟨by simp; omega, fun x hx => ?_⟩
  obtain ⟨y, hy, rfl⟩ := List.mem_map.1 hx
  have := h.1.2 y hy
  simp only [mkX]; omega

/-- The own field of an immediate. -/
theorem Laws.Coding.field {width n : Nat} {m : Imm} (h : m.wf width n = true) : m.field < 2 ^ width := by
  simp only [Imm.wf, Bool.and_eq_true, decide_eq_true_eq] at h
  exact h.1.1.1

/-- The X word of an optional operand. -/
theorem Laws.Coding.opt {α : Type} {o : Option α} {f : α → Nat} (h : ∀ x, o = some x → f x < 2 ^ 28) :
    (o.toList.map fun x => mkX (f x)).length ≤ 2 ∧ ∀ w ∈ o.toList.map fun x => mkX (f x), w < 2 ^ 31 := by
  cases o with
  | none => exact ⟨Nat.zero_le _, fun _ h => absurd h List.not_mem_nil⟩
  | some x =>
    refine ⟨by simp, fun w hw => ?_⟩
    obtain rfl : w = mkX (f x) := by simpa using hw
    have := h x rfl
    simp only [mkX]; omega

/-- The word and the X word of a class V word. -/
theorem Laws.Coding.vops {al : VAllow} {o : VOps} (h : o.wf al = true) (op : Nat) {g : Nat} (hg : g < 16) (hop : op < 64) :
    mkWord 2 op (vFields o) g < 2 ^ 31 ∧ (o.x.toList.map fun x => mkX (vxWord x)).length ≤ 2 ∧
      ∀ w ∈ o.x.toList.map fun x => mkX (vxWord x), w < 2 ^ 31 := by
  simp only [VOps.wf, Bool.and_eq_true, decide_eq_true_eq] at h
  refine ⟨by simp only [mkWord, vFields, place]; omega, Laws.Coding.opt fun x hx => ?_⟩
  simp only [hx, VX.wf, Bool.and_eq_true, decide_eq_true_eq] at h
  simp only [vxWord]; omega

/-- The X word of an optional register operand. -/
theorem Laws.Coding.reg {o : Option (Option Nat)} {lo on : Nat} (h : maskWf o = true) (hl : lo ≤ 8) (hn : on ≤ 16) :
    (o.toList.map fun v => mkX (optRegBits lo on v)).length ≤ 2 ∧
      ∀ w ∈ o.toList.map fun v => mkX (optRegBits lo on v), w < 2 ^ 31 := by
  refine Laws.Coding.opt fun x hx => ?_
  subst hx
  cases x with
  | none => simp [optRegBits]
  | some r =>
    have hr : r < 16 := by simpa [maskWf] using h
    have h1 : r * 2 ^ lo ≤ 16 * 2 ^ 8 := Nat.mul_le_mul hr.le (Nat.pow_le_pow_right (by decide) hl)
    have h2 : 2 ^ on ≤ 2 ^ 16 := Nat.pow_le_pow_right (by decide) hn
    simp only [optRegBits]; omega

/-- The X word of a size. -/
theorem Laws.Coding.size {o : Option Nat} (h : o = none ∨ o = some 0 ∨ o = some 1) :
    (o.toList.map mkX).length ≤ 2 ∧ ∀ w ∈ o.toList.map mkX, w < 2 ^ 31 := by
  refine Laws.Coding.opt (f := id) fun x hx => ?_
  rcases h with h | h | h <;> simp [h] at hx <;> subst hx <;> decide

theorem Laws.Coding.add (v0 v1 v2 v3) : Laws.Coding.Statement (.add v0 v1 v2 v3) := of_cons rfl fun h => by
  simp only [Instr.wf, Bool.and_eq_true, decide_eq_true_eq] at h
  simp [mkWord, place, mkX] <;> omega
theorem Laws.Coding.sub (v0 v1 v2 v3) : Laws.Coding.Statement (.sub v0 v1 v2 v3) := of_cons rfl fun h => by
  simp only [Instr.wf, Bool.and_eq_true, decide_eq_true_eq] at h
  simp [mkWord, place, mkX] <;> omega
theorem Laws.Coding.addi (v0 v1 v2 v3) : Laws.Coding.Statement (.addi v0 v1 v2 v3) := of_cons rfl fun h => by
  simp only [Instr.wf, Bool.and_eq_true, decide_eq_true_eq] at h
  have hf := Laws.Coding.field h.2
  exact ⟨by simp only [mkWord, place]; omega, Laws.Coding.imm h.2 (by decide)⟩
theorem Laws.Coding.movi (v0 v1 v2) : Laws.Coding.Statement (.movi v0 v1 v2) := of_cons rfl fun h => by
  simp only [Instr.wf, Bool.and_eq_true, decide_eq_true_eq] at h
  have hf := Laws.Coding.field h.2
  exact ⟨by simp only [mkWord, place]; omega, Laws.Coding.imm h.2 (by decide)⟩
theorem Laws.Coding.mul (v0 v1 v2 v3) : Laws.Coding.Statement (.mul v0 v1 v2 v3) := of_cons rfl fun h => by
  simp only [Instr.wf, Bool.and_eq_true, decide_eq_true_eq] at h
  simp [mkWord, place, mkX] <;> omega
theorem Laws.Coding.mulh (v0 v1 v2 v3) : Laws.Coding.Statement (.mulh v0 v1 v2 v3) := of_cons rfl fun h => by
  simp only [Instr.wf, Bool.and_eq_true, decide_eq_true_eq] at h
  simp [mkWord, place, mkX] <;> omega
theorem Laws.Coding.mulhu (v0 v1 v2 v3) : Laws.Coding.Statement (.mulhu v0 v1 v2 v3) := of_cons rfl fun h => by
  simp only [Instr.wf, Bool.and_eq_true, decide_eq_true_eq] at h
  simp [mkWord, place, mkX] <;> omega
theorem Laws.Coding.and (v0 v1 v2 v3) : Laws.Coding.Statement (.and v0 v1 v2 v3) := of_cons rfl fun h => by
  simp only [Instr.wf, Bool.and_eq_true, decide_eq_true_eq] at h
  simp [mkWord, place, mkX] <;> omega
theorem Laws.Coding.or (v0 v1 v2 v3) : Laws.Coding.Statement (.or v0 v1 v2 v3) := of_cons rfl fun h => by
  simp only [Instr.wf, Bool.and_eq_true, decide_eq_true_eq] at h
  simp [mkWord, place, mkX] <;> omega
theorem Laws.Coding.xor (v0 v1 v2 v3) : Laws.Coding.Statement (.xor v0 v1 v2 v3) := of_cons rfl fun h => by
  simp only [Instr.wf, Bool.and_eq_true, decide_eq_true_eq] at h
  simp [mkWord, place, mkX] <;> omega
theorem Laws.Coding.andn (v0 v1 v2 v3) : Laws.Coding.Statement (.andn v0 v1 v2 v3) := of_cons rfl fun h => by
  simp only [Instr.wf, Bool.and_eq_true, decide_eq_true_eq] at h
  simp [mkWord, place, mkX] <;> omega
theorem Laws.Coding.andi (v0 v1 v2 v3) : Laws.Coding.Statement (.andi v0 v1 v2 v3) := of_cons rfl fun h => by
  simp only [Instr.wf, Bool.and_eq_true, decide_eq_true_eq] at h
  have hf := Laws.Coding.field h.2
  exact ⟨by simp only [mkWord, place]; omega, Laws.Coding.imm h.2 (by decide)⟩
theorem Laws.Coding.ori (v0 v1 v2 v3) : Laws.Coding.Statement (.ori v0 v1 v2 v3) := of_cons rfl fun h => by
  simp only [Instr.wf, Bool.and_eq_true, decide_eq_true_eq] at h
  have hf := Laws.Coding.field h.2
  exact ⟨by simp only [mkWord, place]; omega, Laws.Coding.imm h.2 (by decide)⟩
theorem Laws.Coding.xori (v0 v1 v2 v3) : Laws.Coding.Statement (.xori v0 v1 v2 v3) := of_cons rfl fun h => by
  simp only [Instr.wf, Bool.and_eq_true, decide_eq_true_eq] at h
  have hf := Laws.Coding.field h.2
  exact ⟨by simp only [mkWord, place]; omega, Laws.Coding.imm h.2 (by decide)⟩
theorem Laws.Coding.shl (v0 v1 v2 v3) : Laws.Coding.Statement (.shl v0 v1 v2 v3) := of_cons rfl fun h => by
  simp only [Instr.wf, Bool.and_eq_true, decide_eq_true_eq] at h
  simp [mkWord, place, mkX] <;> omega
theorem Laws.Coding.shr (v0 v1 v2 v3) : Laws.Coding.Statement (.shr v0 v1 v2 v3) := of_cons rfl fun h => by
  simp only [Instr.wf, Bool.and_eq_true, decide_eq_true_eq] at h
  simp [mkWord, place, mkX] <;> omega
theorem Laws.Coding.sar (v0 v1 v2 v3) : Laws.Coding.Statement (.sar v0 v1 v2 v3) := of_cons rfl fun h => by
  simp only [Instr.wf, Bool.and_eq_true, decide_eq_true_eq] at h
  simp [mkWord, place, mkX] <;> omega
theorem Laws.Coding.shli (v0 v1 v2 v3) : Laws.Coding.Statement (.shli v0 v1 v2 v3) := of_cons rfl fun h => by
  simp only [Instr.wf, Bool.and_eq_true, decide_eq_true_eq] at h
  simp [mkWord, place, mkX] <;> omega
theorem Laws.Coding.shri (v0 v1 v2 v3) : Laws.Coding.Statement (.shri v0 v1 v2 v3) := of_cons rfl fun h => by
  simp only [Instr.wf, Bool.and_eq_true, decide_eq_true_eq] at h
  simp [mkWord, place, mkX] <;> omega
theorem Laws.Coding.sari (v0 v1 v2 v3) : Laws.Coding.Statement (.sari v0 v1 v2 v3) := of_cons rfl fun h => by
  simp only [Instr.wf, Bool.and_eq_true, decide_eq_true_eq] at h
  simp [mkWord, place, mkX] <;> omega
theorem Laws.Coding.clz (v0 v1 v2) : Laws.Coding.Statement (.clz v0 v1 v2) := of_cons rfl fun h => by
  simp only [Instr.wf, Bool.and_eq_true, decide_eq_true_eq] at h
  simp [mkWord, place, mkX] <;> omega
theorem Laws.Coding.popc (v0 v1 v2) : Laws.Coding.Statement (.popc v0 v1 v2) := of_cons rfl fun h => by
  simp only [Instr.wf, Bool.and_eq_true, decide_eq_true_eq] at h
  simp [mkWord, place, mkX] <;> omega
theorem Laws.Coding.min (v0 v1 v2 v3) : Laws.Coding.Statement (.min v0 v1 v2 v3) := of_cons rfl fun h => by
  simp only [Instr.wf, Bool.and_eq_true, decide_eq_true_eq] at h
  simp [mkWord, place, mkX] <;> omega
theorem Laws.Coding.max (v0 v1 v2 v3) : Laws.Coding.Statement (.max v0 v1 v2 v3) := of_cons rfl fun h => by
  simp only [Instr.wf, Bool.and_eq_true, decide_eq_true_eq] at h
  simp [mkWord, place, mkX] <;> omega
theorem Laws.Coding.minu (v0 v1 v2 v3) : Laws.Coding.Statement (.minu v0 v1 v2 v3) := of_cons rfl fun h => by
  simp only [Instr.wf, Bool.and_eq_true, decide_eq_true_eq] at h
  simp [mkWord, place, mkX] <;> omega
theorem Laws.Coding.maxu (v0 v1 v2 v3) : Laws.Coding.Statement (.maxu v0 v1 v2 v3) := of_cons rfl fun h => by
  simp only [Instr.wf, Bool.and_eq_true, decide_eq_true_eq] at h
  simp [mkWord, place, mkX] <;> omega
theorem Laws.Coding.sel (v0 v1 v2 v3 v4) : Laws.Coding.Statement (.sel v0 v1 v2 v3 v4) := of_cons rfl fun h => by
  simp only [Instr.wf, Bool.and_eq_true, decide_eq_true_eq] at h
  simp [mkWord, place, mkX] <;> omega
theorem Laws.Coding.bfx (v0 v1 v2 v3) : Laws.Coding.Statement (.bfx v0 v1 v2 v3) := of_cons rfl fun h => by
  simp only [Instr.wf, Bool.and_eq_true, decide_eq_true_eq] at h
  simp [mkWord, place, mkX] <;> omega
theorem Laws.Coding.bfi (v0 v1 v2 v3) : Laws.Coding.Statement (.bfi v0 v1 v2 v3) := of_cons rfl fun h => by
  simp only [Instr.wf, Bool.and_eq_true, decide_eq_true_eq] at h
  simp [mkWord, place, mkX] <;> omega
theorem Laws.Coding.cmpeq (v0 v1 v2 v3) : Laws.Coding.Statement (.cmpeq v0 v1 v2 v3) := of_cons rfl fun h => by
  simp only [Instr.wf, Bool.and_eq_true, decide_eq_true_eq] at h
  simp [mkWord, place, mkX] <;> omega
theorem Laws.Coding.cmpne (v0 v1 v2 v3) : Laws.Coding.Statement (.cmpne v0 v1 v2 v3) := of_cons rfl fun h => by
  simp only [Instr.wf, Bool.and_eq_true, decide_eq_true_eq] at h
  simp [mkWord, place, mkX] <;> omega
theorem Laws.Coding.cmplt (v0 v1 v2 v3) : Laws.Coding.Statement (.cmplt v0 v1 v2 v3) := of_cons rfl fun h => by
  simp only [Instr.wf, Bool.and_eq_true, decide_eq_true_eq] at h
  simp [mkWord, place, mkX] <;> omega
theorem Laws.Coding.cmpltu (v0 v1 v2 v3) : Laws.Coding.Statement (.cmpltu v0 v1 v2 v3) := of_cons rfl fun h => by
  simp only [Instr.wf, Bool.and_eq_true, decide_eq_true_eq] at h
  simp [mkWord, place, mkX] <;> omega
theorem Laws.Coding.cmple (v0 v1 v2 v3) : Laws.Coding.Statement (.cmple v0 v1 v2 v3) := of_cons rfl fun h => by
  simp only [Instr.wf, Bool.and_eq_true, decide_eq_true_eq] at h
  simp [mkWord, place, mkX] <;> omega
theorem Laws.Coding.cmpleu (v0 v1 v2 v3) : Laws.Coding.Statement (.cmpleu v0 v1 v2 v3) := of_cons rfl fun h => by
  simp only [Instr.wf, Bool.and_eq_true, decide_eq_true_eq] at h
  simp [mkWord, place, mkX] <;> omega
theorem Laws.Coding.cmpeqi (v0 v1 v2 v3) : Laws.Coding.Statement (.cmpeqi v0 v1 v2 v3) := of_cons rfl fun h => by
  simp only [Instr.wf, Bool.and_eq_true, decide_eq_true_eq] at h
  have hf := Laws.Coding.field h.2
  exact ⟨by simp only [mkWord, place]; omega, Laws.Coding.imm h.2 (by decide)⟩
theorem Laws.Coding.cmplti (v0 v1 v2 v3) : Laws.Coding.Statement (.cmplti v0 v1 v2 v3) := of_cons rfl fun h => by
  simp only [Instr.wf, Bool.and_eq_true, decide_eq_true_eq] at h
  have hf := Laws.Coding.field h.2
  exact ⟨by simp only [mkWord, place]; omega, Laws.Coding.imm h.2 (by decide)⟩
theorem Laws.Coding.nop (v0 v1) : Laws.Coding.Statement (.nop v0 v1) := of_cons rfl fun h => by
  simp only [Instr.wf, Bool.and_eq_true, decide_eq_true_eq] at h
  simp [mkWord, place, mkX] <;> omega
theorem Laws.Coding.br (v0 v1) : Laws.Coding.Statement (.br v0 v1) := of_cons rfl fun h => by
  simp only [Instr.wf, Bool.and_eq_true, decide_eq_true_eq] at h
  have hf := Laws.Coding.field h.2
  exact ⟨by simp only [mkWord, place]; omega, Laws.Coding.imm h.2 (by decide)⟩
theorem Laws.Coding.brx (v0 v1) : Laws.Coding.Statement (.brx v0 v1) := of_cons rfl fun h => by
  simp only [Instr.wf, Bool.and_eq_true, decide_eq_true_eq] at h
  simp [mkWord, place, mkX] <;> omega
theorem Laws.Coding.call (v0 v1) : Laws.Coding.Statement (.call v0 v1) := of_cons rfl fun h => by
  simp only [Instr.wf, Bool.and_eq_true, decide_eq_true_eq] at h
  have hf := Laws.Coding.field h.2
  exact ⟨by simp only [mkWord, place]; omega, Laws.Coding.imm h.2 (by decide)⟩
theorem Laws.Coding.callx (v0 v1) : Laws.Coding.Statement (.callx v0 v1) := of_cons rfl fun h => by
  simp only [Instr.wf, Bool.and_eq_true, decide_eq_true_eq] at h
  simp [mkWord, place, mkX] <;> omega
theorem Laws.Coding.ret (v0 v1) : Laws.Coding.Statement (.ret v0 v1) := of_cons rfl fun h => by
  simp only [Instr.wf, Bool.and_eq_true, decide_eq_true_eq] at h
  simp [mkWord, place, mkX] <;> omega
theorem Laws.Coding.tend (v0) : Laws.Coding.Statement (.tend v0) := of_cons rfl fun h => by
  simp only [Instr.wf, Bool.and_eq_true, decide_eq_true_eq] at h
  simp [mkWord, place, mkX] <;> omega
theorem Laws.Coding.trap (v0 v1) : Laws.Coding.Statement (.trap v0 v1) := of_cons rfl fun h => by
  simp only [Instr.wf, Bool.and_eq_true, decide_eq_true_eq] at h
  simp [mkWord, place, mkX] <;> omega
theorem Laws.Coding.loop (v0 v1 v2) : Laws.Coding.Statement (.loop v0 v1 v2) := of_cons rfl fun h => by
  simp only [Instr.wf, Bool.and_eq_true, decide_eq_true_eq] at h
  simp [mkWord, place, mkX] <;> omega
theorem Laws.Coding.loopi (v0 v1 v2) : Laws.Coding.Statement (.loopi v0 v1 v2) := of_cons rfl fun h => by
  simp only [Instr.wf, Bool.and_eq_true, decide_eq_true_eq] at h
  simp [mkWord, place, mkX] <;> omega
theorem Laws.Coding.loopt (v0 v1 v2 v3 v4) : Laws.Coding.Statement (.loopt v0 v1 v2 v3 v4) := of_cons rfl fun h => by
  simp only [Instr.wf, Bool.and_eq_true, decide_eq_true_eq] at h
  simp [mkWord, place, mkX] <;> omega
theorem Laws.Coding.pipe (v0 v1 v2) : Laws.Coding.Statement (.pipe v0 v1 v2) := of_cons rfl fun h => by
  simp only [Instr.wf, Bool.and_eq_true, decide_eq_true_eq] at h
  simp [mkWord, place, mkX] <;> omega
theorem Laws.Coding.lclose (v0 v1) : Laws.Coding.Statement (.lclose v0 v1) := of_cons rfl fun h => by
  simp only [Instr.wf, Bool.and_eq_true, decide_eq_true_eq] at h
  have hf := Laws.Coding.field h.2
  exact ⟨by simp only [mkWord, place]; omega, Laws.Coding.imm h.2 (by decide)⟩
theorem Laws.Coding.pand (v0 v1 v2 v3) : Laws.Coding.Statement (.pand v0 v1 v2 v3) := of_cons rfl fun h => by
  simp only [Instr.wf, Bool.and_eq_true, decide_eq_true_eq] at h
  simp [mkWord, place, mkX] <;> omega
theorem Laws.Coding.por (v0 v1 v2 v3) : Laws.Coding.Statement (.por v0 v1 v2 v3) := of_cons rfl fun h => by
  simp only [Instr.wf, Bool.and_eq_true, decide_eq_true_eq] at h
  simp [mkWord, place, mkX] <;> omega
theorem Laws.Coding.pxor (v0 v1 v2 v3) : Laws.Coding.Statement (.pxor v0 v1 v2 v3) := of_cons rfl fun h => by
  simp only [Instr.wf, Bool.and_eq_true, decide_eq_true_eq] at h
  simp [mkWord, place, mkX] <;> omega
theorem Laws.Coding.pandn (v0 v1 v2 v3) : Laws.Coding.Statement (.pandn v0 v1 v2 v3) := of_cons rfl fun h => by
  simp only [Instr.wf, Bool.and_eq_true, decide_eq_true_eq] at h
  simp [mkWord, place, mkX] <;> omega
theorem Laws.Coding.pnot (v0 v1 v2) : Laws.Coding.Statement (.pnot v0 v1 v2) := of_cons rfl fun h => by
  simp only [Instr.wf, Bool.and_eq_true, decide_eq_true_eq] at h
  simp [mkWord, place, mkX] <;> omega
theorem Laws.Coding.pseti (v0 v1 v2) : Laws.Coding.Statement (.pseti v0 v1 v2) := of_cons rfl fun h => by
  simp only [Instr.wf, Bool.and_eq_true, decide_eq_true_eq] at h
  simp [mkWord, place, mkX] <;> omega
theorem Laws.Coding.ptox (v0 v1) : Laws.Coding.Statement (.ptox v0 v1) := of_cons rfl fun h => by
  simp only [Instr.wf, Bool.and_eq_true, decide_eq_true_eq] at h
  simp [mkWord, place, mkX] <;> omega
theorem Laws.Coding.xtop (v0 v1) : Laws.Coding.Statement (.xtop v0 v1) := of_cons rfl fun h => by
  simp only [Instr.wf, Bool.and_eq_true, decide_eq_true_eq] at h
  simp [mkWord, place, mkX] <;> omega
theorem Laws.Coding.waitany (v0 v1 v2) : Laws.Coding.Statement (.waitany v0 v1 v2) := of_cons rfl fun h => by
  simp only [Instr.wf, Bool.and_eq_true, decide_eq_true_eq] at h
  simp [mkWord, place, mkX] <;> omega
theorem Laws.Coding.waitall (v0 v1 v2) : Laws.Coding.Statement (.waitall v0 v1 v2) := of_cons rfl fun h => by
  simp only [Instr.wf, Bool.and_eq_true, decide_eq_true_eq] at h
  simp [mkWord, place, mkX] <;> omega
theorem Laws.Coding.ffrdy (v0 v1 v2) : Laws.Coding.Statement (.ffrdy v0 v1 v2) := of_cons rfl fun h => by
  simp only [Instr.wf, Bool.and_eq_true, decide_eq_true_eq] at h
  simp [mkWord, place, mkX] <;> omega
theorem Laws.Coding.pushm (v0 v1 v2) : Laws.Coding.Statement (.pushm v0 v1 v2) := of_cons rfl fun h => by
  simp only [Instr.wf, Bool.and_eq_true, decide_eq_true_eq] at h
  simp [mkWord, place, mkX] <;> omega
theorem Laws.Coding.popm (v0 v1 v2) : Laws.Coding.Statement (.popm v0 v1 v2) := of_cons rfl fun h => by
  simp only [Instr.wf, Bool.and_eq_true, decide_eq_true_eq] at h
  simp [mkWord, place, mkX] <;> omega
theorem Laws.Coding.bara (v0 v1 v2) : Laws.Coding.Statement (.bara v0 v1 v2) := of_cons rfl fun h => by
  simp only [Instr.wf, Bool.and_eq_true, decide_eq_true_eq] at h
  simp [mkWord, place, mkX] <;> omega
theorem Laws.Coding.barw (v0 v1) : Laws.Coding.Statement (.barw v0 v1) := of_cons rfl fun h => by
  simp only [Instr.wf, Bool.and_eq_true, decide_eq_true_eq] at h
  simp [mkWord, place, mkX] <;> omega
theorem Laws.Coding.fence (v0 v1 v2) : Laws.Coding.Statement (.fence v0 v1 v2) := of_cons rfl fun h => by
  simp only [Instr.wf, Bool.and_eq_true, decide_eq_true_eq] at h
  simp [mkWord, place, mkX] <;> omega
theorem Laws.Coding.csrr (v0 v1 v2) : Laws.Coding.Statement (.csrr v0 v1 v2) := of_cons rfl fun h => by
  simp only [Instr.wf, Bool.and_eq_true, decide_eq_true_eq] at h
  simp [mkWord, place, mkX] <;> omega
theorem Laws.Coding.csrw (v0 v1 v2) : Laws.Coding.Statement (.csrw v0 v1 v2) := of_cons rfl fun h => by
  simp only [Instr.wf, Bool.and_eq_true, decide_eq_true_eq] at h
  simp [mkWord, place, mkX] <;> omega
theorem Laws.Coding.csrs (v0 v1 v2) : Laws.Coding.Statement (.csrs v0 v1 v2) := of_cons rfl fun h => by
  simp only [Instr.wf, Bool.and_eq_true, decide_eq_true_eq] at h
  simp [mkWord, place, mkX] <;> omega
theorem Laws.Coding.csrc (v0 v1 v2) : Laws.Coding.Statement (.csrc v0 v1 v2) := of_cons rfl fun h => by
  simp only [Instr.wf, Bool.and_eq_true, decide_eq_true_eq] at h
  simp [mkWord, place, mkX] <;> omega
theorem Laws.Coding.tret (v0) : Laws.Coding.Statement (.tret v0) := of_cons rfl fun h => by
  simp only [Instr.wf, Bool.and_eq_true, decide_eq_true_eq] at h
  simp [mkWord, place, mkX] <;> omega
theorem Laws.Coding.dbrk (v0 v1) : Laws.Coding.Statement (.dbrk v0 v1) := of_cons rfl fun h => by
  simp only [Instr.wf, Bool.and_eq_true, decide_eq_true_eq] at h
  simp [mkWord, place, mkX] <;> omega
theorem Laws.Coding.regwb (v0 v1) : Laws.Coding.Statement (.regwb v0 v1) := of_cons rfl fun h => by
  simp only [Instr.wf, Bool.and_eq_true, decide_eq_true_eq] at h
  simp [mkWord, place, mkX] <;> omega
theorem Laws.Coding.lqry (v0 v1 v2) : Laws.Coding.Statement (.lqry v0 v1 v2) := of_cons rfl fun h => by
  simp only [Instr.wf, Bool.and_eq_true, decide_eq_true_eq] at h
  simp [mkWord, place, mkX] <;> omega
theorem Laws.Coding.vadd (v0 v1) : Laws.Coding.Statement (.vadd v0 v1) := of_cons rfl fun h => by
  simp only [Instr.wf, Bool.and_eq_true, decide_eq_true_eq] at h
  exact Laws.Coding.vops h.2 0 h.1 (by decide)
theorem Laws.Coding.vsub (v0 v1) : Laws.Coding.Statement (.vsub v0 v1) := of_cons rfl fun h => by
  simp only [Instr.wf, Bool.and_eq_true, decide_eq_true_eq] at h
  exact Laws.Coding.vops h.2 1 h.1 (by decide)
theorem Laws.Coding.vmul (v0 v1) : Laws.Coding.Statement (.vmul v0 v1) := of_cons rfl fun h => by
  simp only [Instr.wf, Bool.and_eq_true, decide_eq_true_eq] at h
  exact Laws.Coding.vops h.2 2 h.1 (by decide)
theorem Laws.Coding.vfma (v0 v1) : Laws.Coding.Statement (.vfma v0 v1) := of_cons rfl fun h => by
  simp only [Instr.wf, Bool.and_eq_true, decide_eq_true_eq] at h
  exact Laws.Coding.vops h.2 3 h.1 (by decide)
theorem Laws.Coding.vdiv (v0 v1) : Laws.Coding.Statement (.vdiv v0 v1) := of_cons rfl fun h => by
  simp only [Instr.wf, Bool.and_eq_true, decide_eq_true_eq] at h
  exact Laws.Coding.vops h.2 4 h.1 (by decide)
theorem Laws.Coding.vmin (v0 v1) : Laws.Coding.Statement (.vmin v0 v1) := of_cons rfl fun h => by
  simp only [Instr.wf, Bool.and_eq_true, decide_eq_true_eq] at h
  exact Laws.Coding.vops h.2 5 h.1 (by decide)
theorem Laws.Coding.vmax (v0 v1) : Laws.Coding.Statement (.vmax v0 v1) := of_cons rfl fun h => by
  simp only [Instr.wf, Bool.and_eq_true, decide_eq_true_eq] at h
  exact Laws.Coding.vops h.2 6 h.1 (by decide)
theorem Laws.Coding.vneg (v0 v1) : Laws.Coding.Statement (.vneg v0 v1) := of_cons rfl fun h => by
  simp only [Instr.wf, Bool.and_eq_true, decide_eq_true_eq] at h
  exact Laws.Coding.vops h.2 7 h.1 (by decide)
theorem Laws.Coding.vabs (v0 v1) : Laws.Coding.Statement (.vabs v0 v1) := of_cons rfl fun h => by
  simp only [Instr.wf, Bool.and_eq_true, decide_eq_true_eq] at h
  exact Laws.Coding.vops h.2 8 h.1 (by decide)
theorem Laws.Coding.vand (v0 v1) : Laws.Coding.Statement (.vand v0 v1) := of_cons rfl fun h => by
  simp only [Instr.wf, Bool.and_eq_true, decide_eq_true_eq] at h
  exact Laws.Coding.vops h.2 9 h.1 (by decide)
theorem Laws.Coding.vor (v0 v1) : Laws.Coding.Statement (.vor v0 v1) := of_cons rfl fun h => by
  simp only [Instr.wf, Bool.and_eq_true, decide_eq_true_eq] at h
  exact Laws.Coding.vops h.2 10 h.1 (by decide)
theorem Laws.Coding.vxor (v0 v1) : Laws.Coding.Statement (.vxor v0 v1) := of_cons rfl fun h => by
  simp only [Instr.wf, Bool.and_eq_true, decide_eq_true_eq] at h
  exact Laws.Coding.vops h.2 11 h.1 (by decide)
theorem Laws.Coding.vshl (v0 v1) : Laws.Coding.Statement (.vshl v0 v1) := of_cons rfl fun h => by
  simp only [Instr.wf, Bool.and_eq_true, decide_eq_true_eq] at h
  exact Laws.Coding.vops h.2 12 h.1 (by decide)
theorem Laws.Coding.vshr (v0 v1) : Laws.Coding.Statement (.vshr v0 v1) := of_cons rfl fun h => by
  simp only [Instr.wf, Bool.and_eq_true, decide_eq_true_eq] at h
  exact Laws.Coding.vops h.2 13 h.1 (by decide)
theorem Laws.Coding.vsar (v0 v1) : Laws.Coding.Statement (.vsar v0 v1) := of_cons rfl fun h => by
  simp only [Instr.wf, Bool.and_eq_true, decide_eq_true_eq] at h
  exact Laws.Coding.vops h.2 14 h.1 (by decide)
theorem Laws.Coding.vsel (v0 v1) : Laws.Coding.Statement (.vsel v0 v1) := of_cons rfl fun h => by
  simp only [Instr.wf, Bool.and_eq_true, decide_eq_true_eq] at h
  exact Laws.Coding.vops h.2 15 h.1 (by decide)
theorem Laws.Coding.vcmpeq (v0 v1) : Laws.Coding.Statement (.vcmpeq v0 v1) := of_cons rfl fun h => by
  simp only [Instr.wf, Bool.and_eq_true, decide_eq_true_eq] at h
  exact Laws.Coding.vops h.2 16 h.1 (by decide)
theorem Laws.Coding.vcmpne (v0 v1) : Laws.Coding.Statement (.vcmpne v0 v1) := of_cons rfl fun h => by
  simp only [Instr.wf, Bool.and_eq_true, decide_eq_true_eq] at h
  exact Laws.Coding.vops h.2 17 h.1 (by decide)
theorem Laws.Coding.vcmplt (v0 v1) : Laws.Coding.Statement (.vcmplt v0 v1) := of_cons rfl fun h => by
  simp only [Instr.wf, Bool.and_eq_true, decide_eq_true_eq] at h
  exact Laws.Coding.vops h.2 18 h.1 (by decide)
theorem Laws.Coding.vcmple (v0 v1) : Laws.Coding.Statement (.vcmple v0 v1) := of_cons rfl fun h => by
  simp only [Instr.wf, Bool.and_eq_true, decide_eq_true_eq] at h
  exact Laws.Coding.vops h.2 19 h.1 (by decide)
theorem Laws.Coding.vcvt (v0 v1 v2 v3 v4 v5 v6 v7) : Laws.Coding.Statement (.vcvt v0 v1 v2 v3 v4 v5 v6 v7) := of_cons rfl fun h => by
  simp only [Instr.wf, Bool.and_eq_true, Bool.or_eq_true, decide_eq_true_eq, beq_iff_eq, or_assoc] at h
  refine ⟨by simp only [mkWord, place]; omega, Laws.Coding.opt fun x hx => ?_⟩
  subst hx
  simp only [reduceCtorEq, Option.some.injEq, false_or] at h
  omega
theorem Laws.Coding.vrco (v0 v1 v2) : Laws.Coding.Statement (.vrco v0 v1 v2) := of_cons rfl fun h => by
  simp only [Instr.wf, Bool.and_eq_true, decide_eq_true_eq] at h
  simp [mkWord, place, mkX] <;> omega
theorem Laws.Coding.vmov (v0 v1 v2) : Laws.Coding.Statement (.vmov v0 v1 v2) := of_cons rfl fun h => by
  simp only [Instr.wf, Bool.and_eq_true, decide_eq_true_eq] at h
  simp [mkWord, place, mkX] <;> omega
theorem Laws.Coding.vsplat (v0 v1 v2 v3 v4) : Laws.Coding.Statement (.vsplat v0 v1 v2 v3 v4) := of_cons rfl fun h => by
  simp only [Instr.wf, Bool.and_eq_true, decide_eq_true_eq] at h
  simp [mkWord, place, mkX] <;> omega
theorem Laws.Coding.vrot (v0 v1 v2 v3 v4) : Laws.Coding.Statement (.vrot v0 v1 v2 v3 v4) := of_cons rfl fun h => by
  simp only [Instr.wf, Bool.and_eq_true, decide_eq_true_eq] at h
  simp [mkWord, place, mkX] <;> omega
theorem Laws.Coding.vbcst (v0 v1 v2 v3) : Laws.Coding.Statement (.vbcst v0 v1 v2 v3) := of_cons rfl fun h => by
  simp only [Instr.wf, Bool.and_eq_true, decide_eq_true_eq] at h
  simp [mkWord, place, mkX] <;> omega
theorem Laws.Coding.vred (v0 v1 v2 v3 v4 v5) : Laws.Coding.Statement (.vred v0 v1 v2 v3 v4 v5) := of_cons rfl fun h => by
  simp only [Instr.wf, Bool.and_eq_true, Bool.or_eq_true, decide_eq_true_eq, beq_iff_eq, or_assoc] at h
  refine ⟨by simp only [mkWord, place]; omega, ?_⟩
  exact Laws.Coding.reg h.1.1.2 (by decide) (by decide)
theorem Laws.Coding.vscan (v0 v1 v2 v3 v4) : Laws.Coding.Statement (.vscan v0 v1 v2 v3 v4) := of_cons rfl fun h => by
  simp only [Instr.wf, Bool.and_eq_true, decide_eq_true_eq] at h
  simp [mkWord, place, mkX] <;> omega
theorem Laws.Coding.vexpd (v0 v1 v2 v3 v4) : Laws.Coding.Statement (.vexpd v0 v1 v2 v3 v4) := of_cons rfl fun h => by
  simp only [Instr.wf, Bool.and_eq_true, decide_eq_true_eq] at h
  simp [mkWord, place, mkX] <;> omega
theorem Laws.Coding.vsetch (v0 v1 v2 v3) : Laws.Coding.Statement (.vsetch v0 v1 v2 v3) := of_cons rfl fun h => by
  simp only [Instr.wf, Bool.and_eq_true, decide_eq_true_eq] at h
  simp [mkWord, place, mkX] <;> omega
theorem Laws.Coding.vgetch (v0 v1 v2) : Laws.Coding.Statement (.vgetch v0 v1 v2) := of_cons rfl fun h => by
  simp only [Instr.wf, Bool.and_eq_true, decide_eq_true_eq] at h
  simp [mkWord, place, mkX] <;> omega
theorem Laws.Coding.vpopq (v0 v1 v2) : Laws.Coding.Statement (.vpopq v0 v1 v2) := of_cons rfl fun h => by
  simp only [Instr.wf, Bool.and_eq_true, decide_eq_true_eq] at h
  simp [mkWord, place, mkX] <;> omega
theorem Laws.Coding.vcrot (v0 v1 v2 v3) : Laws.Coding.Statement (.vcrot v0 v1 v2 v3) := of_cons rfl fun h => by
  simp only [Instr.wf, Bool.and_eq_true, decide_eq_true_eq] at h
  simp [mkWord, place, mkX] <;> omega
theorem Laws.Coding.vcbcst (v0 v1 v2 v3) : Laws.Coding.Statement (.vcbcst v0 v1 v2 v3) := of_cons rfl fun h => by
  simp only [Instr.wf, Bool.and_eq_true, decide_eq_true_eq] at h
  simp [mkWord, place, mkX] <;> omega
theorem Laws.Coding.vcred (v0 v1 v2 v3 v4 v5) : Laws.Coding.Statement (.vcred v0 v1 v2 v3 v4 v5) := of_cons rfl fun h => by
  simp only [Instr.wf, Bool.and_eq_true, decide_eq_true_eq] at h
  simp [mkWord, place, mkX] <;> omega
theorem Laws.Coding.vcscan (v0 v1 v2 v3 v4 v5) : Laws.Coding.Statement (.vcscan v0 v1 v2 v3 v4 v5) := of_cons rfl fun h => by
  simp only [Instr.wf, Bool.and_eq_true, decide_eq_true_eq] at h
  simp [mkWord, place, mkX] <;> omega
theorem Laws.Coding.vldl (v0 v1 v2 v3 v4) : Laws.Coding.Statement (.vldl v0 v1 v2 v3 v4) := of_cons rfl fun h => by
  simp only [Instr.wf, Bool.and_eq_true, decide_eq_true_eq] at h
  simp [mkWord, place, mkX] <;> omega
theorem Laws.Coding.vstl (v0 v1 v2) : Laws.Coding.Statement (.vstl v0 v1 v2) := of_cons rfl fun h => by
  simp only [Instr.wf, Bool.and_eq_true, decide_eq_true_eq] at h
  simp [mkWord, place, mkX] <;> omega
theorem Laws.Coding.vopt (v0 v1 v2 v3 v4) : Laws.Coding.Statement (.vopt v0 v1 v2 v3 v4) := of_cons rfl fun h => by
  simp only [Instr.wf, Bool.and_eq_true, decide_eq_true_eq] at h
  simp [mkWord, place, mkX] <;> omega
theorem Laws.Coding.vextr (v0 v1 v2 v3) : Laws.Coding.Statement (.vextr v0 v1 v2 v3) := of_cons rfl fun h => by
  simp only [Instr.wf, Bool.and_eq_true, decide_eq_true_eq] at h
  simp [mkWord, place, mkX] <;> omega
theorem Laws.Coding.frcp (v0 v1 v2 v3 v4 v5) : Laws.Coding.Statement (.frcp v0 v1 v2 v3 v4 v5) := of_cons rfl fun h => by
  simp only [Instr.wf, Bool.and_eq_true, decide_eq_true_eq] at h
  simp [mkWord, place, mkX] <;> omega
theorem Laws.Coding.frsq (v0 v1 v2 v3 v4 v5) : Laws.Coding.Statement (.frsq v0 v1 v2 v3 v4 v5) := of_cons rfl fun h => by
  simp only [Instr.wf, Bool.and_eq_true, decide_eq_true_eq] at h
  simp [mkWord, place, mkX] <;> omega
theorem Laws.Coding.fsqrt (v0 v1 v2 v3 v4 v5) : Laws.Coding.Statement (.fsqrt v0 v1 v2 v3 v4 v5) := of_cons rfl fun h => by
  simp only [Instr.wf, Bool.and_eq_true, decide_eq_true_eq] at h
  simp [mkWord, place, mkX] <;> omega
theorem Laws.Coding.fexp (v0 v1 v2 v3 v4 v5) : Laws.Coding.Statement (.fexp v0 v1 v2 v3 v4 v5) := of_cons rfl fun h => by
  simp only [Instr.wf, Bool.and_eq_true, decide_eq_true_eq] at h
  simp [mkWord, place, mkX] <;> omega
theorem Laws.Coding.fexp2 (v0 v1 v2 v3 v4 v5) : Laws.Coding.Statement (.fexp2 v0 v1 v2 v3 v4 v5) := of_cons rfl fun h => by
  simp only [Instr.wf, Bool.and_eq_true, decide_eq_true_eq] at h
  simp [mkWord, place, mkX] <;> omega
theorem Laws.Coding.flog (v0 v1 v2 v3 v4 v5) : Laws.Coding.Statement (.flog v0 v1 v2 v3 v4 v5) := of_cons rfl fun h => by
  simp only [Instr.wf, Bool.and_eq_true, decide_eq_true_eq] at h
  simp [mkWord, place, mkX] <;> omega
theorem Laws.Coding.flog2 (v0 v1 v2 v3 v4 v5) : Laws.Coding.Statement (.flog2 v0 v1 v2 v3 v4 v5) := of_cons rfl fun h => by
  simp only [Instr.wf, Bool.and_eq_true, decide_eq_true_eq] at h
  simp [mkWord, place, mkX] <;> omega
theorem Laws.Coding.ftanh (v0 v1 v2 v3 v4 v5) : Laws.Coding.Statement (.ftanh v0 v1 v2 v3 v4 v5) := of_cons rfl fun h => by
  simp only [Instr.wf, Bool.and_eq_true, decide_eq_true_eq] at h
  simp [mkWord, place, mkX] <;> omega
theorem Laws.Coding.fsig (v0 v1 v2 v3 v4 v5) : Laws.Coding.Statement (.fsig v0 v1 v2 v3 v4 v5) := of_cons rfl fun h => by
  simp only [Instr.wf, Bool.and_eq_true, decide_eq_true_eq] at h
  simp [mkWord, place, mkX] <;> omega
theorem Laws.Coding.fsin (v0 v1 v2 v3 v4 v5) : Laws.Coding.Statement (.fsin v0 v1 v2 v3 v4 v5) := of_cons rfl fun h => by
  simp only [Instr.wf, Bool.and_eq_true, decide_eq_true_eq] at h
  simp [mkWord, place, mkX] <;> omega
theorem Laws.Coding.fcos (v0 v1 v2 v3 v4 v5) : Laws.Coding.Statement (.fcos v0 v1 v2 v3 v4 v5) := of_cons rfl fun h => by
  simp only [Instr.wf, Bool.and_eq_true, decide_eq_true_eq] at h
  simp [mkWord, place, mkX] <;> omega
theorem Laws.Coding.frand (v0 v1 v2) : Laws.Coding.Statement (.frand v0 v1 v2) := of_cons rfl fun h => by
  simp only [Instr.wf, Bool.and_eq_true, decide_eq_true_eq] at h
  simp [mkWord, place, mkX] <;> omega
theorem Laws.Coding.ldb (v0 v1 v2 v3) : Laws.Coding.Statement (.ldb v0 v1 v2 v3) := of_cons rfl fun h => by
  simp only [Instr.wf, Bool.and_eq_true, decide_eq_true_eq] at h
  have hf := Laws.Coding.field h.2
  exact ⟨by simp only [mkWord, place]; omega, Laws.Coding.imm h.2 (by decide)⟩
theorem Laws.Coding.ldbu (v0 v1 v2 v3) : Laws.Coding.Statement (.ldbu v0 v1 v2 v3) := of_cons rfl fun h => by
  simp only [Instr.wf, Bool.and_eq_true, decide_eq_true_eq] at h
  have hf := Laws.Coding.field h.2
  exact ⟨by simp only [mkWord, place]; omega, Laws.Coding.imm h.2 (by decide)⟩
theorem Laws.Coding.ldh (v0 v1 v2 v3) : Laws.Coding.Statement (.ldh v0 v1 v2 v3) := of_cons rfl fun h => by
  simp only [Instr.wf, Bool.and_eq_true, decide_eq_true_eq] at h
  have hf := Laws.Coding.field h.2
  exact ⟨by simp only [mkWord, place]; omega, Laws.Coding.imm h.2 (by decide)⟩
theorem Laws.Coding.ldhu (v0 v1 v2 v3) : Laws.Coding.Statement (.ldhu v0 v1 v2 v3) := of_cons rfl fun h => by
  simp only [Instr.wf, Bool.and_eq_true, decide_eq_true_eq] at h
  have hf := Laws.Coding.field h.2
  exact ⟨by simp only [mkWord, place]; omega, Laws.Coding.imm h.2 (by decide)⟩
theorem Laws.Coding.ldw (v0 v1 v2 v3) : Laws.Coding.Statement (.ldw v0 v1 v2 v3) := of_cons rfl fun h => by
  simp only [Instr.wf, Bool.and_eq_true, decide_eq_true_eq] at h
  have hf := Laws.Coding.field h.2
  exact ⟨by simp only [mkWord, place]; omega, Laws.Coding.imm h.2 (by decide)⟩
theorem Laws.Coding.ldwu (v0 v1 v2 v3) : Laws.Coding.Statement (.ldwu v0 v1 v2 v3) := of_cons rfl fun h => by
  simp only [Instr.wf, Bool.and_eq_true, decide_eq_true_eq] at h
  have hf := Laws.Coding.field h.2
  exact ⟨by simp only [mkWord, place]; omega, Laws.Coding.imm h.2 (by decide)⟩
theorem Laws.Coding.ldd (v0 v1 v2 v3) : Laws.Coding.Statement (.ldd v0 v1 v2 v3) := of_cons rfl fun h => by
  simp only [Instr.wf, Bool.and_eq_true, decide_eq_true_eq] at h
  have hf := Laws.Coding.field h.2
  exact ⟨by simp only [mkWord, place]; omega, Laws.Coding.imm h.2 (by decide)⟩
theorem Laws.Coding.lda (v0 v1 v2 v3) : Laws.Coding.Statement (.lda v0 v1 v2 v3) := of_cons rfl fun h => by
  simp only [Instr.wf, Bool.and_eq_true, decide_eq_true_eq] at h
  have hf := Laws.Coding.field h.2
  exact ⟨by simp only [mkWord, place]; omega, Laws.Coding.imm h.2 (by decide)⟩
theorem Laws.Coding.stb (v0 v1 v2 v3) : Laws.Coding.Statement (.stb v0 v1 v2 v3) := of_cons rfl fun h => by
  simp only [Instr.wf, Bool.and_eq_true, decide_eq_true_eq] at h
  have hf := Laws.Coding.field h.2
  exact ⟨by simp only [mkWord, place]; omega, Laws.Coding.imm h.2 (by decide)⟩
theorem Laws.Coding.sth (v0 v1 v2 v3) : Laws.Coding.Statement (.sth v0 v1 v2 v3) := of_cons rfl fun h => by
  simp only [Instr.wf, Bool.and_eq_true, decide_eq_true_eq] at h
  have hf := Laws.Coding.field h.2
  exact ⟨by simp only [mkWord, place]; omega, Laws.Coding.imm h.2 (by decide)⟩
theorem Laws.Coding.stw (v0 v1 v2 v3) : Laws.Coding.Statement (.stw v0 v1 v2 v3) := of_cons rfl fun h => by
  simp only [Instr.wf, Bool.and_eq_true, decide_eq_true_eq] at h
  have hf := Laws.Coding.field h.2
  exact ⟨by simp only [mkWord, place]; omega, Laws.Coding.imm h.2 (by decide)⟩
theorem Laws.Coding.std (v0 v1 v2 v3) : Laws.Coding.Statement (.std v0 v1 v2 v3) := of_cons rfl fun h => by
  simp only [Instr.wf, Bool.and_eq_true, decide_eq_true_eq] at h
  have hf := Laws.Coding.field h.2
  exact ⟨by simp only [mkWord, place]; omega, Laws.Coding.imm h.2 (by decide)⟩
theorem Laws.Coding.strl (v0 v1 v2 v3) : Laws.Coding.Statement (.strl v0 v1 v2 v3) := of_cons rfl fun h => by
  simp only [Instr.wf, Bool.and_eq_true, decide_eq_true_eq] at h
  have hf := Laws.Coding.field h.2
  exact ⟨by simp only [mkWord, place]; omega, Laws.Coding.imm h.2 (by decide)⟩
theorem Laws.Coding.aadd (v0 v1 v2 v3 v4) : Laws.Coding.Statement (.aadd v0 v1 v2 v3 v4) := of_cons rfl fun h => by
  simp only [Instr.wf, Bool.and_eq_true, Bool.or_eq_true, decide_eq_true_eq, beq_iff_eq, or_assoc] at h
  refine ⟨by simp only [mkWord, place]; omega, ?_⟩
  exact Laws.Coding.size h.2
theorem Laws.Coding.aswp (v0 v1 v2 v3 v4) : Laws.Coding.Statement (.aswp v0 v1 v2 v3 v4) := of_cons rfl fun h => by
  simp only [Instr.wf, Bool.and_eq_true, Bool.or_eq_true, decide_eq_true_eq, beq_iff_eq, or_assoc] at h
  refine ⟨by simp only [mkWord, place]; omega, ?_⟩
  exact Laws.Coding.size h.2
theorem Laws.Coding.acas (v0 v1 v2 v3 v4) : Laws.Coding.Statement (.acas v0 v1 v2 v3 v4) := of_cons rfl fun h => by
  simp only [Instr.wf, Bool.and_eq_true, Bool.or_eq_true, decide_eq_true_eq, beq_iff_eq, or_assoc] at h
  refine ⟨by simp only [mkWord, place]; omega, ?_⟩
  exact Laws.Coding.size h.2
theorem Laws.Coding.amin (v0 v1 v2 v3 v4) : Laws.Coding.Statement (.amin v0 v1 v2 v3 v4) := of_cons rfl fun h => by
  simp only [Instr.wf, Bool.and_eq_true, Bool.or_eq_true, decide_eq_true_eq, beq_iff_eq, or_assoc] at h
  refine ⟨by simp only [mkWord, place]; omega, ?_⟩
  exact Laws.Coding.size h.2
theorem Laws.Coding.amax (v0 v1 v2 v3 v4) : Laws.Coding.Statement (.amax v0 v1 v2 v3 v4) := of_cons rfl fun h => by
  simp only [Instr.wf, Bool.and_eq_true, Bool.or_eq_true, decide_eq_true_eq, beq_iff_eq, or_assoc] at h
  refine ⟨by simp only [mkWord, place]; omega, ?_⟩
  exact Laws.Coding.size h.2
theorem Laws.Coding.aminu (v0 v1 v2 v3 v4) : Laws.Coding.Statement (.aminu v0 v1 v2 v3 v4) := of_cons rfl fun h => by
  simp only [Instr.wf, Bool.and_eq_true, Bool.or_eq_true, decide_eq_true_eq, beq_iff_eq, or_assoc] at h
  refine ⟨by simp only [mkWord, place]; omega, ?_⟩
  exact Laws.Coding.size h.2
theorem Laws.Coding.amaxu (v0 v1 v2 v3 v4) : Laws.Coding.Statement (.amaxu v0 v1 v2 v3 v4) := of_cons rfl fun h => by
  simp only [Instr.wf, Bool.and_eq_true, Bool.or_eq_true, decide_eq_true_eq, beq_iff_eq, or_assoc] at h
  refine ⟨by simp only [mkWord, place]; omega, ?_⟩
  exact Laws.Coding.size h.2
theorem Laws.Coding.qpops (v0 v1 v2 v3 v4) : Laws.Coding.Statement (.qpops v0 v1 v2 v3 v4) := of_cons rfl fun h => by
  simp only [Instr.wf, Bool.and_eq_true, Bool.or_eq_true, decide_eq_true_eq, beq_iff_eq, or_assoc] at h
  refine ⟨by simp only [mkWord, place]; omega, ?_⟩
  exact Laws.Coding.reg h.2 (by decide) (by decide)
theorem Laws.Coding.tlds (v0 v1 v2 v3) : Laws.Coding.Statement (.tlds v0 v1 v2 v3) := of_cons rfl fun h => by
  simp only [Instr.wf, Bool.and_eq_true, decide_eq_true_eq] at h
  simp [mkWord, place, mkX] <;> omega
theorem Laws.Coding.tsts (v0 v1 v2 v3) : Laws.Coding.Statement (.tsts v0 v1 v2 v3) := of_cons rfl fun h => by
  simp only [Instr.wf, Bool.and_eq_true, decide_eq_true_eq] at h
  simp [mkWord, place, mkX] <;> omega
theorem Laws.Coding.vldr (v0 v1 v2 v3 v4 v5) : Laws.Coding.Statement (.vldr v0 v1 v2 v3 v4 v5) := of_cons rfl fun h => by
  simp only [Instr.wf, Bool.and_eq_true, decide_eq_true_eq] at h
  simp [mkWord, place, mkX] <;> omega
theorem Laws.Coding.vstx (v0 v1 v2 v3 v4 v5 v6) : Laws.Coding.Statement (.vstx v0 v1 v2 v3 v4 v5 v6) := of_cons rfl fun h => by
  simp only [Instr.wf, Bool.and_eq_true, decide_eq_true_eq] at h
  simp [mkWord, place, mkX] <;> omega
theorem Laws.Coding.vpack (v0 v1 v2) : Laws.Coding.Statement (.vpack v0 v1 v2) := of_cons rfl fun h => by
  simp only [Instr.wf, Bool.and_eq_true, decide_eq_true_eq] at h
  simp [mkWord, place, mkX] <;> omega
theorem Laws.Coding.vunpack (v0 v1 v2) : Laws.Coding.Statement (.vunpack v0 v1 v2) := of_cons rfl fun h => by
  simp only [Instr.wf, Bool.and_eq_true, decide_eq_true_eq] at h
  simp [mkWord, place, mkX] <;> omega
theorem Laws.Coding.ldbCm (v0 v1 v2 v3) : Laws.Coding.Statement (.ldbCm v0 v1 v2 v3) := of_cons rfl fun h => by
  simp only [Instr.wf, Bool.and_eq_true, decide_eq_true_eq] at h
  have hf := Laws.Coding.field h.2
  exact ⟨by simp only [mkWord, place]; omega, Laws.Coding.imm h.2 (by decide)⟩
theorem Laws.Coding.ldbuCm (v0 v1 v2 v3) : Laws.Coding.Statement (.ldbuCm v0 v1 v2 v3) := of_cons rfl fun h => by
  simp only [Instr.wf, Bool.and_eq_true, decide_eq_true_eq] at h
  have hf := Laws.Coding.field h.2
  exact ⟨by simp only [mkWord, place]; omega, Laws.Coding.imm h.2 (by decide)⟩
theorem Laws.Coding.ldhCm (v0 v1 v2 v3) : Laws.Coding.Statement (.ldhCm v0 v1 v2 v3) := of_cons rfl fun h => by
  simp only [Instr.wf, Bool.and_eq_true, decide_eq_true_eq] at h
  have hf := Laws.Coding.field h.2
  exact ⟨by simp only [mkWord, place]; omega, Laws.Coding.imm h.2 (by decide)⟩
theorem Laws.Coding.ldhuCm (v0 v1 v2 v3) : Laws.Coding.Statement (.ldhuCm v0 v1 v2 v3) := of_cons rfl fun h => by
  simp only [Instr.wf, Bool.and_eq_true, decide_eq_true_eq] at h
  have hf := Laws.Coding.field h.2
  exact ⟨by simp only [mkWord, place]; omega, Laws.Coding.imm h.2 (by decide)⟩
theorem Laws.Coding.ldwCm (v0 v1 v2 v3) : Laws.Coding.Statement (.ldwCm v0 v1 v2 v3) := of_cons rfl fun h => by
  simp only [Instr.wf, Bool.and_eq_true, decide_eq_true_eq] at h
  have hf := Laws.Coding.field h.2
  exact ⟨by simp only [mkWord, place]; omega, Laws.Coding.imm h.2 (by decide)⟩
theorem Laws.Coding.ldwuCm (v0 v1 v2 v3) : Laws.Coding.Statement (.ldwuCm v0 v1 v2 v3) := of_cons rfl fun h => by
  simp only [Instr.wf, Bool.and_eq_true, decide_eq_true_eq] at h
  have hf := Laws.Coding.field h.2
  exact ⟨by simp only [mkWord, place]; omega, Laws.Coding.imm h.2 (by decide)⟩
theorem Laws.Coding.lddCm (v0 v1 v2 v3) : Laws.Coding.Statement (.lddCm v0 v1 v2 v3) := of_cons rfl fun h => by
  simp only [Instr.wf, Bool.and_eq_true, decide_eq_true_eq] at h
  have hf := Laws.Coding.field h.2
  exact ⟨by simp only [mkWord, place]; omega, Laws.Coding.imm h.2 (by decide)⟩
theorem Laws.Coding.ldaCm (v0 v1 v2 v3) : Laws.Coding.Statement (.ldaCm v0 v1 v2 v3) := of_cons rfl fun h => by
  simp only [Instr.wf, Bool.and_eq_true, decide_eq_true_eq] at h
  have hf := Laws.Coding.field h.2
  exact ⟨by simp only [mkWord, place]; omega, Laws.Coding.imm h.2 (by decide)⟩
theorem Laws.Coding.stbCm (v0 v1 v2 v3) : Laws.Coding.Statement (.stbCm v0 v1 v2 v3) := of_cons rfl fun h => by
  simp only [Instr.wf, Bool.and_eq_true, decide_eq_true_eq] at h
  have hf := Laws.Coding.field h.2
  exact ⟨by simp only [mkWord, place]; omega, Laws.Coding.imm h.2 (by decide)⟩
theorem Laws.Coding.sthCm (v0 v1 v2 v3) : Laws.Coding.Statement (.sthCm v0 v1 v2 v3) := of_cons rfl fun h => by
  simp only [Instr.wf, Bool.and_eq_true, decide_eq_true_eq] at h
  have hf := Laws.Coding.field h.2
  exact ⟨by simp only [mkWord, place]; omega, Laws.Coding.imm h.2 (by decide)⟩
theorem Laws.Coding.stwCm (v0 v1 v2 v3) : Laws.Coding.Statement (.stwCm v0 v1 v2 v3) := of_cons rfl fun h => by
  simp only [Instr.wf, Bool.and_eq_true, decide_eq_true_eq] at h
  have hf := Laws.Coding.field h.2
  exact ⟨by simp only [mkWord, place]; omega, Laws.Coding.imm h.2 (by decide)⟩
theorem Laws.Coding.stdCm (v0 v1 v2 v3) : Laws.Coding.Statement (.stdCm v0 v1 v2 v3) := of_cons rfl fun h => by
  simp only [Instr.wf, Bool.and_eq_true, decide_eq_true_eq] at h
  have hf := Laws.Coding.field h.2
  exact ⟨by simp only [mkWord, place]; omega, Laws.Coding.imm h.2 (by decide)⟩
theorem Laws.Coding.strlCm (v0 v1 v2 v3) : Laws.Coding.Statement (.strlCm v0 v1 v2 v3) := of_cons rfl fun h => by
  simp only [Instr.wf, Bool.and_eq_true, decide_eq_true_eq] at h
  have hf := Laws.Coding.field h.2
  exact ⟨by simp only [mkWord, place]; omega, Laws.Coding.imm h.2 (by decide)⟩
theorem Laws.Coding.aaddCm (v0 v1 v2 v3 v4) : Laws.Coding.Statement (.aaddCm v0 v1 v2 v3 v4) := of_cons rfl fun h => by
  simp only [Instr.wf, Bool.and_eq_true, Bool.or_eq_true, decide_eq_true_eq, beq_iff_eq, or_assoc] at h
  refine ⟨by simp only [mkWord, place]; omega, ?_⟩
  exact Laws.Coding.size h.2
theorem Laws.Coding.aswpCm (v0 v1 v2 v3 v4) : Laws.Coding.Statement (.aswpCm v0 v1 v2 v3 v4) := of_cons rfl fun h => by
  simp only [Instr.wf, Bool.and_eq_true, Bool.or_eq_true, decide_eq_true_eq, beq_iff_eq, or_assoc] at h
  refine ⟨by simp only [mkWord, place]; omega, ?_⟩
  exact Laws.Coding.size h.2
theorem Laws.Coding.acasCm (v0 v1 v2 v3 v4) : Laws.Coding.Statement (.acasCm v0 v1 v2 v3 v4) := of_cons rfl fun h => by
  simp only [Instr.wf, Bool.and_eq_true, Bool.or_eq_true, decide_eq_true_eq, beq_iff_eq, or_assoc] at h
  refine ⟨by simp only [mkWord, place]; omega, ?_⟩
  exact Laws.Coding.size h.2
theorem Laws.Coding.aminCm (v0 v1 v2 v3 v4) : Laws.Coding.Statement (.aminCm v0 v1 v2 v3 v4) := of_cons rfl fun h => by
  simp only [Instr.wf, Bool.and_eq_true, Bool.or_eq_true, decide_eq_true_eq, beq_iff_eq, or_assoc] at h
  refine ⟨by simp only [mkWord, place]; omega, ?_⟩
  exact Laws.Coding.size h.2
theorem Laws.Coding.amaxCm (v0 v1 v2 v3 v4) : Laws.Coding.Statement (.amaxCm v0 v1 v2 v3 v4) := of_cons rfl fun h => by
  simp only [Instr.wf, Bool.and_eq_true, Bool.or_eq_true, decide_eq_true_eq, beq_iff_eq, or_assoc] at h
  refine ⟨by simp only [mkWord, place]; omega, ?_⟩
  exact Laws.Coding.size h.2
theorem Laws.Coding.aminuCm (v0 v1 v2 v3 v4) : Laws.Coding.Statement (.aminuCm v0 v1 v2 v3 v4) := of_cons rfl fun h => by
  simp only [Instr.wf, Bool.and_eq_true, Bool.or_eq_true, decide_eq_true_eq, beq_iff_eq, or_assoc] at h
  refine ⟨by simp only [mkWord, place]; omega, ?_⟩
  exact Laws.Coding.size h.2
theorem Laws.Coding.amaxuCm (v0 v1 v2 v3 v4) : Laws.Coding.Statement (.amaxuCm v0 v1 v2 v3 v4) := of_cons rfl fun h => by
  simp only [Instr.wf, Bool.and_eq_true, Bool.or_eq_true, decide_eq_true_eq, beq_iff_eq, or_assoc] at h
  refine ⟨by simp only [mkWord, place]; omega, ?_⟩
  exact Laws.Coding.size h.2
theorem Laws.Coding.qpopsCm (v0 v1 v2 v3 v4) : Laws.Coding.Statement (.qpopsCm v0 v1 v2 v3 v4) := of_cons rfl fun h => by
  simp only [Instr.wf, Bool.and_eq_true, Bool.or_eq_true, decide_eq_true_eq, beq_iff_eq, or_assoc] at h
  refine ⟨by simp only [mkWord, place]; omega, ?_⟩
  exact Laws.Coding.reg h.2 (by decide) (by decide)
theorem Laws.Coding.tldsCm (v0 v1 v2) : Laws.Coding.Statement (.tldsCm v0 v1 v2) := of_cons rfl fun h => by
  simp only [Instr.wf, Bool.and_eq_true, decide_eq_true_eq] at h
  simp [mkWord, place, mkX] <;> omega
theorem Laws.Coding.tstsCm (v0 v1 v2) : Laws.Coding.Statement (.tstsCm v0 v1 v2) := of_cons rfl fun h => by
  simp only [Instr.wf, Bool.and_eq_true, decide_eq_true_eq] at h
  simp [mkWord, place, mkX] <;> omega
theorem Laws.Coding.cadd (v0 v1 v2 v3 v4 v5 v6) : Laws.Coding.Statement (.cadd v0 v1 v2 v3 v4 v5 v6) := of_cons rfl fun h => by
  simp only [Instr.wf, Bool.and_eq_true, decide_eq_true_eq] at h
  simp [mkWord, place, mkX] <;> omega
theorem Laws.Coding.cswp (v0 v1 v2 v3 v4 v5 v6) : Laws.Coding.Statement (.cswp v0 v1 v2 v3 v4 v5 v6) := of_cons rfl fun h => by
  simp only [Instr.wf, Bool.and_eq_true, decide_eq_true_eq] at h
  simp [mkWord, place, mkX] <;> omega
theorem Laws.Coding.ccas (v0 v1 v2 v3 v4 v5 v6) : Laws.Coding.Statement (.ccas v0 v1 v2 v3 v4 v5 v6) := of_cons rfl fun h => by
  simp only [Instr.wf, Bool.and_eq_true, decide_eq_true_eq] at h
  simp [mkWord, place, mkX] <;> omega
theorem Laws.Coding.cmin (v0 v1 v2 v3 v4 v5 v6) : Laws.Coding.Statement (.cmin v0 v1 v2 v3 v4 v5 v6) := of_cons rfl fun h => by
  simp only [Instr.wf, Bool.and_eq_true, decide_eq_true_eq] at h
  simp [mkWord, place, mkX] <;> omega
theorem Laws.Coding.cmax (v0 v1 v2 v3 v4 v5 v6) : Laws.Coding.Statement (.cmax v0 v1 v2 v3 v4 v5 v6) := of_cons rfl fun h => by
  simp only [Instr.wf, Bool.and_eq_true, decide_eq_true_eq] at h
  simp [mkWord, place, mkX] <;> omega
theorem Laws.Coding.cld (v0 v1 v2 v3 v4 v5) : Laws.Coding.Statement (.cld v0 v1 v2 v3 v4 v5) := of_cons rfl fun h => by
  simp only [Instr.wf, Bool.and_eq_true, decide_eq_true_eq] at h
  simp [mkWord, place, mkX] <;> omega
theorem Laws.Coding.tsett (v0 v1 v2) : Laws.Coding.Statement (.tsett v0 v1 v2) := of_cons rfl fun h => by
  simp only [Instr.wf, Bool.and_eq_true, decide_eq_true_eq] at h
  simp [mkWord, place, mkX] <;> omega
theorem Laws.Coding.tgett (v0 v1 v2) : Laws.Coding.Statement (.tgett v0 v1 v2) := of_cons rfl fun h => by
  simp only [Instr.wf, Bool.and_eq_true, decide_eq_true_eq] at h
  simp [mkWord, place, mkX] <;> omega
theorem Laws.Coding.dbind (v0 v1 v2) : Laws.Coding.Statement (.dbind v0 v1 v2) := of_cons rfl fun h => by
  simp only [Instr.wf, Bool.and_eq_true, decide_eq_true_eq] at h
  simp [mkWord, place, mkX] <;> omega
theorem Laws.Coding.drebind (v0 v1 v2) : Laws.Coding.Statement (.drebind v0 v1 v2) := of_cons rfl fun h => by
  simp only [Instr.wf, Bool.and_eq_true, decide_eq_true_eq] at h
  simp [mkWord, place, mkX] <;> omega
theorem Laws.Coding.dclr (v0 v1) : Laws.Coding.Statement (.dclr v0 v1) := of_cons rfl fun h => by
  simp only [Instr.wf, Bool.and_eq_true, decide_eq_true_eq] at h
  simp [mkWord, place, mkX] <;> omega
theorem Laws.Coding.dget (v0 v1 v2) : Laws.Coding.Statement (.dget v0 v1 v2) := of_cons rfl fun h => by
  simp only [Instr.wf, Bool.and_eq_true, decide_eq_true_eq] at h
  simp [mkWord, place, mkX] <;> omega
theorem Laws.Coding.tflag (v0 v1 v2 v3) : Laws.Coding.Statement (.tflag v0 v1 v2 v3) := of_cons rfl fun h => by
  simp only [Instr.wf, Bool.and_eq_true, decide_eq_true_eq] at h
  simp [mkWord, place, mkX] <;> omega
theorem Laws.Coding.tzero (v0 v1) : Laws.Coding.Statement (.tzero v0 v1) := of_cons rfl fun h => by
  simp only [Instr.wf, Bool.and_eq_true, decide_eq_true_eq] at h
  simp [mkWord, place, mkX] <;> omega
theorem Laws.Coding.tmov (v0 v1 v2) : Laws.Coding.Statement (.tmov v0 v1 v2) := of_cons rfl fun h => by
  simp only [Instr.wf, Bool.and_eq_true, decide_eq_true_eq] at h
  simp [mkWord, place, mkX] <;> omega
theorem Laws.Coding.treshp (v0 v1 v2 v3 v4) : Laws.Coding.Statement (.treshp v0 v1 v2 v3 v4) := of_cons rfl fun h => by
  simp only [Instr.wf, Bool.and_eq_true, decide_eq_true_eq] at h
  simp [mkWord, place, mkX] <;> omega
theorem Laws.Coding.ttrans (v0 v1 v2 v3) : Laws.Coding.Statement (.ttrans v0 v1 v2 v3) := of_cons rfl fun h => by
  simp only [Instr.wf, Bool.and_eq_true, decide_eq_true_eq] at h
  simp [mkWord, place, mkX] <;> omega
theorem Laws.Coding.tcast (v0 v1 v2 v3 v4) : Laws.Coding.Statement (.tcast v0 v1 v2 v3 v4) := of_cons rfl fun h => by
  simp only [Instr.wf, Bool.and_eq_true, decide_eq_true_eq] at h
  simp [mkWord, place, mkX] <;> omega
theorem Laws.Coding.tcvt (v0 v1 v2 v3 v4 v5 v6) : Laws.Coding.Statement (.tcvt v0 v1 v2 v3 v4 v5 v6) := of_cons rfl fun h => by
  simp only [Instr.wf, Bool.and_eq_true, decide_eq_true_eq] at h
  simp [mkWord, place, mkX] <;> omega
theorem Laws.Coding.tqnt (v0 v1 v2 v3 v4 v5 v6) : Laws.Coding.Statement (.tqnt v0 v1 v2 v3 v4 v5 v6) := of_cons rfl fun h => by
  simp only [Instr.wf, Bool.and_eq_true, decide_eq_true_eq] at h
  simp [mkWord, place, mkX] <;> omega
theorem Laws.Coding.tdqnt (v0 v1 v2 v3 v4 v5 v6) : Laws.Coding.Statement (.tdqnt v0 v1 v2 v3 v4 v5 v6) := of_cons rfl fun h => by
  simp only [Instr.wf, Bool.and_eq_true, decide_eq_true_eq] at h
  simp [mkWord, place, mkX] <;> omega
theorem Laws.Coding.tcmpr (v0 v1 v2 v3 v4) : Laws.Coding.Statement (.tcmpr v0 v1 v2 v3 v4) := of_cons rfl fun h => by
  simp only [Instr.wf, Bool.and_eq_true, decide_eq_true_eq] at h
  simp [mkWord, place, mkX] <;> omega
theorem Laws.Coding.mlds (v0 v1 v2) : Laws.Coding.Statement (.mlds v0 v1 v2) := of_cons rfl fun h => by
  simp only [Instr.wf, Bool.and_eq_true, decide_eq_true_eq] at h
  simp [mkWord, place, mkX] <;> omega
theorem Laws.Coding.mswap (v0 v1) : Laws.Coding.Statement (.mswap v0 v1) := of_cons rfl fun h => by
  simp only [Instr.wf, Bool.and_eq_true, decide_eq_true_eq] at h
  simp [mkWord, place, mkX] <;> omega
theorem Laws.Coding.mmul (v0 v1 v2 v3 v4 v5 v6 v7 v8) : Laws.Coding.Statement (.mmul v0 v1 v2 v3 v4 v5 v6 v7 v8) := of_cons rfl fun h => by
  simp only [Instr.wf, Bool.and_eq_true, decide_eq_true_eq] at h
  simp [mkWord, place, mkX] <;> omega
theorem Laws.Coding.mmuln (v0 v1 v2 v3 v4) : Laws.Coding.Statement (.mmuln v0 v1 v2 v3 v4) := of_cons rfl fun h => by
  simp only [Instr.wf, Bool.and_eq_true, decide_eq_true_eq] at h
  simp [mkWord, place, mkX] <;> omega
theorem Laws.Coding.mmulS (v0 v1 v2 v3 v4 v5 v6 v7 v8 v9) : Laws.Coding.Statement (.mmulS v0 v1 v2 v3 v4 v5 v6 v7 v8 v9) := of_cons rfl fun h => by
  simp only [Instr.wf, Bool.and_eq_true, decide_eq_true_eq] at h
  simp [mkWord, place, mkX] <;> omega
theorem Laws.Coding.mmulnS (v0 v1 v2 v3 v4 v5) : Laws.Coding.Statement (.mmulnS v0 v1 v2 v3 v4 v5) := of_cons rfl fun h => by
  simp only [Instr.wf, Bool.and_eq_true, decide_eq_true_eq] at h
  simp [mkWord, place, mkX] <;> omega
theorem Laws.Coding.mdrain (v0 v1 v2 v3 v4 v5) : Laws.Coding.Statement (.mdrain v0 v1 v2 v3 v4 v5) := of_cons rfl fun h => by
  simp only [Instr.wf, Bool.and_eq_true, decide_eq_true_eq] at h
  simp [mkWord, place, mkX] <;> omega
theorem Laws.Coding.mxw (v0 v1 v2) : Laws.Coding.Statement (.mxw v0 v1 v2) := of_cons rfl fun h => by
  simp only [Instr.wf, Bool.and_eq_true, decide_eq_true_eq] at h
  simp [mkWord, place, mkX] <;> omega
theorem Laws.Coding.mxr (v0 v1 v2) : Laws.Coding.Statement (.mxr v0 v1 v2) := of_cons rfl fun h => by
  simp only [Instr.wf, Bool.and_eq_true, decide_eq_true_eq] at h
  simp [mkWord, place, mkX] <;> omega
theorem Laws.Coding.cew (v0 v1 v2) : Laws.Coding.Statement (.cew v0 v1 v2) := of_cons rfl fun h => by
  simp only [Instr.wf, Bool.and_eq_true, decide_eq_true_eq] at h
  simp [mkWord, place, mkX] <;> omega
theorem Laws.Coding.cewi (v0 v1 v2) : Laws.Coding.Statement (.cewi v0 v1 v2) := of_cons rfl fun h => by
  simp only [Instr.wf, Bool.and_eq_true, decide_eq_true_eq] at h
  have hf := Laws.Coding.field h.2
  exact ⟨by simp only [mkWord, place]; omega, Laws.Coding.imm h.2 (by decide)⟩
theorem Laws.Coding.cer (v0 v1 v2) : Laws.Coding.Statement (.cer v0 v1 v2) := of_cons rfl fun h => by
  simp only [Instr.wf, Bool.and_eq_true, decide_eq_true_eq] at h
  simp [mkWord, place, mkX] <;> omega
theorem Laws.Coding.cerst (v0) : Laws.Coding.Statement (.cerst v0) := of_cons rfl fun h => by
  simp only [Instr.wf, Bool.and_eq_true, decide_eq_true_eq] at h
  simp [mkWord, place, mkX] <;> omega
theorem Laws.Coding.copy (v0 v1 v2 v3) : Laws.Coding.Statement (.copy v0 v1 v2 v3) := of_cons rfl fun h => by
  simp only [Instr.wf, Bool.and_eq_true, decide_eq_true_eq] at h
  simp [mkWord, place, mkX] <;> omega
theorem Laws.Coding.ymatch (v0 v1 v2 v3 v4) : Laws.Coding.Statement (.ymatch v0 v1 v2 v3 v4) := of_cons rfl fun h => by
  simp only [Instr.wf, Bool.and_eq_true, decide_eq_true_eq] at h
  simp [mkWord, place, mkX] <;> omega
theorem Laws.Coding.ymerge (v0 v1 v2 v3) : Laws.Coding.Statement (.ymerge v0 v1 v2 v3) := of_cons rfl fun h => by
  simp only [Instr.wf, Bool.and_eq_true, decide_eq_true_eq] at h
  simp [mkWord, place, mkX] <;> omega
theorem Laws.Coding.yunmerge (v0 v1 v2) : Laws.Coding.Statement (.yunmerge v0 v1 v2) := of_cons rfl fun h => by
  simp only [Instr.wf, Bool.and_eq_true, decide_eq_true_eq] at h
  simp [mkWord, place, mkX] <;> omega
theorem Laws.Coding.yretire (v0 v1 v2) : Laws.Coding.Statement (.yretire v0 v1 v2) := of_cons rfl fun h => by
  simp only [Instr.wf, Bool.and_eq_true, decide_eq_true_eq] at h
  simp [mkWord, place, mkX] <;> omega
theorem Laws.Coding.ystat (v0 v1) : Laws.Coding.Statement (.ystat v0 v1) := of_cons rfl fun h => by
  simp only [Instr.wf, Bool.and_eq_true, decide_eq_true_eq] at h
  simp [mkWord, place, mkX] <;> omega
theorem Laws.Coding.tspawn (v0 v1 v2 v3) : Laws.Coding.Statement (.tspawn v0 v1 v2 v3) := of_cons rfl fun h => by
  simp only [Instr.wf, Bool.and_eq_true, decide_eq_true_eq] at h
  simp [mkWord, place, mkX] <;> omega
theorem Laws.Coding.gdec (v0 v1 v2 v3) : Laws.Coding.Statement (.gdec v0 v1 v2 v3) := of_cons rfl fun h => by
  simp only [Instr.wf, Bool.and_eq_true, decide_eq_true_eq] at h
  simp [mkWord, place, mkX] <;> omega
theorem Laws.Coding.gread (v0 v1 v2) : Laws.Coding.Statement (.gread v0 v1 v2) := of_cons rfl fun h => by
  simp only [Instr.wf, Bool.and_eq_true, decide_eq_true_eq] at h
  simp [mkWord, place, mkX] <;> omega
theorem Laws.Coding.dsend (v0 v1 v2) : Laws.Coding.Statement (.dsend v0 v1 v2) := of_cons rfl fun h => by
  simp only [Instr.wf, Bool.and_eq_true, decide_eq_true_eq] at h
  simp [mkWord, place, mkX] <;> omega
theorem Laws.Coding.drecv (v0 v1 v2 v3) : Laws.Coding.Statement (.drecv v0 v1 v2 v3) := of_cons rfl fun h => by
  simp only [Instr.wf, Bool.and_eq_true, decide_eq_true_eq] at h
  simp [mkWord, place, mkX] <;> omega
theorem Laws.Coding.dflush (v0 v1) : Laws.Coding.Statement (.dflush v0 v1) := of_cons rfl fun h => by
  simp only [Instr.wf, Bool.and_eq_true, decide_eq_true_eq] at h
  simp [mkWord, place, mkX] <;> omega
theorem Laws.Coding.dcomb (v0 v1 v2) : Laws.Coding.Statement (.dcomb v0 v1 v2) := of_cons rfl fun h => by
  simp only [Instr.wf, Bool.and_eq_true, decide_eq_true_eq] at h
  simp [mkWord, place, mkX] <;> omega
theorem Laws.Coding.fsend (v0 v1 v2 v3) : Laws.Coding.Statement (.fsend v0 v1 v2 v3) := of_cons rfl fun h => by
  simp only [Instr.wf, Bool.and_eq_true, decide_eq_true_eq] at h
  simp [mkWord, place, mkX] <;> omega
theorem Laws.Coding.frecv (v0 v1 v2 v3) : Laws.Coding.Statement (.frecv v0 v1 v2 v3) := of_cons rfl fun h => by
  simp only [Instr.wf, Bool.and_eq_true, decide_eq_true_eq] at h
  simp [mkWord, place, mkX] <;> omega
theorem Laws.Coding.lgath (v0 v1 v2 v3) : Laws.Coding.Statement (.lgath v0 v1 v2 v3) := of_cons rfl fun h => by
  simp only [Instr.wf, Bool.and_eq_true, decide_eq_true_eq] at h
  simp [mkWord, place, mkX] <;> omega
theorem Laws.Coding.ldedup (v0 v1 v2 v3) : Laws.Coding.Statement (.ldedup v0 v1 v2 v3) := of_cons rfl fun h => by
  simp only [Instr.wf, Bool.and_eq_true, decide_eq_true_eq] at h
  simp [mkWord, place, mkX] <;> omega
theorem Laws.Coding.lpool (v0 v1 v2 v3) : Laws.Coding.Statement (.lpool v0 v1 v2 v3) := of_cons rfl fun h => by
  simp only [Instr.wf, Bool.and_eq_true, decide_eq_true_eq] at h
  simp [mkWord, place, mkX] <;> omega
theorem Laws.Coding.lhand (v0 v1 v2) : Laws.Coding.Statement (.lhand v0 v1 v2) := of_cons rfl fun h => by
  simp only [Instr.wf, Bool.and_eq_true, decide_eq_true_eq] at h
  simp [mkWord, place, mkX] <;> omega
theorem Laws.Coding.contextSwitch (v0) : Laws.Coding.Statement (.contextSwitch v0) := of_none rfl
theorem Laws.Coding.stabling (v0 v1) : Laws.Coding.Statement (.stabling v0 v1) := of_none rfl
theorem Laws.Coding.stablingMoveComplete (v0 v1) : Laws.Coding.Statement (.stablingMoveComplete v0 v1) := of_none rfl
theorem Laws.Coding.teamReturn (v0 v1) : Laws.Coding.Statement (.teamReturn v0 v1) := of_none rfl
theorem Laws.Coding.schedulingRound : Laws.Coding.Statement .schedulingRound := of_none rfl
theorem Laws.Coding.timeShareHandOver (v0) : Laws.Coding.Statement (.timeShareHandOver v0) := of_none rfl
theorem Laws.Coding.preemptionHalt (v0 v1) : Laws.Coding.Statement (.preemptionHalt v0 v1) := of_none rfl
theorem Laws.Coding.evacuation (v0 v1) : Laws.Coding.Statement (.evacuation v0 v1) := of_none rfl
theorem Laws.Coding.taskResume (v0 v1 v2) : Laws.Coding.Statement (.taskResume v0 v1 v2) := of_none rfl
theorem Laws.Coding.taskCompletion (v0 v1) : Laws.Coding.Statement (.taskCompletion v0 v1) := of_none rfl
theorem Laws.Coding.faultTaskEnd (v0 v1) : Laws.Coding.Statement (.faultTaskEnd v0 v1) := of_none rfl
theorem Laws.Coding.leaseGrant (v0 v1) : Laws.Coding.Statement (.leaseGrant v0 v1) := of_none rfl
theorem Laws.Coding.frameReturn (v0 v1) : Laws.Coding.Statement (.frameReturn v0 v1) := of_none rfl
theorem Laws.Coding.matrixCommandStart (v0) : Laws.Coding.Statement (.matrixCommandStart v0) := of_none rfl
theorem Laws.Coding.mldsLoadComplete (v0) : Laws.Coding.Statement (.mldsLoadComplete v0) := of_none rfl
theorem Laws.Coding.mswapTakesEffect (v0) : Laws.Coding.Statement (.mswapTakesEffect v0) := of_none rfl
theorem Laws.Coding.mmulChunkEnd (v0) : Laws.Coding.Statement (.mmulChunkEnd v0) := of_none rfl
theorem Laws.Coding.slabPush (v0) : Laws.Coding.Statement (.slabPush v0) := of_none rfl
theorem Laws.Coding.drainWaitTimeout (v0) : Laws.Coding.Statement (.drainWaitTimeout v0) := of_none rfl
theorem Laws.Coding.followOnEntry (v0) : Laws.Coding.Statement (.followOnEntry v0) := of_none rfl
theorem Laws.Coding.copyStart (v0) : Laws.Coding.Statement (.copyStart v0) := of_none rfl
theorem Laws.Coding.copyCompletion (v0) : Laws.Coding.Statement (.copyCompletion v0) := of_none rfl
theorem Laws.Coding.yokeCommandStart (v0) : Laws.Coding.Statement (.yokeCommandStart v0) := of_none rfl
theorem Laws.Coding.yokeCommandCompletion (v0) : Laws.Coding.Statement (.yokeCommandCompletion v0) := of_none rfl
theorem Laws.Coding.handOffLanding (v0) : Laws.Coding.Statement (.handOffLanding v0) := of_none rfl
theorem Laws.Coding.dispatchRowLanding (v0) : Laws.Coding.Statement (.dispatchRowLanding v0) := of_none rfl
theorem Laws.Coding.dflushCompletion (v0) : Laws.Coding.Statement (.dflushCompletion v0) := of_none rfl
theorem Laws.Coding.dispatchWaitCompletion (v0) : Laws.Coding.Statement (.dispatchWaitCompletion v0) := of_none rfl
theorem Laws.Coding.fabricPayloadArrival (v0) : Laws.Coding.Statement (.fabricPayloadArrival v0) := of_none rfl
theorem Laws.Coding.counterOperationPerform (v0) : Laws.Coding.Statement (.counterOperationPerform v0) := of_none rfl
theorem Laws.Coding.counterReplyArrival (v0) : Laws.Coding.Statement (.counterReplyArrival v0) := of_none rfl
theorem Laws.Coding.graphCounterDecrement (v0) : Laws.Coding.Statement (.graphCounterDecrement v0) := of_none rfl
theorem Laws.Coding.cacheLinePowerState (v0 v1 v2) : Laws.Coding.Statement (.cacheLinePowerState v0 v1 v2) := of_none rfl
theorem Laws.Coding.functionLevelReset (v0) : Laws.Coding.Statement (.functionLevelReset v0) := of_none rfl
theorem Laws.Coding.sqtail (v0 v1 v2) : Laws.Coding.Statement (.sqtail v0 v1 v2) := of_none rfl
theorem Laws.Coding.cqhead (v0 v1 v2) : Laws.Coding.Statement (.cqhead v0 v1 v2) := of_none rfl
theorem Laws.Coding.kernelLaunch (v0 v1) : Laws.Coding.Statement (.kernelLaunch v0 v1) := of_none rfl
theorem Laws.Coding.lookupKernelLaunch (v0 v1) : Laws.Coding.Statement (.lookupKernelLaunch v0 v1) := of_none rfl
theorem Laws.Coding.transformLaunch (v0 v1) : Laws.Coding.Statement (.transformLaunch v0 v1) := of_none rfl
theorem Laws.Coding.graphLaunch (v0 v1) : Laws.Coding.Statement (.graphLaunch v0 v1) := of_none rfl
theorem Laws.Coding.seal (v0 v1) : Laws.Coding.Statement (.seal v0 v1) := of_none rfl
theorem Laws.Coding.retire (v0 v1) : Laws.Coding.Statement (.retire v0 v1) := of_none rfl
theorem Laws.Coding.cqInterruptTimer (v0 v1) : Laws.Coding.Statement (.cqInterruptTimer v0 v1) := of_none rfl
theorem Laws.Coding.ctltail (v0) : Laws.Coding.Statement (.ctltail v0) := of_none rfl
theorem Laws.Coding.fmset : Laws.Coding.Statement .fmset := of_none rfl
theorem Laws.Coding.fmget : Laws.Coding.Statement .fmget := of_none rfl
theorem Laws.Coding.wrfrm : Laws.Coding.Statement .wrfrm := of_none rfl
theorem Laws.Coding.rdfrm : Laws.Coding.Statement .rdfrm := of_none rfl
theorem Laws.Coding.wtset : Laws.Coding.Statement .wtset := of_none rfl
theorem Laws.Coding.inval : Laws.Coding.Statement .inval := of_none rfl
theorem Laws.Coding.migrate : Laws.Coding.Statement .migrate := of_none rfl
theorem Laws.Coding.migrationFlip (v0) : Laws.Coding.Statement (.migrationFlip v0) := of_none rfl
theorem Laws.Coding.offload : Laws.Coding.Statement .offload := of_none rfl
theorem Laws.Coding.offloadComplete (v0 v1) : Laws.Coding.Statement (.offloadComplete v0 v1) := of_none rfl
theorem Laws.Coding.returnFrame : Laws.Coding.Statement .returnFrame := of_none rfl
theorem Laws.Coding.pool : Laws.Coding.Statement .pool := of_none rfl
theorem Laws.Coding.cells : Laws.Coding.Statement .cells := of_none rfl
theorem Laws.Coding.evac : Laws.Coding.Statement .evac := of_none rfl
theorem Laws.Coding.preempt : Laws.Coding.Statement .preempt := of_none rfl
theorem Laws.Coding.resume : Laws.Coding.Statement .resume := of_none rfl
theorem Laws.Coding.endtask : Laws.Coding.Statement .endtask := of_none rfl
theorem Laws.Coding.ctxread : Laws.Coding.Statement .ctxread := of_none rfl
theorem Laws.Coding.lkassign : Laws.Coding.Statement .lkassign := of_none rfl
theorem Laws.Coding.debug : Laws.Coding.Statement .debug := of_none rfl
theorem Laws.Coding.ctrclr : Laws.Coding.Statement .ctrclr := of_none rfl
theorem Laws.Coding.barmap : Laws.Coding.Statement .barmap := of_none rfl
theorem Laws.Coding.attest : Laws.Coding.Statement .attest := of_none rfl
theorem Laws.Coding.fwstage : Laws.Coding.Statement .fwstage := of_none rfl
theorem Laws.Coding.windowBarAccess (v0 v1 v2 v3) : Laws.Coding.Statement (.windowBarAccess v0 v1 v2 v3) := of_none rfl
theorem Laws.Coding.nqhead (v0 v1) : Laws.Coding.Statement (.nqhead v0 v1) := of_none rfl
theorem Laws.Coding.noticeOvfClear (v0) : Laws.Coding.Statement (.noticeOvfClear v0) := of_none rfl
theorem Laws.Coding.clmask (v0 v1) : Laws.Coding.Statement (.clmask v0 v1) := of_none rfl
theorem Laws.Coding.paddockEn (v0 v1) : Laws.Coding.Statement (.paddockEn v0 v1) := of_none rfl
theorem Laws.Coding.paddockAllotmentWrite (v0 v1 v2) : Laws.Coding.Statement (.paddockAllotmentWrite v0 v1 v2) := of_none rfl
theorem Laws.Coding.plimit (v0) : Laws.Coding.Statement (.plimit v0) := of_none rfl
theorem Laws.Coding.powerSample (v0) : Laws.Coding.Statement (.powerSample v0) := of_none rfl
theorem Laws.Coding.powerStep (v0) : Laws.Coding.Statement (.powerStep v0) := of_none rfl
theorem Laws.Coding.arbiterGrant (v0 v1 v2) : Laws.Coding.Statement (.arbiterGrant v0 v1 v2) := of_none rfl
theorem Laws.Coding.scrubRead (v0) : Laws.Coding.Statement (.scrubRead v0) := of_none rfl
theorem Laws.Coding.elhead (v0) : Laws.Coding.Statement (.elhead v0) := of_none rfl
theorem Laws.Coding.moduleReset : Laws.Coding.Statement .moduleReset := of_none rfl
theorem Laws.Coding.debuggerRelease (v0 v1) : Laws.Coding.Statement (.debuggerRelease v0 v1) := of_none rfl
theorem Laws.Coding.registerWrite (v0 v1) : Laws.Coding.Statement (.registerWrite v0 v1) := of_none rfl
theorem Laws.Coding.softError (v0) : Laws.Coding.Statement (.softError v0) := of_none rfl
theorem Laws.Coding.remoteTargetUnreachable (v0) : Laws.Coding.Statement (.remoteTargetUnreachable v0) := of_none rfl
theorem Laws.Coding.islandOperatingPointChange (v0 v1) : Laws.Coding.Statement (.islandOperatingPointChange v0 v1) := of_none rfl

end Sys2Proof
end

