-- ==== Sys2Proof/Tests/Slice0.lean ====
section
/-! SUPPORT. Tests: words of the spec decode to what it says they are, ill-formed terms are refused, small examples of the spec come
out as it gives them, and for every statement with hypotheses a state and operands that meet them. -/
namespace Sys2Proof.Tests
open Sys2Proof Sys2Proof.Machine
set_option Elab.async false

/-! ## Words written out in the spec or from its encoding tables -/

/-- A word from its fields as 08 R191 to R193 place them: B, class, opcode, d, a, b, guard. -/
def fields (n cls op d a b g : Nat) : Nat := n * 2 ^ 31 + cls * 2 ^ 28 + op * 2 ^ 22 + d * 2 ^ 16 + a * 2 ^ 10 + b * 2 ^ 4 + g

/-- Source: the packet of 08 (ADD, MOVI with an X word, VADD, BR) and its padding. -/
theorem test_decode_packet :
    decodeWords [0x80051460] = .ok (.add 0 5 5 6) ∧ decodeWords [0x00C93450, 0x70000012] = .ok (.movi 0 9 ⟨0x345, [0x12]⟩) ∧
    (Imm.mk 0x345 [0x12]).value 12 = 0x12345 ∧ decodeWords [0x20020010] = .ok (.vadd 0 ⟨0, 0, 2, 0, 0, 1, none⟩) ∧
    decodeWords [0x907FFFC2] = .ok (.br 2 ⟨0x3FFFC, []⟩) ∧ 4 * (Imm.mk 0x3FFFC []).value 18 = -16 ∧
    decodeWords [0x90000000] = .ok (.nop 0 0) := by decide +kernel

/-- Source: the listing of fir8 (14 R363). -/
theorem test_decode_fir8 :
    decodeWords [0x801B1000] = .ok (.add 0 27 4 0) ∧ decodeWords [0x92070100] = .ok (.loop 0 7 16) ∧
    decodeWords [0x92402090] = .ok (.loopi 0 8 9) ∧ decodeWords [0xC0985400] = .ok (.ldh 0 24 21 ⟨0, []⟩) ∧
    decodeWords [0x80955420] = .ok (.addi 0 21 21 ⟨2, []⟩) ∧ decodeWords [0x90000020] = .ok (.nop 0 2) ∧
    decodeWords [0x011A6190] = .ok (.mul 0 26 24 25) ∧ decodeWords [0x42947000] = .ok (.stw 0 20 28 ⟨0, []⟩) ∧
    decodeWords [0x91800000] = .ok (.tend 0) := by decide +kernel

/-- Source: the pipelined bundles of 14 (predicated ADD on rotating names, VLDR, LCLOSE, VFMA). -/
theorem test_decode_pipelined :
    decodeWords [0x80305008] = .ok (.add 8 48 20 0) ∧ decodeWords [0x46C0C8EA, 0x70004009] = .ok (.vldr 10 0 50 14 9 64) ∧
    decodeWords [0x933FFF80] = .ok (.lclose 0 ⟨0x3FFF8, []⟩) ∧
    decodeWords [0x20C4001B, 0x70000014] = .ok (.vfma 11 ⟨0, 0, 4, 0, 0, 1, some ⟨4, 1, 0, 0, 0⟩⟩) := by decide +kernel

/-- Source: the worked words of 09 R238, 10 R253 and R279, 11 R289, 12 R303 and R330, 13 R333. -/
theorem test_decode_worked_words :
    decodeWords [0x928A1050, 0x70000003] = .ok (.loopt 0 10 4 5 3) ∧
    decodeWords [0xA0B40870, 0x70000260] = .ok (.vmul 0 ⟨1, 1, 4, 0, 2, 7, some ⟨0, 0, 3, 1, 0⟩⟩) ∧
    decodeWords [0xB0C61400] = .ok (.fexp 0 0 6 0 5 0) ∧ decodeWords [0xD8051870, 0x7000001C] = .ok (.cadd 0 5 6 7 4 1 1) ∧
    decodeWords [0xE4825090, 0x70001205] = .ok (.mmul 0 2 4 1 9 5 9 0 0) ∧ decodeWords [0xE9082800] = .ok (.copy 0 8 10 0) ∧
    decodeWords [0xED803000, 0x70000007] = .ok (.dcomb 0 12 7) ∧ decodeWords [0x99000000] = .ok (.tret 0) ∧
    decodeWords [0x98050220] = .ok (.csrr 0 5 0x022) := by decide +kernel

/-- Source: the opcode maps 08 R209 to R214 with the layouts of the entries: one word of every family. -/
theorem test_decode_families :
    decodeWords [fields 1 0 0x1D 7 8 9 1] = .ok (.bfx 1 7 8 9) ∧ decodeWords [fields 1 1 0x18 3 4 0 0] = .ok (.waitany 0 3 4) ∧
    decodeWords [fields 1 1 0x1D 3 0 5 0] = .ok (.bara 0 3 5) ∧ decodeWords [fields 1 2 0x18 (32 + 2) 3 4 0] = .ok (.vrot 0 0 2 3 4) ∧
    decodeWords [fields 1 5 0x02 3 4 0 0] = .ok (.ldhCm 0 3 4 ⟨0, []⟩) ∧ decodeWords [fields 1 4 0x0B 3 4 63 0] = .ok (.std 0 3 4 ⟨63, []⟩) ∧
    decodeWords [fields 1 4 0x10 3 4 5 0] = .ok (.aadd 0 3 4 5 none) ∧ decodeWords [fields 1 4 0x18 3 4 5 0] = .ok (.qpops 0 3 4 5 none) ∧
    decodeWords [fields 1 4 0x19 3 4 1 0] = .ok (.tlds 0 3 4 1) ∧ decodeWords [fields 1 6 0x00 3 4 0 0] = .ok (.tsett 0 3 4) ∧
    decodeWords [fields 1 6 0x10 0 4 0 0, 0x70000009] = .ok (.mlds 0 4 9) ∧
    decodeWords [fields 1 6 0x2C 3 0 0 0] = .ok (.ystat 0 3) ∧ decodeWords [fields 1 6 0x30 3 4 5 0] = .ok (.tspawn 0 3 4 5) ∧
    decodeWords [fields 1 6 0x3D 3 4 5 0] = .ok (.ldedup 0 3 4 5) := by decide +kernel

/-- Source: 08 R194, R200, R207, R208, 09 R228: words that are refused, by the fault that refuses them. -/
theorem test_decode_refuses :
    decodeWords [fields 1 0 0x07 1 2 3 0] = .error .unassigned ∧ decodeWords [fields 1 6 0x19 0 0 0 0] = .error .unassigned ∧
    decodeWords [fields 1 1 0x06 0 0 1 0] = .error .operand ∧ decodeWords [fields 1 6 0x36 0 12 0 0] = .error .operand ∧
    decodeWords [0x80051460, 0x70000000] = .error .extraX ∧
    decodeBundle false [fields 1 6 0x3C 0 0 0 0] = .error ⟨1, 0⟩ ∧ decodeBundle true [fields 1 6 0x12 0 0 0 0] = .error ⟨1, 0⟩ ∧
    decodeBundle true [fields 1 1 0x20 5 2 2 0] = .error ⟨2, 0⟩ := by decide +kernel

/-- Source: 08 R196 and its listing: C then S takes SA and SB, V words VA on, E after S; S after C and E is refused. -/
theorem test_bundle_slots :
    (decodeBundle false [0x80051460, 0x00C93450, 0x70000012, 0x20020010]).map (·.map fun x => (x.idx, x.slot)) =
      .ok [(0, 0), (1, 1), (3, 2)] ∧
    decodeBundle false [fields 1 6 0x00 3 4 0 0, fields 0 0 0 1 2 3 0] = .error ⟨3, 1⟩ ∧
    decodeBundle false [0x90000000, fields 0 0 0 1 2 3 0, fields 0 6 0x00 3 4 0 0] = .error ⟨4, 2⟩ := by decide +kernel

/-- Source: 08 R196, R200: surplus X words are found first to last; an X word with B = 1 is the first word at fault. -/
theorem test_bundle_x_words :
    decodeBundle false [0xF0000000, fields 0 0 0 1 2 3 0, 0x70000000] = .error ⟨7, 0⟩ ∧
    decodeBundle false [fields 1 0 0 1 2 3 0, 0x70000000] = .error ⟨7, 1⟩ ∧
    decodeBundle false [0x80C93450, 0x70000012, 0x70000000, 0x70000000] = .error ⟨7, 2⟩ := by decide +kernel

/-- Source: the example of 22 R462: line 0x480123 · 65,536 + 0x2A80 lives in slice 57, the next line in slice 74. -/
theorem test_home_slice :
    homeSlice (0x480123 * 65536 + 0x2A80) = 57 ∧ homeSlice (0x480123 * 65536 + 0x2A80 + 128) = 74 := by decide +kernel

/-- Source: 08 R191: bit 31 of the first word is B, the words follow in ascending order. -/
theorem test_table_words :
    decodeTableWord 32 0x00051460 = some (.add 0 5 5 6) ∧ decodeTableWord 64 (0x70000007 * 2 ^ 32 + 0x6D803000) = some (.dcomb 0 12 7) ∧
    decodeTableWord 32 0x01C00000 = none := by decide +kernel

/-! ## Ill-formed terms, one for each check of WellFormed -/

theorem smoke_register_ranges :
    (Instr.add 16 1 2 3).wf = false ∧ (Instr.add 0 64 2 3).wf = false ∧ (Instr.cmpeq 0 16 1 1).wf = false ∧
    (Instr.vmov 0 16 1).wf = false ∧ (Instr.vmov 0 1 16).wf = false ∧ (Instr.tsett 0 16 1).wf = false ∧ (Instr.dget 0 1 16).wf = false ∧
    (Instr.vpopq 0 1 8).wf = false ∧ (Instr.mxw 0 8 1).wf = false ∧ (Instr.cew 0 32 1).wf = false ∧ (Instr.barw 0 8).wf = false := by
  decide +kernel

theorem smoke_immediates :
    (Instr.addi 0 1 2 ⟨64, []⟩).wf = false ∧ (Instr.addi 0 1 2 ⟨0, [0, 0, 0]⟩).wf = false ∧ (Instr.addi 0 1 2 ⟨0, [2 ^ 28]⟩).wf = false ∧
    (Instr.movi 0 1 ⟨0, [0, 0]⟩).wf = false ∧ (Instr.cewi 0 1 ⟨0, [0, 2 ^ 27 / 2]⟩).wf = false ∧ (Instr.nop 0 262144).wf = false ∧
    (Instr.trap 0 64).wf = false ∧ (Instr.dclr 0 65536).wf = false ∧ (Instr.pseti 0 1 2).wf = false := by decide +kernel

theorem smoke_control_words :
    (Instr.loop 0 1 0).wf = false ∧ (Instr.loopi 0 4096 1).wf = false ∧ (Instr.loopt 0 47 1 1 1).wf = false ∧
    (Instr.loopt 0 0 1 1 1).wf = false ∧ (Instr.pipe 0 1 0).wf = false ∧ (Instr.pipe 0 1 9).wf = false ∧ (Instr.pushm 0 5 4).wf = false ∧
    (Instr.fence 0 0 7).wf = false ∧ (Instr.csrr 0 1 0x00A).wf = false := by decide +kernel

theorem smoke_vector_words :
    (Instr.vadd 0 ⟨0, 0, 1, 3, 1, 1, none⟩).wf = false ∧ (Instr.vmin 0 ⟨0, 0, 1, 1, 1, 1, none⟩).wf = false ∧
    (Instr.vneg 0 ⟨0, 0, 1, 0, 1, 1, none⟩).wf = false ∧ (Instr.vadd 0 ⟨0, 0, 1, 0, 1, 16, none⟩).wf = false ∧
    (Instr.vfma 0 ⟨0, 0, 1, 0, 1, 1, none⟩).wf = false ∧ (Instr.vsel 0 ⟨0, 0, 1, 0, 1, 1, some ⟨0, 0, 0, 0, 0⟩⟩).wf = false ∧
    (Instr.vadd 0 ⟨0, 0, 1, 0, 1, 1, some ⟨3, 0, 0, 0, 0⟩⟩).wf = false ∧ (Instr.vadd 0 ⟨0, 0, 1, 0, 1, 1, some ⟨0, 0, 3, 0, 0⟩⟩).wf = false ∧
    (Instr.vand 0 ⟨0, 0, 1, 0, 1, 1, some ⟨0, 0, 3, 1, 1⟩⟩).wf = false ∧ (Instr.vcvt 0 0 1 0 1 0 3 none).wf = false ∧
    (Instr.vcvt 0 0 1 0 1 0 0 (some 1)).wf = false ∧ (Instr.vred 0 1 1 1 1 none).wf = false ∧ (Instr.vred 0 1 0 1 0 (some (some 16))).wf = false ∧
    (Instr.vcred 0 0 1 0 1 3).wf = false ∧ (Instr.fexp 0 0 1 3 1 0).wf = false ∧ (Instr.vsplat 0 3 1 1 1).wf = false := by decide +kernel

theorem smoke_memory_words :
    (Instr.aadd 0 1 1 1 (some 2)).wf = false ∧ (Instr.cadd 0 1 1 1 2 0 0).wf = false ∧ (Instr.cadd 0 1 1 1 7 0 0).wf = false ∧
    (Instr.cadd 0 1 1 1 4 0 1).wf = false ∧ (Instr.tlds 0 1 1 2).wf = false ∧ (Instr.vldr 0 1 1 1 32 0).wf = false ∧
    (Instr.vldr 0 1 1 1 9 1048576).wf = false ∧ (Instr.qpops 0 1 1 1 (some (some 16))).wf = false := by decide +kernel

theorem smoke_engine_words :
    (Instr.tflag 0 1 1 1).wf = false ∧ (Instr.tcmpr 0 1 2 1 0).wf = false ∧ (Instr.tcvt 0 1 2 0 9 3 0).wf = false ∧
    (Instr.tqnt 0 1 2 0 0 4 0).wf = false ∧ (Instr.mmuln 0 1 3 0 0).wf = false ∧ (Instr.mmuln 0 1 0 5 0).wf = false ∧
    (Instr.mlds 0 1 64).wf = false ∧ (Instr.lpool 0 1 3 0).wf = false ∧ (Instr.contextSwitch 432).wf = false ∧
    (Instr.stabling 64 0).wf = false ∧ (Instr.kernelLaunch 0 4).wf = false ∧ (Instr.yokeCommandStart 6).wf = false ∧
    (Instr.functionLevelReset 0).wf = false ∧ (Instr.timeShareHandOver 48).wf = false ∧ (Instr.migrationFlip 16777216).wf = false ∧
    (Instr.islandOperatingPointChange 0 8).wf = false := by decide +kernel

/-! ## One word on a small state -/

/-- A team of one on main core 0, its first bundle open. -/
def demo : State := (State.reset.placeProgram 0).openBundle 1

/-- A team of one on lookup core 384. -/
def lk : State := (State.reset.placeProgram 0x6F430450).openBundle 1

/-- The context in issue with results written. -/
def put (s : State) (rs : List Result) : State := s.setCtx s.me (rs.foldl Ctx.apply s.ctx)

/-- What a word posts: latency and result of each. -/
def posted (s : State) (i : Instr) : List (Nat × Result) :=
  match exec i s with
  | .next t => t.ctx.inflight.map fun f => (f.point - s.ctx.bidx, f.res)
  | _ => []

/-- Memory after a word. -/
def memAfter (s : State) (i : Instr) (a n : Nat) : Nat :=
  match exec i s with
  | .next t => memNat t.mem a n
  | _ => 0

/-- The state after an instruction. -/
def after (s : State) (i : Instr) : State :=
  match exec i s with
  | .next t => t
  | _ => s

/-- Whether an instruction answers a next state. -/
def runs (s : State) (i : Instr) : Bool :=
  match exec i s with
  | .next _ => true
  | _ => false

/-- The fault a word meets. -/
def faultOf (s : State) (i : Instr) : Option (FaultClass × Nat) :=
  match exec i s with
  | .next t => match t.bun.stop with
    | some (.fault f) => some (f.cls, f.num)
    | _ => none
  | _ => none

/-- Source: 09 R223: sums wrap, MULH is signed, shifts use the low six bits, MIN is signed and MINU is not. -/
theorem test_scalar :
    let s := put demo [.x 3 0xFFFFFFFFFFFFFFFF, .x 4 2]
    posted s (.add 0 5 3 4) = [(1, .x 5 1)] ∧ posted s (.sub 0 5 4 3) = [(1, .x 5 3)] ∧
    posted s (.mul 0 3 3 3) = [(3, .x 3 1)] ∧ posted s (.mulh 0 5 3 4) = [(3, .x 5 0xFFFFFFFFFFFFFFFF)] ∧
    posted s (.mulhu 0 5 3 4) = [(3, .x 5 1)] ∧ posted s (.shl 0 5 4 3) = [(1, .x 5 0)] ∧
    posted s (.sar 0 5 3 4) = [(1, .x 5 0xFFFFFFFFFFFFFFFF)] ∧ posted s (.shr 0 5 3 4) = [(1, .x 5 0x3FFFFFFFFFFFFFFF)] ∧
    posted s (.min 0 5 3 4) = [(1, .x 5 0xFFFFFFFFFFFFFFFF)] ∧ posted s (.minu 0 5 3 4) = [(1, .x 5 2)] ∧
    posted s (.cmplt 0 6 3 4) = [(1, .p 6 true)] ∧ posted s (.cmpltu 0 6 3 4) = [(1, .p 6 false)] ∧
    posted s (.clz 0 5 4) = [(1, .x 5 62)] ∧ posted s (.popc 0 5 3) = [(1, .x 5 64)] := by decide +kernel

/-- Source: the example of 09 R224. -/
theorem test_bit_fields :
    let s := put demo [.x 3 0xABCD, .x 4 0x0304, .x 5 5, .x 6 0xFFFF]
    posted s (.bfx 0 7 3 4) = [(1, .x 7 0xC)] ∧ posted s (.bfi 0 6 5 4) = [(1, .x 6 0xFF5F)] ∧
    posted s (.sel 0 7 3 4 0) = [(1, .x 7 0xABCD)] ∧ posted s (.sel 0 7 3 4 1) = [(1, .x 7 0x0304)] := by decide +kernel

/-- Source: 09 R221, R222: X0 reads 0; X48 with RRB 15 is register 63. -/
theorem test_names :
    let s := put demo [.csr 0x010 15, .x 63 7, .x 0 9]
    posted s (.add 0 5 48 0) = [(1, .x 5 7)] ∧ posted s (.add 0 48 48 48) = [(1, .x 63 14)] := by decide +kernel

/-- Source: 09 R239, R240: PIPE of 0 trips clears the window; LCLOSE with LCNT 1 steps it down and branches while a stage is live. -/
theorem test_pipeline :
    posted (put demo [.x 3 5]) (.pipe 0 3 2) = [(1, .csr 0x011 4), (1, .csr 0x012 2), (1, .csr 0x010 0), (1, .p 8 true), (1, .p 9 false),
      (1, .p 10 false), (1, .p 11 false), (1, .p 12 false), (1, .p 13 false), (1, .p 14 false), (1, .p 15 false)] ∧
    (let s := put demo [.csr 0x011 1, .csr 0x012 2, .p 8 true];
      posted s (.lclose 0 ⟨0, []⟩) = [] ∧ (after s (.lclose 0 ⟨0, []⟩)).bun.close = some (0, 3, 15) ∧
      (after s (.lclose 0 ⟨0, []⟩)).bun.next = some 0) := by decide +kernel

/-- Source: 09 R245: the stack grows down, the lowest register at the lowest address; past its end LS-07. -/
theorem test_stack :
    let s := put demo [.x 3 0x11, .x 4 0x22, .csr 0x013 16]
    memAfter s (.pushm 0 3 4) (stackAddr s.me 0) 8 = 0x11 ∧ memAfter s (.pushm 0 3 4) (stackAddr s.me 8) 8 = 0x22 ∧
    posted s (.pushm 0 3 4) = [] ∧ (after s (.pushm 0 3 4)).ctx.sp = 0 ∧ faultOf s (.pushm 0 3 5) = some (.LS, 7) ∧
    faultOf (put demo [.csr 0x013 8192]) (.popm 0 3 3) = some (.LS, 7) := by decide +kernel

/-- 2.0 and the rows of the example of 10 R253. -/
def mulExample : State := put demo [.x 7 0x40000000,
  .v 2 ⟨[[⟨0x3FC00000, 3⟩, ⟨0x40400000, 5⟩], [⟨0x3F800000, 6⟩]] ++ List.replicate 14 [], .fp32⟩,
  .v 3 ⟨[[⟨1, 3⟩, ⟨0, 5⟩], [⟨0, 2⟩, ⟨1, 4⟩]] ++ List.replicate 14 [], .int32⟩]

/-- Source: the example of 10 R253: VMUL.C V4, V2, X7 under V3. -/
theorem test_vmul_example :
    posted mulExample (.vmul 0 ⟨1, 1, 4, 0, 2, 7, some ⟨0, 0, 3, 1, 0⟩⟩) = [(4, .v 4
      ⟨[[⟨0x40400000, 8⟩], [⟨0x3F800000, 2⟩, ⟨0x40000000, 4⟩]] ++ List.replicate 14 [], .fp32⟩)] := by decide +kernel

/-- Source: the same example: with row 1 of V3 of chainage 5, RN-02. -/
theorem test_vmul_chainage :
    faultOf (put mulExample [.v 3 ⟨[[⟨1, 3⟩, ⟨0, 5⟩], [⟨0, 2⟩, ⟨1, 3⟩]] ++ List.replicate 14 [], .int32⟩])
      (.vmul 0 ⟨1, 1, 4, 0, 2, 7, some ⟨0, 0, 3, 1, 0⟩⟩) = some (.RN, 2) := by decide +kernel

/-- Source: 10 R263: a negative rotation goes to lower positions; R261: VSPLAT of 0 elements empties every row. -/
theorem test_vrot_vsplat :
    let s := put demo [.x 4 0xFFFFFFFFFFFFFFFF, .v 2 ⟨[[⟨1, 1⟩, ⟨2, 2⟩]] ++ List.replicate 15 [], .uint32⟩]
    posted s (.vrot 0 0 5 2 4) = [(4, .v 5 ⟨[[⟨2, 2⟩, ⟨1, 1⟩]] ++ List.replicate 15 [], .uint32⟩)] ∧
    posted s (.vsplat 0 2 5 4 0) = [(4, .v 5 ⟨List.replicate 16 [], .fp32⟩)] := by decide +kernel

/-- Source: the example of 10 R279: FEXP of (0.0, 5), (1.0, 3). -/
theorem test_fexp_example :
    posted (put demo [.v 5 ⟨[[⟨0, 5⟩, ⟨0x3F800000, 3⟩]] ++ List.replicate 15 [], .fp32⟩]) (.fexp 0 0 6 0 5 0) =
      [(10, .v 6 ⟨[[⟨0x3F800000, 5⟩, ⟨0x402DF854, 3⟩]] ++ List.replicate 15 [], .fp32⟩)] := by decide +kernel

/-- Source: 00 R5, 11 R284, R285: bytes lowest first, LDB sign-extends, the immediate counts in units of the access. -/
theorem test_load_store :
    let s := put demo [.x 3 8, .x 4 0x80F1]
    let m := (s.slotRegion false).base
    memAfter s (.sth 0 4 3 ⟨1, []⟩) (m + 10) 1 = 0xF1 ∧ memAfter s (.sth 0 4 3 ⟨1, []⟩) (m + 11) 1 = 0x80 ∧
    posted (s.store (m + 8) [0xF1]) (.ldb 0 5 3 ⟨0, []⟩) = [(3, .x 5 0xFFFFFFFFFFFFFFF1)] ∧
    posted (s.store (m + 8) [0xF1]) (.ldbu 0 5 3 ⟨0, []⟩) = [(3, .x 5 0xF1)] ∧
    faultOf s (.ldd 0 5 4 ⟨0, []⟩) = some (.FM, 8) ∧ faultOf s (.ldb 0 5 3 ⟨55, []⟩) = some (.LS, 3) := by decide +kernel

/-- Source: 11 R288: AADD of 32 bits wraps and answers the old value sign-extended; ACAS that does not match stores nothing new. -/
theorem test_atomics :
    let s := put demo [.x 3 8, .x 4 1, .x 5 7]
    let m := (s.slotRegion false).base
    let s := s.store (m + 8) [0xFF, 0xFF, 0xFF, 0xFF, 9]
    memAfter s (.aadd 0 6 3 4 (some 1)) (m + 8) 8 = 0x900000000 ∧ posted s (.aadd 0 6 3 4 (some 1)) = [(3, .x 6 0xFFFFFFFFFFFFFFFF)] ∧
    memAfter s (.acas 0 5 3 4 none) (m + 8) 8 = 0x9FFFFFFFF ∧ posted s (.acas 0 5 3 4 none) = [(3, .x 5 0x9FFFFFFFF)] := by decide +kernel

/-- Source: 04 R101: a rank-1 tile with extent 0 is FM-05; a type of 128 x 64 FP32 fits, 128 x 256 INT8 under geometry 1 is SH-08. -/
theorem test_types :
    faultOf (put demo [.x 3 0x2900000000000000]) (.tsett 0 1 3) = some (.FM, 5) ∧
    posted (put demo [.x 3 0x4900000000010080]) (.tsett 0 1 3) = [(1, .tw 1 0x4900000000010080)] ∧
    (layOf 0x4900000000010080).size = 32768 ∧ (layOf 0x4201000000020080).size = 16896 ∧
    faultOf (put demo [.x 3 0x4201000000040080]) (.tsett 0 1 3) = some (.SH, 8) := by decide +kernel

/-- Source: 12 R309: 512 is FM-19; a bound variable keeps its value; DGET of an unbound one is 0. -/
theorem test_dimensions :
    faultOf (put demo [.x 3 512]) (.dbind 0 5 3) = some (.FM, 19) ∧ faultOf (put demo [.x 3 7, .d 5 (some 8)]) (.dbind 0 5 3) = some (.SH, 5) ∧
    posted demo (.dget 0 4 5) = [(1, .x 4 0)] ∧ posted (put demo [.d 5 (some 8)]) (.dget 0 4 5) = [(1, .x 4 8)] := by decide +kernel

/-- Source: the example of 13 R351: the list (7, 3, 7, 9, 3). -/
theorem test_ldedup_example :
    let s := put lk [.x 3 64, .x 4 5]
    let m := (s.slotRegion false).base + 64
    let s := s.store m ([7, 3, 7, 9, 3].flatMap (natLe 4))
    posted s (.ldedup 0 5 3 4) = [(1, .x 5 3)] ∧
    (List.range 3).map (fun k => memAfter s (.ldedup 0 5 3 4) (m + 20 + 4 * k) 4) = [7, 3, 9] ∧
    (List.range 5).map (fun k => memAfter s (.ldedup 0 5 3 4) (m + 40 + 4 * k) 4) = [0, 1, 0, 2, 1] := by decide +kernel

/-- Source: 09 R249 and 12 R303: on a core of the other kind a word stops: LDEDUP on a main core. -/
theorem test_wrong_core : faultOf demo (.ldedup 0 5 3 4) = some (.EN, 1) ∧ faultOf lk (.mswap 0 1) = some (.EN, 1) := by decide +kernel

/-- Source: 08 R192: a squashed word changes nothing. -/
theorem test_squashed : runs demo (.add 1 5 3 4) = true ∧ after demo (.add 1 5 3 4) = demo := by decide +kernel

/-- Source: 09 R231, R232: TRAP 5 of a task with a handler: CAUSE class 12, code 5, EPC the next bundle. -/
theorem test_trap :
    let s0 := put demo [.csr 0x001 9]
    let t := closeBundle s0 (after s0 (.trap 0 5))
    t.ctx.cause = 12 + 16 * 5 ∧ t.ctx.epc = 4 ∧ t.ctx.pc = 8 ∧ t.ctx.inTrap = true := by decide +kernel

/-! ## States and operands that meet the hypotheses of the statements -/

theorem canRun_of {s : State} {k : WordKind} {g : Nat} (h : s.bun.isOpen = true ∧ s.bun.stop = none ∧
    k.decoded (decide (384 ≤ s.ctx.core)) = true ∧ s.ctx.pAt g = true ∧ s.acquiring = false) : s.canRun k g :=
  ⟨h.1, h.2.1, h.2.2.1, h.2.2.2.1, fun _ => h.2.2.2.2⟩

theorem readable_of {s : State} {k : Nat} (h : amGet s.ctx.unready (physX s.ctx.rrb k) = none) : s.readable k := .inr h

theorem readable_all {s : State} (h : s.ctx.unready = []) (k : Nat) : s.readable k := readable_of (by rw [h]; rfl)

theorem all_of {α : Type} {l : List α} {p : α → Prop} [DecidablePred p] (h : (l.all fun a => decide (p a)) = true) : ∀ a ∈ l, p a := by
  simpa using h

theorem no_head {α : Type} {l : List α} (h : l = []) {P : α → Prop} : ∀ e, l.head? = some e → P e := by
  subst h; intro e h; cases h

theorem witness_EncodeDecodeAgree :
    (Instr.sel 0 63 63 63 15).wf = true ∧ encode (.sel 0 63 63 63 15) = [0x073FFFF0, 0x7000000F] ∧
    (Instr.nop 15 262143).wf = true ∧ encode (.nop 15 262143) = [0x103FFFFF] := by decide +kernel

/-- ADD X5, X5, X6 placed as the next bundle. -/
def placed : State := State.reset.placeProgram 0x00051460

/-- The same with the agenda given. -/
def placedTo (m : List Move) : State := { placed with agenda := m }

theorem placed_fetches (a m : List Move) (h : a = [.issue 0, .tick 1] ∧ m = [.tick 1] ∨ a = [] ∧ m = []) :
    ({ placedTo a with agenda := m, focus := 1 } : State).fetchesAlone 0 32 0x80051460 [] (.add 0 5 5 6) := by
  rcases h with ⟨rfl, rfl⟩ | ⟨rfl, rfl⟩ <;>
    constructor <;> decide +kernel

/-- The agenda's clause, and the two of the empty agenda: the core's turn is to come, or the pass is over and no device step is ready. -/
theorem witness_StepRunsDecoded :
    ((placedTo [.issue 0, .tick 1]).agenda = .issue 0 :: [.tick 1] ∧
      ({ placedTo [.issue 0, .tick 1] with agenda := [.tick 1], focus := 1 } : State).fetchesAlone 0 32 0x80051460 [] (.add 0 5 5 6)) ∧
    ((placedTo []).agenda = [] ∧ (placedTo []).firstNext (placedTo []).dueSteps = none ∧
      (placedTo []).turnCores = [] ++ 0 :: [] ∧
      ({ placedTo [] with agenda := [], focus := 1 } : State).fetchesAlone 0 32 0x80051460 [] (.add 0 5 5 6) ∧
      (let u := ({ placedTo [] with agenda := [], focus := 1 } : State).prepared 32 1 false;
        (placedTo []).wentOn (after (u.useLines (u.namedBy [.add 0 5 5 6]) (.add 0 5 5 6)) (.add 0 5 5 6)) 32 = true)) ∧
    (let s : State := { placedTo [] with focus := 1 };
      s.turnCores = [] ∧ s.firstNext s.pendingSteps = none ∧ s.pastCores = [] ++ 0 :: []) :=
  ⟨⟨by decide +kernel, placed_fetches _ _ (.inl ⟨rfl, rfl⟩)⟩,
    ⟨by decide +kernel, by decide +kernel, by decide +kernel, placed_fetches _ _ (.inr ⟨rfl, rfl⟩), by decide +kernel⟩,
    by decide +kernel⟩

theorem witness_LoneWordIsABundle :
    placed.bun.isOpen = false ∧ (amGet placed.ctxs placed.me).isSome = true ∧ encode (.add 0 5 5 6) ≠ [] ∧
    runs (placed.openBundle 1) (.add 0 5 5 6) = true := by decide +kernel

/-- `demo` with its bundle's requests replaced. -/
def asks (s : State) (f : Bun → Bun) : State := { s with bun := f s.bun }

/-- `demo` inside two loops, the inner of one word at 0, the outer from 0 to 8. -/
def looped (k : Word) (last : Word) : State := demo.setCtx demo.me { demo.ctx with loops := [⟨0, 0, some k⟩, ⟨0, last, some 3⟩] }

/-- Nothing in the way of a commit: the premises that a bundle's requests and its word must meet. -/
def commits (s : State) : Bool :=
  s.bun.stop.isNone && (s.bun.targets.all fun a => (s.targetFault s.task a).isNone) && s.bun.push.isNone && s.bun.trav.isNone &&
    !s.bun.tend && s.bun.trap.isNone && !s.bun.tret && s.bun.close.isNone

/-- `demo` at the last bundle of a traverse loop over one row of two elements, at element `e`, inside another loop. -/
def traversing (e : Nat) : State :=
  demo.setCtx demo.me { demo.ctx with loops := [⟨0, 0, none⟩, ⟨0, 8, some 3⟩], trav := some ⟨[0, 2], 10, e, 0⟩ }

/-- A transfer to 8 out of the inner loop, one that pops nothing, the first and the last trip of the inner loop; a traverse loop at its
first and at its last element, and one that begins. -/
theorem witness_TransferAndLoopCommit :
    (let s := asks (looped 2 8) fun b => { b with next := some 8, pop := true, targets := [8] };
      commits s = true ∧ s.bun.next = some 8 ∧ s.bun.pop = true) ∧
    (let s := asks (looped 2 8) fun b => { b with next := some 4, targets := [4] };
      commits s = true ∧ s.bun.next = some 4 ∧ s.bun.pop = false) ∧
    (commits (looped 2 8) = true ∧ (looped 2 8).bun.next = none ∧ (looped 2 8).ctx.loops = ⟨0, 0, some 2⟩ :: [⟨0, 8, some 3⟩] ∧
      (looped 2 8).bun.addr = 0 ∧ 1 < (2 : Word).toNat) ∧
    (commits (looped 1 8) = true ∧ (looped 1 8).ctx.loops = ⟨0, 0, some 1⟩ :: [⟨0, 8, some 3⟩] ∧ (8 : Word) ≠ (looped 1 8).bun.addr) ∧
    (∀ e, (e = 0 ∨ e = 1) → commits (traversing e) = true ∧ (traversing e).bun.next = none ∧ (traversing e).bun.addr = 0 ∧
      (traversing e).ctx.loops = ⟨0, 0, none⟩ :: [⟨0, 8, some 3⟩] ∧ (traversing e).ctx.trav = some ⟨[0, 2], 10, e, 0⟩) ∧
    (let s := asks demo fun b => { b with push := some ⟨4, 8, none⟩, trav := some ⟨[0, 2], 10, 0, 0⟩ };
      s.bun.stop = none ∧ s.bun.targets = [] ∧ s.bun.push = some ⟨4, 8, none⟩ ∧ (8 : Word) ≠ s.bun.addr ∧
        s.bun.trav = some ⟨[0, 2], 10, 0, 0⟩ ∧ s.bun.next = none ∧ s.bun.tend = false ∧ s.bun.trap = none ∧ s.bun.tret = false) :=
  ⟨by decide +kernel, by decide +kernel, by decide +kernel, by decide +kernel, by rintro e (rfl | rfl) <;> decide +kernel, by decide +kernel⟩

theorem demo_loops : demo.ctx.loops = [] := by decide +kernel

theorem witness_BundlesCommitAndWait :
    (demo.bun.stop = none ∧ demo.bun.targets = [] ∧ demo.bun.pend = [] ∧ demo.bun.push = none ∧ demo.bun.trav = none ∧
      demo.bun.next = none ∧ demo.bun.tend = false ∧ demo.bun.trap = none ∧ demo.bun.tret = false ∧ demo.bun.close = none ∧
      demo.task.redo = [] ∧ demo.task.fresh = false ∧ demo.task.rounds = 0 ∧ demo.ctx.tileStall = [] ∧
      ∀ e, demo.ctx.loops.head? = some e → e.last ≠ demo.bun.addr) ∧
    (demo.stopAt (.block (.tagsAll 1))).bun.stop = some (.block (.tagsAll 1)) ∧ demo.ctx.block = none ∧
    (demo.stopAt .stall).bun.stop = some .stall ∧ (demo.stopAt (.stallOn [7])).bun.stop = some (.stallOn [7]) ∧
    (asks demo fun b => { b with tend := true }).bun.tend = true := by
  refine ⟨?_, by decide +kernel⟩
  repeat first | exact no_head demo_loops | refine ⟨by decide +kernel, ?_⟩

theorem witness_SquashedWords : (Instr.add 1 5 3 4).wf = true ∧ demo.squashes (.add 1 5 3 4) 0x00050C41 :=
  ⟨by decide +kernel, by constructor <;> decide +kernel⟩

/-- A recoverable fault with a handler at 8, alone and as a join reports it; a fault that ends the task; no handler; a handler at 64,
where no bundle starts; TRAPVEC with wrong parity. -/
theorem witness_ExceptionEntry :
    let s0 := put demo [.csr 0x001 9]
    let f : FaultRec := { cls := .FM, num := 5 }
    let c := s0.ctx
    let tv := (c.retire c.bidx).trapvec
    ((s0.stopAt (.fault f)).bun.stop = some (.fault f) ∧ f.join = false ∧ f.cls.recoverable = true ∧ tv.getLsbD 0 = true ∧
      c.inTrap = false ∧ 81 ∉ c.damaged ∧ s0.task.state ≠ .waitLeases ∧ s0.startFault s0.task (tv &&& ~~~3).toNat = none) ∧
    (let s1 := s0.putTask { s0.task with tagFaults := [⟨3, 1, 7, f⟩, ⟨4, 0, 7, f⟩] };
      s1.task.tagFaults = [⟨3, 1, 7, f⟩] ++ ⟨4, 0, 7, f⟩ :: [] ∧ s1.ctx.core = 0 ∧ f = { f with join := false, word := 0 }) ∧
    (FaultClass.PV ≠ .AC ∧ FaultClass.PV ≠ .MD ∧ FaultClass.PV.recoverable = false) ∧
    ((demo.ctx.retire demo.ctx.bidx).trapvec.getLsbD 0 = false) ∧ FaultClass.FM ≠ .AC ∧ FaultClass.FM ≠ .MD ∧
    (let s := put demo [.csr 0x001 65];
      (s.ctx.retire s.ctx.bidx).trapvec.getLsbD 0 = true ∧ s.startFault s.task 64 = some 10) ∧
    (let s := demo.setCtx demo.me { demo.ctx with damaged := [81] };
      s.ctx.inTrap = false ∧ 81 ∈ s.ctx.damaged ∧ s.task.fault = none) := by decide +kernel

/-- `demo` in a handler entered from a bundle at 8, with results in flight. -/
def handling (epc : Word) : State :=
  demo.setCtx demo.me { demo.ctx with
    inTrap := true, captured := some ⟨[⟨9, .x 5 1⟩], 8, 7, 1, 5⟩, epc := epc, trapvec := 9, inflight := [⟨4, .x 6 2⟩] }

/-- Nothing in the way of a commit that takes or leaves a trap. -/
def trapCommits (s : State) : Bool :=
  s.bun.stop.isNone && s.bun.targets.isEmpty && s.bun.next.isNone && !s.bun.tend && s.bun.push.isNone && s.bun.trav.isNone &&
    s.ctx.loops.isEmpty && s.task.redo.isEmpty && s.bun.pend.isEmpty && s.bun.close.isNone && !s.task.fresh && s.task.rounds == 0 &&
    s.ctx.tileStall.isEmpty

theorem witness_TrapsAndReturns :
    (let s := asks (put demo [.csr 0x001 9]) fun b => { b with trap := some 63 };
      trapCommits s = true ∧ s.bun.trap = some 63 ∧ s.ctx.trapvec.getLsbD 0 = true ∧ s.ctx.damaged = [] ∧ s.startFault s.task 8 = none) ∧
    (trapCommits (asks demo fun b => { b with trap := some 0 }) = true ∧ demo.ctx.trapvec.getLsbD 0 = false) ∧
    (demo.canRun .control 0 ∧ demo.ctx.inTrap = false) ∧
    (let s := asks (handling 8) fun b => { b with tret := true };
      let c := s.ctx.inflight.foldl (fun c e => c.apply e.res) { s.ctx with d := bindAll s.ctx.d s.bun.pend };
      trapCommits s = true ∧ s.bun.trap = none ∧ s.bun.tret = true ∧ s.ctx.captured = some ⟨[⟨9, .x 5 1⟩], 8, 7, 1, 5⟩ ∧
        s.targetFault s.task c.epc = none) ∧
    (∀ w : Word, (w = 6 ∨ w = 64) → trapCommits (handling w) = true) ∧
    ((handling 6).targetFault (handling 6).task 6).map (·.num) = some 8 ∧
    ((handling 64).targetFault (handling 64).task 64).map (·.num) = some 10 :=
  ⟨by decide +kernel, by decide +kernel, ⟨canRun_of (by decide +kernel), by decide +kernel⟩, by decide +kernel,
    by rintro w (rfl | rfl) <;> decide +kernel, by decide +kernel⟩

theorem witness_RegisterNamesAndResults :
    (let c := { demo.ctx with inflight := [⟨1, .x 63 5⟩, ⟨9, .p 3 true⟩] };
      c.inflight = [⟨1, .x 63 5⟩] ++ [⟨9, .p 3 true⟩] ∧ (∀ e ∈ [(⟨1, .x 63 5⟩ : InFlight)], e.point ≤ 1) ∧ (1 : Nat) < 9) ∧
    ({ demo.ctx with inflight := [⟨4, .x 63 7⟩] } : Ctx).inflight = [⟨4, .x 63 7⟩] := by decide +kernel

/-- A stabled team of one whose member waits for nothing: its wake is recorded by whatever step follows. -/
theorem witness_WakesRecordedByEveryStep :
    let s := placed.setTask 1 { placed.task with state := .stabled none }
    (match step { s with agenda := [.tick 1] } with | .next t => (t.taskAt 1).state == .stabled (some s.nextOp) | _ => false) = true := by
  decide +kernel

theorem demo_canRun {k : WordKind} (h : k.decoded false = true) : demo.canRun k 0 :=
  canRun_of ⟨by decide +kernel, by decide +kernel, by
    have : decide (384 ≤ demo.ctx.core) = false := by decide +kernel
    rw [this]; exact h, by decide +kernel, by decide +kernel⟩

theorem demo_readable (k : Nat) : demo.readable k := readable_all (by decide +kernel) k

theorem lk_canRun {k : WordKind} (h : k.decoded true = true) : lk.canRun k 0 :=
  canRun_of ⟨by decide +kernel, by decide +kernel, by
    have : decide (384 ≤ lk.ctx.core) = true := by decide +kernel
    rw [this]; exact h, by decide +kernel, by decide +kernel⟩

theorem lk_readable (k : Nat) : lk.readable k := readable_all (by decide +kernel) k

theorem witness_ScalarRegisterResults : demo.canRun .scalar 0 ∧ demo.readable 3 ∧ demo.readable 63 :=
  ⟨demo_canRun rfl, demo_readable _, demo_readable _⟩

theorem witness_ScalarImmediateAndFieldResults :
    (demo.canRun .scalar 0 ∧ demo.readable 3 ∧ 63 < 64) ∧ demo.canRun .scalar 0 ∧ demo.readable 3 ∧ demo.readable 4 ∧ demo.readable 5 :=
  ⟨⟨demo_canRun rfl, demo_readable _, by decide⟩, demo_canRun rfl, demo_readable _, demo_readable _, demo_readable _⟩

theorem witness_CompareAndPredicateResults : demo.canRun .scalar 0 ∧ demo.canRun .control 0 ∧ demo.readable 3 ∧ demo.readable 4 :=
  ⟨demo_canRun rfl, demo_canRun rfl, demo_readable _, demo_readable _⟩

theorem witness_TransferAndEndWords :
    demo.canRun .control 0 ∧ demo.readable 3 ∧
    ((handling 8).canRun .control 0 ∧ (handling 8).ctx.inTrap = true ∧ (handling 8).ctx.awaitsReply = false) ∧ demo.ctx.inTrap = false ∧
    (let s := demo.setPaddock 0 { demo.paddockAt 0 with session := true };
      s.canRun .control 0 ∧ (s.paddockAt s.task.p).session = true) ∧ (demo.paddockAt demo.task.p).session = false :=
  ⟨demo_canRun rfl, demo_readable _, ⟨canRun_of (by decide +kernel), by decide +kernel, by decide +kernel⟩, by decide +kernel,
    ⟨canRun_of (by decide +kernel), by decide +kernel⟩, by decide +kernel⟩

/-- `demo` with a stream of row pointers at offset 64. -/
def streamed (b : Nat) (ps : List Nat) : State :=
  (put demo [.x 4 64, .x 5 (BitVec.ofNat 64 b)]).store ((demo.slotRegion false).base + 64) (ps.flatMap (natLe 4))

/-- LOOP with room and with a full stack; LOOPT over two rows of three elements and over one empty row. -/
theorem witness_LoopsOpen :
    (demo.canRun .control 0 ∧ demo.readable 3 ∧ demo.ctx.loops.length < 4) ∧
    (let s := demo.setCtx demo.me { demo.ctx with loops := List.replicate 4 ⟨0, 8, some 2⟩ };
      s.canRun .control 0 ∧ s.readable 3 ∧ 4 ≤ s.ctx.loops.length) ∧
    (let s := streamed 2 [0, 1, 3];
      s.canRun .control 0 ∧ s.readable 4 ∧ s.readable 5 ∧ s.ctx.loops.length < 4 ∧ s.ctx.trav = none ∧ (s.xval 5).toNat ≤ 4095 ∧
      (s.xval 4).toNat = 64 ∧ 64 + 4 * 3 ≤ (s.scratchOf s.ctx.tid s.ctx.core).size ∧
      s.raceCore [⟨(s.scratchOf s.ctx.tid s.ctx.core).space, 1, 1, 0⟩] [] = .ok () ∧ nonDecreasing [0, 1, 3] = true ∧
      ((List.range 3).map fun i => memNat s.mem ((s.scratchOf s.ctx.tid s.ctx.core).base + 64 + 4 * i) 4) = [0, 1, 3] ∧
      (∀ l ∈ linesOf ((s.scratchOf s.ctx.tid s.ctx.core).base + 64) 12,
        s.lineBad l (inRead ((s.scratchOf s.ctx.tid s.ctx.core).base + 64) 12 l) = false)) ∧
    (let s := streamed 1 [5, 5];
      s.canRun .control 0 ∧ s.readable 4 ∧ s.readable 5 ∧
      ((List.range 2).map fun i => memNat s.mem ((s.scratchOf s.ctx.tid s.ctx.core).base + 64 + 4 * i) 4) = [5, 5]) :=
  ⟨⟨demo_canRun rfl, demo_readable _, by decide +kernel⟩,
   ⟨canRun_of (by decide +kernel), readable_of (by decide +kernel), by decide +kernel⟩,
   ⟨canRun_of (by decide +kernel), readable_of (by decide +kernel), readable_of (by decide +kernel), by decide +kernel⟩,
   ⟨canRun_of (by decide +kernel), readable_of (by decide +kernel), readable_of (by decide +kernel), by decide +kernel⟩⟩

/-- PIPE and LCLOSE; a bundle whose LCLOSE branches to 8. -/
theorem witness_PipelineWords : (demo.canRun .control 0 ∧ demo.readable 3) ∧
    (let s := asks demo fun b => { b with close := some (0, 3, 15), next := some 8, targets := [8] };
      s.bun.stop.isNone = true ∧ (s.bun.targets.all fun a => (s.targetFault s.task a).isNone) = true ∧ s.bun.tend = false ∧
        s.bun.trap = none ∧ s.bun.tret = false ∧ s.bun.close = some (0, 3, 15) ∧ s.bun.next = some 8 ∧ s.bun.trav = none) :=
  ⟨⟨demo_canRun rfl, demo_readable _⟩, by decide +kernel⟩

/-- SP at both ends of the stack: each clause at its boundary; a poisoned line of the stack. -/
theorem witness_HardwareStack :
    (∀ w ∈ [(16 : Word), 8, 8192, 8184], (put demo [.csr 0x013 w]).canRun .control 0 ∧ ∀ k, (put demo [.csr 0x013 w]).readable k) ∧
    (8 * (4 + 1 - 3) ≤ (put demo [.csr 0x013 16]).ctx.sp.toNat ∧ (put demo [.csr 0x013 8]).ctx.sp.toNat < 8 * (4 + 1 - 3) ∧
      (put demo [.csr 0x013 8184]).ctx.sp.toNat + 8 * (3 + 1 - 3) ≤ 8192 ∧
      8192 < (put demo [.csr 0x013 8192]).ctx.sp.toNat + 8 * (3 + 1 - 3)) ∧
    ((put demo [.csr 0x013 16]).readCheck (stackAddr demo.me 16) 16).toOption.isSome = true ∧
    (let s : State := { put demo [.csr 0x013 16] with poison := [stackAddr demo.me 16 / 64] };
      s.canRun .control 0 ∧ ∃ l ∈ linesOf (stackAddr s.me 16) 16, s.lineBad l (inRead (stackAddr s.me 16) 16 l) = true) := by
  refine ⟨fun w hw => ?_, by decide +kernel, by decide +kernel, canRun_of (by decide +kernel), by decide +kernel⟩
  simp only [List.mem_cons, List.not_mem_nil, or_false] at hw
  rcases hw with rfl | rfl | rfl | rfl <;> exact ⟨canRun_of (by decide +kernel), readable_all (by decide +kernel)⟩

/-- `demo` with its task changed. -/
def team (f : Task → Task) : State := demo.putTask (f demo.task)

/-- `demo` with its core changed. -/
def cored (f : CoreSt → CoreSt) : State := demo.setCore 0 (f (demo.coreAt 0))

/-- `demo` with result queue 7 holding slabs. -/
def slabbed (l : List Slab) : State :=
  cored fun c => { c with arr := { c.arr with queues := c.arr.queues.set 7 ⟨l, false, false, false, 0⟩ } }

/-- The last barrier, not arrived at: by the only member, and by the first of two; then arrived at by the first of two. -/
theorem witness_TeamBarriers :
    (demo.canRun .controlMain 0 ∧ 7 < demo.task.bars.length ∧ demo.ctx.member ∉ (demo.task.bar 7).arrived ∧
      ∀ m ∈ demo.memberEnds demo.task, m.2 = true ∨ m.1 = demo.ctx.member ∨ m.1 ∈ (demo.task.bar 7).arrived) ∧
    (let s := team fun t => { t with size := 2 };
      let s := s.setCtx 33 { s.ctx with member := 1 };
      s.canRun .controlMain 0 ∧ 7 < s.task.bars.length ∧ s.ctx.member ∉ (s.task.bar 7).arrived ∧
      ∃ m ∈ s.memberEnds s.task, m.2 = false ∧ m.1 ≠ s.ctx.member ∧ m.1 ∉ (s.task.bar 7).arrived) ∧
    (let s := team fun t => { t with bars := List.replicate 8 ⟨4, [0], [], []⟩ };
      s.canRun .controlMain 0 ∧ 7 < s.task.bars.length ∧ s.ctx.member ∈ (s.task.bar 7).arrived) :=
  ⟨⟨demo_canRun rfl, by decide +kernel⟩, ⟨canRun_of (by decide +kernel), by decide +kernel⟩,
    ⟨canRun_of (by decide +kernel), by decide +kernel⟩⟩

/-- Tag 63 incomplete: a mask of it alone, of none, of it and another. -/
def tagged (m : Word) : State := (team fun t => { t with tags := [(63, 1)] }).setCtx demo.me (demo.ctx.apply (.x 3 m))

/-- `demo` with an addition to cell 65,535 of the context in issue that has not performed, `b` before what comes next. -/
def fencing (b : List Nat) : State :=
  { demo.setCtx demo.me { demo.ctx with before := b } with
    ops := [⟨0, 1, 32, 0, none, 0, .counter ⟨none, 65535, .add 1, 3, none, false, none⟩, false, false, [], [], []⟩] }

theorem witness_WaitsFencesAndQueries :
    ((tagged 0).task.tagFaults = [] ∧ (tagged 0).canRun .control 0 ∧ (tagged 0).readable 3 ∧ (tagged 0).xval 3 = 0) ∧
    ((tagged 0x8000000000000001).canRun .control 0 ∧ (tagged 0x8000000000000001).readable 3 ∧
      (let m := (tagged 0x8000000000000001).xval 3; let v := (tagged 0x8000000000000001).task.tagsWord 0 &&& m; v ≠ 0 ∧ v ≠ m)) ∧
    ((tagged 0x8000000000000000).canRun .control 0 ∧ (tagged 0x8000000000000000).readable 3 ∧
      (let m := (tagged 0x8000000000000000).xval 3; let v := (tagged 0x8000000000000000).task.tagsWord 0 &&& m; v = 0 ∧ m ≠ 0)) ∧
    ((tagged 1).task.tagsWord 0 &&& (tagged 1).xval 3 = (tagged 1).xval 3) ∧
    (let s := (tagged 8).putTask { (tagged 8).task with tagFaults := [⟨0, 0, 3, { cls := .CP, num := 1 }⟩, ⟨1, 0, 9, { cls := .CP, num := 2 }⟩] };
      s.canRun .control 0 ∧ s.readable 3 ∧ s.ctx.core = 0 ∧ (s.task.tagsWord 0 &&& s.xval 3).getLsbD 3 = true ∧
        ∀ e ∈ s.task.tagFaults, (s.task.tagsWord 0 &&& s.xval 3).getLsbD e.tag = true → e.tag = 3) ∧
    (demo.canRun .fence 0 ∧ demo.ops = [] ∧ (fencing []).canRun .fence 0 ∧ (fencing [0]).canRun .fence 0 ∧
      (∃ o ∈ (fencing []).ops, o.cid = (fencing []).me ∧ ∃ c : CounterCmd, o.kind = .counter c ∧ c.performed = false) ∧
      ∃ o ∈ (fencing [0]).ops, o.id ∈ (fencing [0]).ctx.before ∧ ∃ c : CounterCmd, o.kind = .counter c ∧ c.performed = false) ∧
    (demo.canRun .control 0 ∧ demo.readable 3 ∧ demo.sound = true ∧ demo.memCanonical ∧ demo.task.tagFaults = [] ∧
      (∀ k < 16, (demo.xval 3).getLsbD k = true → k < demo.task.tiles ∧ demo.tileWriters k = [])) ∧
    (let s := (tagged 16).putTask { (tagged 16).task with tiles := 4 };
      s.canRun .control 0 ∧ s.readable 3 ∧ s.task.tagFaults = [] ∧ (s.xval 3).getLsbD 4 = true ∧ s.task.tiles = 4) ∧
    (demo.task.leases[(demo.xval 3).toNat % 16]? = none) ∧
    (let s := team fun t => { t with leases := List.replicate 16 ⟨4095, [(0, 7)], true, true, true, false⟩ };
      s.canRun .control 0 ∧ s.readable 3 ∧ s.task.tagFaults = [] ∧ (s.task.leases[(s.xval 3).toNat % 16]?).isSome = true) :=
  ⟨⟨by decide +kernel, canRun_of (by decide +kernel), readable_of (by decide +kernel), by decide +kernel⟩,
   ⟨canRun_of (by decide +kernel), readable_of (by decide +kernel), by decide +kernel⟩,
   ⟨canRun_of (by decide +kernel), readable_of (by decide +kernel), by decide +kernel⟩, by decide +kernel,
   ⟨canRun_of (by decide +kernel), readable_of (by decide +kernel), by decide +kernel⟩,
   ⟨demo_canRun rfl, by decide +kernel, canRun_of (by decide +kernel), canRun_of (by decide +kernel),
     ⟨_, List.mem_singleton_self _, by decide +kernel, _, rfl, rfl⟩, _, List.mem_singleton_self _, by decide +kernel, _, rfl, rfl⟩,
   ⟨demo_canRun rfl, demo_readable _, by decide +kernel, by unfold State.memCanonical; decide +kernel, by decide +kernel⟩,
   ⟨canRun_of (by decide +kernel), readable_of (by decide +kernel), by decide +kernel⟩, by decide +kernel,
   ⟨canRun_of (by decide +kernel), readable_of (by decide +kernel), by decide +kernel, by decide +kernel⟩⟩

/-- A register of both kinds of core, and one that a lookup core lacks. -/
theorem witness_ControlRegisters :
    (demo.canRun .control 0 ∧ demo.readable 3 ∧ demo.ctx.core < 384 ∧ ∀ f ∈ demo.task.tagFaults, f.core ≠ demo.ctx.core) ∧
    (lk.canRun .control 0 ∧ lk.readable 3 ∧ csrOnLookup 0x001 = true) ∧ 384 ≤ lk.ctx.core ∧ csrOnLookup 0x005 = false :=
  ⟨⟨demo_canRun rfl, demo_readable _, by decide +kernel⟩, ⟨lk_canRun rfl, lk_readable _, by decide +kernel⟩, by decide +kernel⟩

/-- The operands of the example of 10 R253; then tags and chainages that do not agree. -/
theorem witness_LaneWords :
    let o : VOps := ⟨1, 1, 4, 0, 2, 7, some ⟨0, 0, 3, 1, 0⟩⟩
    let w := laneArith o false (fun x y _ => x.mul y) fun x y _ => x * y
    let s := mulExample
    ((laneWord (.vmul 0 o)).isSome = true ∧ s.canRun .vector 0 ∧ s.readable o.b ∧ (s.ctx.vAt o.a).wf ∧
      laneRegs (.vmul 0 o) o w = [3] ∧ (s.ctx.vAt 3).wf ∧ w.tags (s.ctx.vAt o.a).tag (s.ctx.vAt o.a).tag (s.ctx.vAt (vThird o)).tag = true ∧
      o.rnd ≠ 1 ∧ (∀ l < 16, chain ((s.ctx.vAt 3).row l) = chain ((s.ctx.vAt o.a).row l)) ∧
      ∀ l < 16, (allPieces [(s.ctx.vAt o.a).row l, (s.ctx.vAt 3).row l]).length ≤ 64) ∧
    (let p : VOps := ⟨0, 0, 4, 0, 2, 3, none⟩;
      (laneArith p false (fun x y _ => x.add y) fun x y _ => x + y).tags (s.ctx.vAt 2).tag (s.ctx.vAt 3).tag (s.ctx.vAt 0).tag = false) ∧
    (∃ l < 16, chain ((s.ctx.vAt 0).row l) ≠ chain ((s.ctx.vAt 3).row l)) ∧ (s.ctx.vAt 0).tag = (s.ctx.vAt 3).tag :=
  ⟨⟨by decide +kernel, canRun_of (by decide +kernel), readable_of (by decide +kernel), by unfold VReg.wf; decide +kernel, by decide +kernel,
    by unfold VReg.wf; decide +kernel, by decide +kernel, by decide +kernel, by decide +kernel, by decide +kernel⟩,
    by decide +kernel, by decide +kernel, by decide +kernel⟩

/-- V2 of one row of chainage 3 and X4 as given. -/
def rows (n : Word) : State :=
  put demo [.x 4 n, .v 2 ⟨[[⟨1, 1⟩, ⟨2, 2⟩]] ++ List.replicate 15 [], .uint32⟩]

theorem rows_ready (n : Word) (h : n = 0 ∨ n = 2 ∨ n = 4096 ∨ n = 4097) :
    (rows n).canRun .vector 0 ∧ (rows n).readable 4 ∧ ((rows n).ctx.vAt 2).wf := by
  rcases h with rfl | rfl | rfl | rfl <;>
    exact ⟨canRun_of (by decide +kernel), readable_of (by decide +kernel), by unfold VReg.wf; decide +kernel⟩

theorem witness_RowWordResults :
    ((rows 4096).canRun .vector 0 ∧ (rows 4096).readable 4 ∧ ((rows 4096).ctx.vAt 2).wf ∧ ((rows 4096).xval 4).toNat ≤ 4096) ∧
    ((rows 4097).canRun .vector 0 ∧ 4096 < ((rows 4097).xval 4).toNat) ∧
    ((∀ l < 16, chain (((rows 2).ctx.vAt 2).row l) = 0 ∨ ((rows 2).xval 4).toNat < chain (((rows 2).ctx.vAt 2).row l)) ∧
      ((rows 2).xval 4).toNat % 4096 < chain (((rows 2).ctx.vAt 2).row (((rows 2).xval 4).toNat / 4096 % 16)) ∧
      ∀ l < 16, (mergeRuns (rotateRow ((rows 2).xval 4).toInt (((rows 2).ctx.vAt 2).row l))).length ≤ 64) :=
  ⟨⟨(rows_ready _ (by simp)).1, (rows_ready _ (by simp)).2.1, (rows_ready _ (by simp)).2.2, by decide +kernel⟩,
    ⟨(rows_ready _ (by simp)).1, by decide +kernel⟩, by decide +kernel⟩

theorem witness_ReductionAndColumnResults :
    let s := put (rows 2) [.v 3 ⟨[[⟨2, 1⟩, ⟨0, 2⟩]] ++ List.replicate 15 [], .int32⟩, .v 5 ⟨List.replicate 16 [⟨7, 4⟩], .int32⟩]
    (s.canRun .vector 0 ∧ s.readable 4 ∧ (s.ctx.vAt 2).wf ∧ (s.ctx.vAt 3).wf) ∧
    (∀ l < 16, (scanSums .uint32 none ((s.ctx.vAt 2).row l)).length ≤ 64) ∧ (s.ctx.vAt 3).tag.isInt = true ∧
    (∀ l < 16, chain ((s.ctx.vAt 3).row l) = chain ((s.ctx.vAt 2).row l)) ∧
    (∀ l < 16, ((expandRow ((s.ctx.vAt 3).row l)).map BitVec.toNat).sum ≤ 4096 ∧
      (allPieces [(s.ctx.vAt 2).row l, (s.ctx.vAt 3).row l]).length ≤ 64) ∧
    (s.ctx.vAt 5).wf ∧ (∀ l < 16, chain ((s.ctx.vAt 5).row l) = chain ((s.ctx.vAt 5).row 0)) ∧ (allPieces (s.ctx.vAt 5).rows).length ≤ 64 :=
  ⟨⟨canRun_of (by decide +kernel), readable_of (by decide +kernel), by unfold VReg.wf; decide +kernel, by unfold VReg.wf; decide +kernel⟩,
    by decide +kernel, by decide +kernel, by decide +kernel, by decide +kernel, by unfold VReg.wf; decide +kernel, by decide +kernel,
    by decide +kernel⟩

/-- A slab in queue 7; none, with and without a drain under way; rows that name places of the lane slices. -/
theorem witness_QueueAndLaneResults :
    (let s := slabbed [⟨9, 1, 1, [[0x3F800000]], false⟩];
      s.canRun .vector 0 ∧ ((s.coreAt s.ctx.core).arr.queues.getD 7 .empty).slabs = [⟨9, 1, 1, [[0x3F800000]], false⟩] ∧
      7 < (s.coreAt s.ctx.core).arr.queues.length) ∧
    (let s := slabbed [⟨9, 1, 1, [[0x3F800000]], true⟩];
      s.canRun .vector 0 ∧ ((s.coreAt s.ctx.core).arr.queues.getD 7 .empty).slabs = [⟨9, 1, 1, [[0x3F800000]], true⟩]) ∧
    (((demo.coreAt demo.ctx.core).arr.queues.getD 7 .empty).slabs = [] ∧ demo.draining demo.ctx.core 7 = false) ∧
    (let s : State := { demo with ops := [⟨0, 1, 32, 0, some 4, 0, .matrix (.mdrain ⟨7, 9, 0, 0, []⟩) ⟨0, false, [], none, false⟩, false, false, [], [], []⟩] };
      s.canRun .vector 0 ∧ ((s.coreAt s.ctx.core).arr.queues.getD 7 .empty).slabs = [] ∧ s.draining s.ctx.core 7 = true) ∧
    (let s := put demo [.x 4 2, .v 2 ⟨[[⟨8184, 1⟩]] ++ List.replicate 15 [], .uint32⟩, .v 3 ⟨[[⟨1, 1⟩, ⟨2, 1⟩]] ++ List.replicate 15 [], .uint32⟩];
      s.canRun .vector 0 ∧ s.readable 4 ∧ s.sound = true ∧ (s.ctx.vAt 2).tag.isInt = true ∧ 1 ≤ (s.xval 4).toNat ∧
      (∀ l < 16, chain ((s.ctx.vAt 2).row l) ≠ 0 → (elemAt ((s.ctx.vAt 2).row l) 0).toNat % 4 = 0 ∧
        (elemAt ((s.ctx.vAt 2).row l) 0).toNat + 4 * (s.xval 4).toNat ≤ s.ctx.sliceSize) ∧
      (∀ l < 16, (runsOf (readWords s.mem (laneAddr s.ctx.core l (s.ctx.sliceBase + (elemAt ((s.ctx.vAt 2).row l) 0).toNat)) 2)).length ≤ 64) ∧
      (∀ l < 16, chain ((s.ctx.vAt 3).row l) ≠ 0 → chain ((s.ctx.vAt 2).row l) ≠ 0 ∧ (elemAt ((s.ctx.vAt 2).row l) 0).toNat % 4 = 0 ∧
        (elemAt ((s.ctx.vAt 2).row l) 0).toNat + 4 * chain ((s.ctx.vAt 3).row l) ≤ s.ctx.sliceSize)) :=
  ⟨⟨canRun_of (by decide +kernel), by decide +kernel⟩, ⟨canRun_of (by decide +kernel), by decide +kernel⟩, by decide +kernel,
    ⟨canRun_of (by decide +kernel), by decide +kernel⟩,
    ⟨canRun_of (by decide +kernel), readable_of (by decide +kernel), by decide +kernel⟩⟩

/-- `demo` with a hyperparameter block with no decay and both flags at 64, records at 128 and one gradient. -/
def training : State :=
  (put demo [.x 4 128, .x 5 64, .v 2 ⟨[[⟨0x3F800000, 1⟩]] ++ List.replicate 15 [], .fp32⟩]).store ((demo.slotRegion false).base + 64)
    ([0x3A83126F, 0x3F666666, 0x3F7FBE77, 0x322BCC77, 0, 3, 0, 0].flatMap (natLe 4))

theorem witness_OptimiserUpdate :
    let s := training
    let reg := s.scratchOf s.ctx.tid s.ctx.core
    s.canRun .vector 0 ∧ s.readable 4 ∧ s.readable 5 ∧ s.sound = true ∧ (s.ctx.vAt 2).tag = .fp32 ∧ (s.xval 4).toNat % 16 = 0 ∧
      (s.xval 5).toNat % 32 = 0 ∧ (s.xval 5).toNat + 32 ≤ reg.size ∧ (s.xval 4).toNat + 16 * 1 ≤ reg.size ∧
      (((s.ctx.vAt 2).rows.flatMap expandRow).map fun x => fp32.decode x.toNat).length = 1 ∧
      memNat s.mem (reg.base + (s.xval 5).toNat + 20) 4 = 3 ∧ memNat s.mem (reg.base + (s.xval 5).toNat + 24) 8 = 0 ∧
      s.raceCore [reg.touch (s.xval 5).toNat 32] [reg.touch (s.xval 4).toNat 16] = .ok () ∧
      bits s.ctx.rngctl.toNat 0 2 = 0 ∧ s.ctx.damaged = [] ∧ s.memCanonical :=
  ⟨canRun_of (by decide +kernel), readable_of (by decide +kernel), readable_of (by decide +kernel), by unfold State.memCanonical; decide +kernel⟩

theorem witness_FunctionAndRandomWords :
    (functionWord (.ftanh 0 1 15 2 2 1)).isSome = true ∧ (training.canRun .vector 0 ∧ (training.ctx.vAt 2).rows.length = 16 ∧
      (training.ctx.vAt 2).tag = .fp32 ∧ (2 : Nat) ≠ 1) ∧ (training.ctx.vAt 3).tag ≠ .fp32 ∧
    ((put demo [.x 3 64]).canRun .vector 0 ∧ (put demo [.x 3 64]).readable 3 ∧ ((put demo [.x 3 64]).xval 3).toNat ≤ 64 ∧
      bits (put demo [.x 3 64]).ctx.rngctl.toNat 0 2 = 0 ∧ (put demo [.x 3 64]).ctx.damaged = []) ∧
    ((put demo [.x 3 65]).canRun .vector 0 ∧ (put demo [.x 3 65]).readable 3 ∧ 64 < ((put demo [.x 3 65]).xval 3).toNat) :=
  ⟨by decide +kernel, ⟨canRun_of (by decide +kernel), by decide +kernel⟩, by decide +kernel,
    ⟨canRun_of (by decide +kernel), readable_of (by decide +kernel), by decide +kernel⟩,
    ⟨canRun_of (by decide +kernel), readable_of (by decide +kernel), by decide +kernel⟩⟩

theorem at_ready (w : Word) (h : w ∈ [(0 : Word), 4, 64, 253944, 253952, 0xFFFFFFFFFFFFFFF8]) :
    (∀ mb, (put demo [.x 3 w]).canRun (slotKind mb) 0) ∧ ∀ k, (put demo [.x 3 w]).readable k := by
  simp only [List.mem_cons, List.not_mem_nil, or_false] at h
  rcases h with rfl | rfl | rfl | rfl | rfl | rfl <;>
    exact ⟨fun mb => by cases mb <;> exact canRun_of (by decide +kernel), readable_all (by decide +kernel)⟩

/-- LDD at the last eight bytes of scratch, at 4, just past the end and below 0. -/
theorem witness_LoadResults :
    (loadWord (.ldd 0 5 3 ⟨0, []⟩)).isSome = true ∧
    (let s := put demo [.x 3 253944];
      s.canRun (slotKind false) 0 ∧ s.readable 3 ∧ ((s.xval 3 + (Imm.mk 0 []).value 6 * 8).toInt = (253944 : Nat)) ∧
      253944 + 8 ≤ (s.slotRegion false).size ∧ s.sound = true ∧
      s.raceCore [⟨(s.slotRegion false).space, 253944 / 64, (253944 + 8 - 1) / 64, 0⟩] [] = .ok ()) ∧
    ((put demo [.x 3 4]).xval 3 + (Imm.mk 0 []).value 6 * 8).toInt % 8 ≠ 0 ∧
    (let p := ((put demo [.x 3 253952]).xval 3 + (Imm.mk 0 []).value 6 * 8).toInt;
      p % 8 = 0 ∧ ((demo.slotRegion false).size : Int) < p + 8) ∧
    (let p := ((put demo [.x 3 0xFFFFFFFFFFFFFFF8]).xval 3 + (Imm.mk 0 []).value 6 * 8).toInt; p % 8 = 0 ∧ p < 0) :=
  ⟨by decide +kernel, ⟨(at_ready _ (by simp)).1 false, (at_ready _ (by simp)).2 3, by decide +kernel⟩, by decide +kernel⟩

theorem demo_canonical : demo.memCanonical := by unfold State.memCanonical; decide +kernel

/-- STDCM at the last eight bytes of cluster memory, at 4 and past the end. -/
theorem witness_StoreResults :
    (storeWord (.stdCm 0 4 3 ⟨0, []⟩)).isSome = true ∧
    (let s := put demo [.x 3 65528];
      s.canRun (slotKind true) 0 ∧ s.readable 3 ∧ s.readable 4 ∧ s.memCanonical ∧ ((s.xval 3 + (Imm.mk 0 []).value 6 * 8).toInt = (65528 : Nat)) ∧
      65528 + 8 ≤ (s.slotRegion true).size ∧ s.raceCore [] [⟨(s.slotRegion true).space, 65528 / 64, (65528 + 8 - 1) / 64, 0⟩] = .ok ()) ∧
    ((put demo [.x 3 4]).xval 3 + (Imm.mk 0 []).value 6 * 8).toInt % 8 ≠ 0 ∧
    (let p := ((put demo [.x 3 65536]).xval 3 + (Imm.mk 0 []).value 6 * 8).toInt;
      p % 8 = 0 ∧ ((demo.slotRegion true).size : Int) < p + 8) :=
  ⟨by decide +kernel, ⟨canRun_of (by decide +kernel), readable_of (by decide +kernel), readable_of (by decide +kernel), by unfold State.memCanonical; decide +kernel,
    by decide +kernel⟩, by decide +kernel⟩

theorem witness_AtomicResults :
    (atomicWord (.amaxu 0 5 3 4 (some 1))).isSome = true ∧
    (let s := put demo [.x 3 253948];
      s.canRun (slotKind false) 0 ∧ s.readable 3 ∧ s.readable 4 ∧ s.readable 5 ∧ s.sound = true ∧ s.memCanonical ∧
      (s.xval 3).toInt = (253948 : Nat) ∧ 253948 % 4 = 0 ∧ 253948 + 4 ≤ (s.slotRegion false).size ∧
      s.raceCore [] [⟨(s.slotRegion false).space, 253948 / 64, (253948 + 4 - 1) / 64, 0⟩] = .ok ()) :=
  ⟨by decide +kernel, canRun_of (by decide +kernel), readable_of (by decide +kernel), readable_of (by decide +kernel),
    readable_of (by decide +kernel), by decide +kernel, by unfold State.memCanonical; decide +kernel, by decide +kernel⟩

/-- `demo` with counter frame 7 of its paddock at frame 2 and X3 as given. -/
def celled (w : Word) : State :=
  let s := put demo [.x 3 w]
  s.setPaddock 0 { s.paddockAt 0 with cells := [(7, 2)] }

theorem celled_ready (w : Word) (h : w = 65535 ∨ w = 0 ∨ w = 65536 ∨ w = 0x2000000 ∨ w = 0x4000000) :
    (celled w).canRun .cell 0 ∧ ∀ k, (celled w).readable k := by
  rcases h with rfl | rfl | rfl | rfl | rfl <;> exact ⟨canRun_of (by decide +kernel), readable_all (by decide +kernel)⟩

/-- The last cell, one without a frame, and operands that break 11 R289. -/
theorem witness_CounterResults :
    (counterWord (.cadd 0 5 3 4 6 1 3)).isSome = true ∧
    ((celled 65535).canRun .cell 0 ∧ (∀ k, (celled 65535).readable k) ∧ ((celled 65535).xval 3).toNat < 65536 ∧
      ((celled 65535).cellAddr (celled 65535).task.p 65535).isSome = true) ∧
    (((celled 0).xval 3).toNat < 65536 ∧ (celled 0).cellAddr (celled 0).task.p 0 = none) ∧
    (let v := ((celled 65536).xval 3).toNat; v / 2 ^ 25 = 0 ∧ 65536 ≤ v) ∧ (let v := ((celled 0x2000000).xval 3).toNat; v / 2 ^ 25 = 1) ∧
    2 ^ 26 ≤ ((celled 0x4000000).xval 3).toNat :=
  ⟨by decide +kernel, ⟨(celled_ready _ (by simp)).1, (celled_ready _ (by simp)).2, by decide +kernel⟩, by decide +kernel⟩

/-- `slabbed` with the address in X3 and the pitch in X4. -/
def storing (l : List Slab) (a p : Word) : State :=
  let s := slabbed l
  s.setCtx s.me ((s.ctx.apply (.x 3 a)).apply (.x 4 p))

def slabTwo : Slab := ⟨9, 2, 1, [[0x3F800000], [7]], false⟩

/-- Two rows that end at the last byte of scratch; one more does not; a misaligned pitch; no slab with and without a drain; poison. -/
theorem witness_QueueStoreResults :
    (queueStoreWord (.qpops 0 7 3 4 (some (some 15)))).isSome = true ∧
    (let s := storing [slabTwo] 253824 64;
      let reg := s.slotRegion false;
      s.canRun (slotKindMain false) 0 ∧ s.readable 3 ∧ s.readable 4 ∧ s.memCanonical ∧ s.sound = true ∧ 0 < (1 * storageBits 9 + 7) / 8 ∧
      (1 * storageBits 9 + 7) / 8 ≤ 64 ∧ (s.xval 3).toNat % 64 = 0 ∧ (s.xval 4).toNat % 64 = 0 ∧
      ((s.coreAt s.ctx.core).arr.queues.getD 7 .empty).slabs = slabTwo :: [] ∧
      (∀ l, l < slabTwo.nr → 253824 + l * 64 + (1 * storageBits 9 + 7) / 8 ≤ reg.size) ∧
      s.raceCore [] ((List.range slabTwo.nr).map fun l => reg.touch (253824 + l * 64) 4) = .ok () ∧
      7 < (s.coreAt s.ctx.core).arr.queues.length ∧ slabTwo.vals.length = slabTwo.nr ∧ (∀ r ∈ slabTwo.vals, r.length = slabTwo.nc)) ∧
    (∃ l, l < slabTwo.nr ∧ ((storing [slabTwo] 253888 64).slotRegion false).size < 253888 + l * 64 + (1 * storageBits 9 + 7) / 8) ∧
    ((storing [] 0 32).xval 4).toNat % 64 ≠ 0 ∧
    ((storing [] 0 64).canRun (slotKindMain false) 0 ∧ (storing [] 0 64).draining (storing [] 0 64).ctx.core 7 = false) ∧
    (let s : State := { storing [] 0 64 with ops := [⟨0, 1, 32, 0, some 4, 0, .matrix (.mdrain ⟨7, 9, 0, 0, []⟩) ⟨0, false, [], none, false⟩, false, false, [], [], []⟩] };
      s.canRun (slotKindMain false) 0 ∧ s.draining s.ctx.core 7 = true) ∧
    (let s := storing [{ slabTwo with bad := true }] 253824 64;
      s.canRun (slotKindMain false) 0 ∧ s.memCanonical ∧ s.sound = true ∧
        s.raceCore [] ((List.range 2).map fun l => (s.slotRegion false).touch (253824 + l * 64) 4) = .ok ()) :=
  ⟨by decide +kernel, ⟨canRun_of (by decide +kernel), readable_of (by decide +kernel), readable_of (by decide +kernel), by unfold State.memCanonical; decide +kernel,
    by decide +kernel⟩, ⟨1, by decide +kernel⟩, by decide +kernel, ⟨canRun_of (by decide +kernel), by decide +kernel⟩,
    ⟨canRun_of (by decide +kernel), by decide +kernel⟩, canRun_of (by decide +kernel), by unfold State.memCanonical; decide +kernel, by decide +kernel⟩

/-- One element a row, a pitch apart, from 64. -/
theorem witness_DenseRowResults :
    let s := put demo [.x 3 64, .x 4 1, .v 2 ⟨[[⟨7, 1⟩, ⟨9, 2⟩]] ++ List.replicate 15 [], .int32⟩]
    let reg := s.slotRegion false
    (s.canRun .maMain 0 ∧ s.readable 3 ∧ s.readable 4 ∧ s.sound = true ∧ s.memCanonical ∧ denseFmt 9 = true ∧ (s.xval 3).toNat % 4 = 0 ∧
      128 % 4 = 0) ∧
    (rowsInside reg 64 128 (fun _ => 1 * 4) ∧ (s.xval 4).toNat ≤ 4096 ∧
      (∀ l < 16, (runsOf ((readElems s.mem (reg.base + 64 + l * 128) 4 1).map (widen 9))).length ≤ 64) ∧
      s.raceCore (rowTouches reg 64 128 fun _ => 1 * 4) [] = .ok ()) ∧
    (rowsInside reg 64 128 (fun l => chain ((s.ctx.vAt 2).row l) * 4) ∧ (∀ l < 16, chain ((s.ctx.vAt 2).row l) * 4 ≤ 128) ∧
      s.raceCore [] (rowTouches reg 64 128 fun l => chain ((s.ctx.vAt 2).row l) * 4) = .ok () ∧
      ∀ l < 16, (expandRow ((s.ctx.vAt 2).row l)).length = chain ((s.ctx.vAt 2).row l)) :=
  ⟨⟨canRun_of (by decide +kernel), readable_of (by decide +kernel), readable_of (by decide +kernel), by decide +kernel, by unfold State.memCanonical; decide +kernel,
    by decide +kernel⟩, by unfold rowsInside; decide +kernel, by unfold rowsInside; decide +kernel⟩

/-- `demo` with T1 a 2 x 16 and T2 a 2 x 4 FP32 tile and X3 as given. -/
def tiled (w : Word) : State := put demo [.x 3 w, .tw 1 0x4900000000004002, .tw 2 0x4900000000001002]

theorem tiled_free (w : Word) (h : w = 64 ∨ w = 253824 ∨ w = 253888 ∨ w = 8) :
    (tiled w).tilesFree [1, 2] ∧ (tiled w).tileReady 1 true 0x4900000000004002 ∧ (tiled w).tileReady 2 true 0x4900000000001002 ∧
    (tiled w).canRun .maMain 0 ∧ (tiled w).canRun .eMain 0 ∧ (tiled w).memCanonical ∧ (tiled w).sound = true ∧ (tiled w).readable 3 := by
  rcases h with rfl | rfl | rfl | rfl <;>
    exact ⟨⟨by decide +kernel, by decide +kernel⟩, by constructor <;> decide +kernel,
      by constructor <;> decide +kernel, canRun_of (by decide +kernel),
      canRun_of (by decide +kernel), by unfold State.memCanonical; decide +kernel, by decide +kernel, readable_of (by decide +kernel)⟩

/-- TLDS of a 128-byte tile at the last place that takes it, in both orders; past it; at 8; of a tile too narrow for column order. A
VPACK; an image of empty rows, one that is no image. -/
theorem witness_ImageWords :
    (tileImageWord (.tlds 0 1 3 1)).isSome = true ∧
    (let s := tiled 253824;
      s.tilesFree [1, 2] ∧ s.tileReady 1 true 0x4900000000004002 ∧ s.canRun (slotKindMain false) 0 ∧
      (layOf 0x4900000000004002).ext.getLastD 0 * storageBits (layOf 0x4900000000004002).fmt % 512 = 0 ∧
      (s.xval 3).toNat + (layOf 0x4900000000004002).size ≤ (s.slotRegion false).size ∧
      s.raceCore [(s.slotRegion false).touch 253824 128] [(layOf 0x4900000000004002).touch s.me 1] = .ok ()) ∧
    ((tiled 253888).slotRegion false).size < 253888 + (layOf 0x4900000000004002).size ∧ ((tiled 8).xval 3).toNat % 64 ≠ 0 ∧
    (layOf 0x4900000000001002).ext.getLastD 0 * storageBits (layOf 0x4900000000001002).fmt % 512 ≠ 0 ∧
    (let s := put demo [.x 3 64, .v 2 ⟨[[⟨7, 1⟩, ⟨9, 2⟩]] ++ List.replicate 15 [], .fp32⟩];
      let p := (s.slotRegion false).base + 64;
      let t := s.store (p + 6208) [9];
      (s.canRun .maMain 0 ∧ s.readable 3 ∧ s.sound = true ∧ s.memCanonical ∧ (s.ctx.vAt 2).wf ∧
        s.raceCore [] [(s.slotRegion false).touch 64 6272] = .ok ()) ∧
      (t.canRun .maMain 0 ∧ t.readable 3 ∧ t.sound = true ∧ t.memCanonical ∧ t.raceCore [(t.slotRegion false).touch 64 6272] [] = .ok () ∧
        (∀ l < 16, (unpackRow t.mem p l).isSome = true) ∧ tagOfCode (memNat t.mem (p + 6208) 8) = some .fp32 ∧
        ∀ k < 56, memGet t.mem (p + 6216 + k) = 0) ∧
      ∃ l < 16, unpackRow (s.store (p + 6144) [0x80]).mem p l = none) :=
  ⟨by decide +kernel, ⟨(tiled_free _ (by simp)).1, (tiled_free _ (by simp)).2.1, (tiled_free _ (by simp)).2.2.2.1, by decide +kernel⟩,
    by decide +kernel, by decide +kernel, by decide +kernel, ⟨canRun_of (by decide +kernel), readable_of (by decide +kernel),
    by decide +kernel, by unfold State.memCanonical; decide +kernel, by unfold VReg.wf; decide +kernel, by decide +kernel⟩,
    ⟨canRun_of (by decide +kernel), readable_of (by decide +kernel), by decide +kernel, by unfold State.memCanonical; decide +kernel,
      by decide +kernel⟩, 0, by decide +kernel⟩

theorem witness_TileDataWords :
    (demo.canRun .eMain 0 ∧ demo.memCanonical ∧ demo.sound = true ∧ demo.task.tiles ≤ 16) ∧
    ((tiled 64).tilesFree [1, 2] ∧ (tiled 64).tileReady 2 false 0x4900000000001002 ∧
      (tiled 64).raceCore [] [(layOf 0x4900000000001002).touch (tiled 64).me 2] = .ok () ∧
      (tiled 64).raceCore [(layOf 0x4900000000001002).touch (tiled 64).me 2] [(layOf 0x4900000000001002).touch (tiled 64).me 1] = .ok ()) :=
  ⟨⟨demo_canRun rfl, demo_canonical, by decide +kernel, by decide +kernel⟩, (tiled_free _ (by simp)).1,
    by constructor <;> decide +kernel, by decide +kernel⟩

/-- TTRANS, TCMPR and TRESHP, of the tiles and a shape with the last extent at its limit. -/
theorem witness_TileFormsFork :
    let w : Word := 0x4900000000004002
    let wr := (layOf (mkType 2 9 0 0 0 [16, 2])).touch 32 15
    (tileForm w 0 (.ttrans 0 15 1 63) = some (0, 63, 15, 1, .transpose, mkType 2 9 0 0 (twFlags w &&& 0xF7) [16, 2], none, 0) ∧
      tileRule w 0 (.ttrans 0 15 1 63) ∧
      (∀ g' d' a' b' tag', (Instr.ttrans 0 15 1 63) = .treshp g' d' a' b' tag' → (tiled 64).readable b' ∧ (tiled 64).xval b' = 0)) ∧
    ((tiled 64).canRun .eMain 0 ∧ (tiled 64).tileReady 1 false w ∧ (tiled 64).tilesFree [15, 1]) ∧
    ((layOf (mkType 2 9 0 0 0 [16, 2])).size ≤ 32768 ∧ openExt (mkType 2 9 0 0 0 [16, 2]) = none ∧
      (tiled 64).raceEngine [(layOf w).touch 32 1] [wr] = .ok () ∧ (tiled 64).tagRoom 63 1 ∧
      (tiled 64).placesTaken 0 < copyPlacesOf 0 ∧ (tiled 64).drawsLive 0) ∧
    (tileRule w 0 (.tcvt 0 15 1 63 0 1 0) ∧ (tiled 64).drawsLive 32) ∧
    tileRule w (mkType 2 0 0 0 0 [8, 4]) (.treshp 0 15 1 3 63) :=
  ⟨⟨rfl, ⟨by decide +kernel, by decide +kernel⟩, fun _ _ _ _ _ h => by cases h⟩,
   ⟨canRun_of (by decide +kernel), by constructor <;> decide +kernel,
    ⟨by decide +kernel, by decide +kernel⟩⟩,
   ⟨by decide +kernel, by decide +kernel, by decide +kernel, by unfold State.tagRoom; decide +kernel, by decide +kernel, .inl rfl⟩,
   ⟨⟨by decide +kernel, by decide +kernel, by decide +kernel⟩, .inr (by decide +kernel)⟩,
   by unfold tileRule; decide +kernel⟩

/-- T1 of 2 x 16 as 4 x 8. -/
theorem witness_TileFormsInPlace :
    let s := put demo [.x 3 (mkType 2 0 0 0 0 [4, 8]), .tw 1 0x4900000000004002]
    (s.canRun .eMain 0 ∧ s.tilesFree [1] ∧ s.readable 3) ∧
    let w := s.ctx.twAt 1
    let x := s.xval 3
    (w ≠ 0 ∧ typeFault true w = none ∧ 2 ≤ twRank w ∧
      (layOf (s.resolveType (mkType (twRank w) (twFmt w) (twLayout w) (swapGeom (twGeom w)) (twFlags w ^^^ 8) (swapLast (twExts w))))).size ≤ 32768) ∧
    (castOk w 6 = true ∧ (layOf (s.resolveType (mkType (twRank w) 6 (twLayout w) 0 (twFlags w) (twExts w)))).size ≤ 32768) ∧
    castOk w 0x0F = false ∧
    (let m := mkType (twRank x) (twFmt w) (twLayout w) (twGeom w) (twFlags w) ((List.range 4).map (twExt x));
      bits x.toNat 40 21 = 0 ∧ twRank x ≠ 0 ∧ typeFault true m = none ∧ openExt (s.resolveType w) = none ∧ openExt (s.resolveType m) = none ∧
      (layOf (s.resolveType m)).size ≤ 32768 ∧ listProd (twExts (s.resolveType w)) = listProd (twExts (s.resolveType m)) ∧
      twLayout (s.resolveType w) = 0 ∧ twView (s.resolveType w) = false ∧ twGeom (s.resolveType w) = 0) :=
  ⟨⟨canRun_of (by decide +kernel), ⟨by decide +kernel, by decide +kernel⟩, readable_of (by decide +kernel)⟩, by decide +kernel⟩

theorem word_ready (w : Word) (h : w = 0 ∨ w = 1 ∨ w = 511 ∨ w = 512 ∨ w = 0x4900000000001008 ∨ w = 0x2900000000000000) :
    (tiled w).canRun .eMain 0 ∧ (tiled w).canRun .eBoth 0 ∧ (tiled w).readable 3 ∧ (tiled w).tilesFree [1] := by
  rcases h with rfl | rfl | rfl | rfl | rfl | rfl <;> exact ⟨canRun_of (by decide +kernel), canRun_of (by decide +kernel),
    readable_of (by decide +kernel), ⟨by decide +kernel, by decide +kernel⟩⟩

/-- A type word of 0, a legal one and FM-05; 0, 1, 511 and 512 for an extent; a variable free, bound to 511 and to another. -/
theorem witness_TypeAndEngineRegisterWords :
    (∀ w, (w = 0 ∨ w = 1 ∨ w = 511 ∨ w = 512 ∨ w = 0x4900000000001008 ∨ w = 0x2900000000000000) →
      (tiled w).canRun .eMain 0 ∧ (tiled w).canRun .eBoth 0 ∧ (tiled w).readable 3 ∧ (tiled w).tilesFree [1]) ∧
    (let v := (tiled 0x4900000000001008).xval 3; twRank v ≠ 0 ∧ typeFault true v = none ∧ (layOf v).size ≤ 32768) ∧
    (let v := (tiled 0x2900000000000000).xval 3; twRank v ≠ 0 ∧ typeFault true v = some 5) ∧
    ((tiled 0).ctx.twAt 1 ≠ 0 ∧ typeFault true ((tiled 0).ctx.twAt 1) = none ∧
      (layOf ((tiled 0).resolveType (((tiled 0).ctx.twAt 1 ||| BitVec.ofNat 64 (3 * 2 ^ 41)) &&& ~~~(BitVec.ofNat 64 (12 * 2 ^ 41))))).size ≤
        32768) ∧
    ((tiled 511).xval 3 = 511 ∧ demo.ctx.dAt 15 = none) ∧
    ((put demo [.d 15 (some 511)]).ctx.dAt 15 = some 511 ∧ (put demo [.d 15 (some 510)]).ctx.dAt 15 = some 510) := by
  exact ⟨word_ready, by decide +kernel⟩

/-- `tiled` with planned accumulators of 2 x 2 under a plane of T1's type. -/
def planned : State :=
  let s := put demo [.tw 1 0x4900000000004002, .tw 2 (mkType 2 9 0 0 0 [2, 2])]
  s.setCore 0 { s.coreAt 0 with arr := { (s.coreAt 0).arr with planValid := true, planM := 2, planN := 2, planTw := 0x4900000000004002 } }

theorem planned_ready : planned.canRun .eMain 0 ∧ planned.tilesFree [1, 2] ∧ planned.tileReady 1 true 0x4900000000004002 ∧
    planned.tileReady 2 false (mkType 2 9 0 0 0 [2, 2]) ∧ planned.tagRoom 63 1 ∧ planned.matrixRoom planned.ctx.tid planned.ctx.core = true :=
  ⟨canRun_of (by decide +kernel), ⟨by decide +kernel, by decide +kernel⟩,
    by constructor <;> decide +kernel,
    by constructor <;> decide +kernel, by unfold State.tagRoom; decide +kernel,
    by decide +kernel⟩

theorem witness_MatrixWords :
    (planned.canRun .eMain 0 ∧ planned.tagRoom 63 1 ∧ planned.matrixRoom planned.ctx.tid planned.ctx.core = true) ∧
    (planned.tileReady 1 true 0x4900000000004002 ∧ twRank 0x4900000000004002 = 2 ∧ matrixFmt (twFmt 0x4900000000004002) = true ∧
      twExt 0x4900000000004002 0 ≤ 128 ∧ twExt 0x4900000000004002 1 ≤ 128 ∧ twPruned 0x4900000000004002 = false ∧
      planned.raceEngine [(layOf 0x4900000000004002).touch planned.me 1] [] = .ok ()) ∧
    ((planned.coreAt 0).arr.planValid = true ∧ planned.drawsLive 4) ∧
    (demo.canRun .eMain 0 ∧ (demo.coreAt 0).arr.planValid = false) :=
  ⟨⟨planned_ready.1, planned_ready.2.2.2.2.1, planned_ready.2.2.2.2.2⟩, ⟨planned_ready.2.2.1, by decide +kernel⟩,
    ⟨by decide +kernel, .inr (by decide +kernel)⟩, demo_canRun rfl, by decide +kernel⟩

/-- MMUL of both rows of T1 with addend T2, drained to queue 7; MMULN that goes on from the accumulators. -/
theorem witness_MultiplyWords :
    let ta : Word := 0x4900000000004002
    let tc := mkType 2 9 0 0 0 [2, 2]
    (mulWord (.mmul 0 7 1 1 2 63 9 0 0) = some (0, 1, 1, 2, none, some ⟨7, 9, 0, 0, []⟩, 63)) ∧
    (planned.canRun .eMain 0 ∧ planned.tagRoom 63 1 ∧ planned.matrixRoom planned.ctx.tid planned.ctx.core = true ∧ planned.tilesFree [1, 2] ∧
      planned.tileReady 1 true ta ∧ planned.tileReady 2 false tc ∧ planned.sound = true) ∧
    MulRule (planned.coreAt planned.ctx.core).arr (startOf 1) ta tc 0 false 0 2 (some 9) ∧
    planned.raceEngine [(layOf ta).touch planned.me 1, (layOf tc).touch planned.me 2] [] = .ok () ∧ planned.drawsLive 0 ∧
    MulRule (planned.coreAt planned.ctx.core).arr (startOf 2) ta 0 0 false 0 2 none :=
  ⟨rfl, ⟨planned_ready.1, planned_ready.2.2.2.2.1, planned_ready.2.2.2.2.2, planned_ready.2.1, planned_ready.2.2.1, planned_ready.2.2.2.1,
      by decide +kernel⟩,
    by constructor <;> decide +kernel, by decide +kernel, .inl rfl,
    by constructor <;> decide +kernel⟩

/-- `demo` with the registers of a copy of 16 FP32 elements from scratch to cluster memory; `f` bit 26 asks for MLDS T1 after it. -/
def copying (f : Nat) : State :=
  put demo [.ce 0 (BitVec.ofNat 64 (8 + f * 2 ^ 26 + 9 * 2 ^ 33)), .ce 2 1, .ce 4 4, .ce 12 4, .ce 20 16,
    .ce 29 (BitVec.ofNat 64 (((encode (.mlds 0 1 62)).headD 0) % 2 ^ 31 + ((encode (.mlds 0 1 62)).getD 1 0) * 2 ^ 32)),
    .x 3 64, .x 4 128]

def copyPlanOf (f : Nat) : CopyPlan :=
  { m := copyMode (BitVec.ofNat 64 (8 + f * 2 ^ 26 + 9 * 2 ^ 33)), box := [16], src := .chip (demo.scratchOf 1 0),
    dst := .chip (demo.clusterOf 1), sdims := [4], ddims := [4], sbase := 64, dbase := 128, sscale := none, dscale := none, sfmt := 9, dfmt := 9,
    fillWord := 0 }

theorem copying_passes (f : Nat) (h : f = 0 ∨ f = 1) : CopyPasses (copying f) (copying f) ((List.range 32).map (copying f).ctx.ceAt) 3 4
    none none (copyPlanOf f).src (copyPlanOf f).dst 0 0 (copyPlanOf f) := by
  have hs : chipSpan (copyPlanOf f).sources = some (64, 128) ∧ chipSpan (copyPlanOf f).targets = some (128, 192) := by
    rcases h with rfl | rfl <;> decide +kernel
  rcases h with rfl | rfl <;>
  exact ⟨rfl, by decide +kernel, ⟨by decide +kernel, by decide +kernel⟩, (fun _ ht => nomatch ht), by decide +kernel, by decide +kernel,
    by decide +kernel, by decide +kernel, ⟨_, rfl, rfl⟩, ⟨(fun _ ht => nomatch ht), (fun _ ht => nomatch ht)⟩, by decide +kernel,
    (fun reg lo hi hr => by
      rcases hr with ⟨h1, h2⟩ | ⟨h1, h2⟩
      · rw [hs.1] at h2; cases h1; cases h2; decide +kernel
      · rw [hs.2] at h2; cases h1; cases h2; decide +kernel), by decide +kernel, by decide +kernel⟩

/-- 128 copies under way: no place left. -/
def crowded : List Op := (List.range 128).map fun k => ⟨k, 1, 32, 0, some 5, 0, .copy ⟨[], 0, 0, 0, 0, [], none, 0⟩, false, false, [], [], []⟩

theorem witness_CopyIssues :
    let s := copying 1
    let tt := s.copyTouches s.me (copyPlanOf 1)
    (∀ f, (f = 0 ∨ f = 1) → CopyPasses (copying f) (copying f) ((List.range 32).map (copying f).ctx.ceAt) 3 4 none none
      (copyPlanOf f).src (copyPlanOf f).dst 0 0 (copyPlanOf f)) ∧
    ((copying 0).canRun .eBoth 0 ∧ (copying 0).readable 3 ∧ (copying 0).readable 4 ∧ (copying 0).drawsLive 0 ∧ (copying 0).tagRoom 63 1 ∧
      (copying 0).placesTaken 0 < copyPlacesOf 0 ∧ (copyPlanOf 0).m.follow = false) ∧
    (let u : State := { copying 0 with ops := crowded }; copyPlacesOf 0 ≤ u.placesTaken 0 ∧ u.tagRoom 63 1) ∧
    (s.canRun .eBoth 0 ∧ (copyPlanOf 1).m.follow = true ∧ followOf (s.ctx.ceAt 29) = some ⟨.mlds 0 1 62, 62, [1]⟩ ∧ s.ops = [] ∧
      s.raceEngine (onChip tt.1 ++ [⟨.tile s.me 1, 0, 511, 0⟩]) (onChip tt.2) = .ok () ∧ s.tagRoom 63 2 ∧ s.tagRoom 62 2) :=
  ⟨copying_passes, ⟨canRun_of (by decide +kernel), readable_of (by decide +kernel), readable_of (by decide +kernel), .inl rfl,
    by unfold State.tagRoom; decide +kernel, by decide +kernel, by decide +kernel⟩, ⟨by decide +kernel, by unfold State.tagRoom; decide +kernel⟩,
    canRun_of (by decide +kernel), by decide +kernel, by decide +kernel, by decide +kernel, by decide +kernel,
    by unfold State.tagRoom; decide +kernel, by unfold State.tagRoom; decide +kernel⟩

/-- The 64 bytes of a window descriptor of one tile, readable and writable (02 R51). -/
def descr (fmt : Nat) (tl ext : List Nat) : List Byte :=
  natLe 8 (fmt * 2 ^ 56) ++ natLe 8 (ext.length + 0x70 + ((tl.mapIdx fun k t => t * 2 ^ (8 + 4 * k))).sum) ++
    ((List.range 8).flatMap fun k => natLe 4 (ext.getD k 0)) ++ natLe 8 1 ++ natLe 8 1

/-- Windows 1 to 5: route, table, log, rows of FP32, bytes of records. -/
def wired (s : State) : State :=
  (s.setPaddock 0 { s.paddockAt 0 with winMax := 6, cells := [(7, 2)] }).store 64
    (descr 7 [7, 7] [4, 16] ++ descr 7 [14] [8] ++ descr 7 [7, 7] [4, 8] ++ descr 9 [7, 7] [4, 16] ++ descr 3 [0] [65536])

/-- `s` with a control block at 256 of scratch, its address in X3, and X4. -/
def blocked (s : State) (bs : List Byte) (v : Word) : State := (put s [.x 3 256, .x 4 v]).store ((s.slotRegion false).base + 256) bs

/-- The control block of `blocked`. -/
def blk (s : State) : List Byte := memRead s.mem ((s.slotRegion false).base + 256) 64

theorem block_of {s : State} (h : amGet s.ctx.unready (physX s.ctx.rrb 3) = none ∧ (s.xval 3).toInt = (256 : Nat) ∧
    256 + 64 ≤ (s.slotRegion false).size ∧ s.raceCore [(s.slotRegion false).touch 256 64] [] = .ok () ∧ s.sound = true) :
    s.blockAt 3 256 (blk s) := ⟨readable_of h.1, h.2.1, by decide, h.2.2.1, rfl, h.2.2.2.1, h.2.2.2.2⟩

/-- YMERGE's block at 8, at the last 64 bytes, 64 bytes on, and below 0. -/
theorem witness_ControlBlockFaults :
    blockWord (.ymerge 0 1 3 5) = some (.eMain, 0, 3) ∧ ((tiled 8).canRun .eMain 0 ∧ (tiled 8).readable 3 ∧ ((tiled 8).xval 3).toInt % 64 ≠ 0) ∧
    (let p := ((tiled 253888).xval 3).toInt; p % 64 = 0 ∧ p + 64 = (((tiled 253888).slotRegion false).size : Int)) ∧
    (let p := ((put demo [.x 3 253952]).xval 3).toInt; p % 64 = 0 ∧ ((demo.slotRegion false).size : Int) < p + 64) ∧
    (let p := ((put demo [.x 3 0xFFFFFFFFFFFFFFC0]).xval 3).toInt; p % 64 = 0 ∧ p < 0) :=
  ⟨rfl, ⟨(tiled_free _ (by simp)).2.2.2.2.1, (tiled_free _ (by simp)).2.2.2.2.2.2.2, by decide +kernel⟩, by decide +kernel⟩

/-- YRETIRE of the record at 0 of window 5. -/
def yoked : State := blocked (wired demo) (natLe 2 0 ++ natLe 2 0 ++ natLe 2 0 ++ natLe 2 5) 0

/-- A yoke command of context `cid` under way. -/
def yokeOp (id cid : Nat) : Op := ⟨id, 1, cid, 0, some 5, 0, .yoke ⟨.retire, [], []⟩, false, false, [], [], []⟩

theorem witness_YokeWords :
    (yokeWord 0 (.yretire 0 3 63) = some (0, .retire, 0, 3, 63) ∧ yoked.canRun .eMain 0 ∧ yoked.blockAt 3 256 (blk yoked) ∧
      yoked.yokeChecks .retire (yoked.ctx.vAt 0) (blk yoked) = .ok [] ∧ yoked.tagRoom 63 1) ∧
    (yoked.yokeBusy yoked.me = false ∧ (yoked.yokeQueue (spanOf yoked.ctx.core)).length < 64) ∧
    (({ yoked with ops := [yokeOp 9 32] } : State).yokeBusy yoked.me = true) ∧
    (let s : State := { yoked with yokes := [(spanOf yoked.ctx.core, List.range 64)] };
      s.yokeBusy s.me = false ∧ 64 ≤ (s.yokeQueue (spanOf s.ctx.core)).length) :=
  ⟨⟨rfl, canRun_of (by decide +kernel), block_of (by decide +kernel), by decide +kernel, by unfold State.tagRoom; decide +kernel⟩,
    by decide +kernel⟩

/-- TSPAWN of a record of one block. -/
def spawning (n : Word) (bs : List Byte) : State := blocked demo bs n

def spawnRecord : List Byte := [0, 0, 0, 0, 1, 0, 0, 0, 0, 0, 0, 0, 0, 0, 1]

/-- A record that delegates rows 0 to 3 of window 5 to read. -/
def delegating : List Byte := [0, 0, 0, 0, 1, 0, 0, 1, 0, 0, 0, 0, 0, 0, 1] ++ List.replicate 17 0 ++ natLe 8 53253 ++ natLe 4 0 ++ natLe 4 3

/-- `s` with 769 spawned tasks of paddock 0 in its queue. -/
def flooded (s : State) : State :=
  { s with tasks := s.tasks ++ (List.range 769).map fun k => (k + 2, { s.task with tid := k + 2, parent := some 1, state := .queued }) }

/-- `demo` of a graph's instance 3 with X3 and X4. -/
def graphed (i : Option Nat) (c k : Word) : State :=
  let s := put demo [.x 3 c, .x 4 k]
  s.putTask { s.task with origin := match i with | some n => .node n 0 | none => s.task.origin }

theorem graphed_ready (i : Option Nat) (c k : Word) (hi : i = none ∨ i = some 3) (hc : c = 0 ∨ c = 4095 ∨ c = 4096) (hk : k = 0 ∨ k = 1 ∨ k = 65535 ∨ k = 65536) :
    (graphed i c k).canRun .eMain 0 ∧ (graphed i c k).readable 3 ∧ (graphed i c k).readable 4 := by
  rcases hi with rfl | rfl <;> rcases hc with rfl | rfl | rfl <;> rcases hk with rfl | rfl | rfl | rfl <;>
    exact ⟨canRun_of (by decide +kernel), readable_of (by decide +kernel), readable_of (by decide +kernel)⟩

theorem witness_SpawnAndGraphWords :
    (∀ n, (n = 1 ∨ n = 256 ∨ n = 257) → (spawning n spawnRecord).canRun .eMain 0 ∧ (spawning n spawnRecord).readable 4 ∧
      (spawning n spawnRecord).blockAt 3 256 (blk (spawning n spawnRecord))) ∧
    (let s := spawning 256 spawnRecord;
      let r := parseDescr (memRead s.mem ((s.slotRegion false).base + 256) 64);
      let u := s.commitOrder;
      256 + 64 ≤ (s.slotRegion false).size ∧ r.ok = true ∧ (s.xval 4).toNat = 256 ∧ u.spawnDims r = .ok [] ∧
        (u.taskOf u.task.p r u.task.code u.task.origin).leases = [] ∧ u.spawnQueue u.task.p + 256 ≤ 1024 ∧
        s.raceCore [(s.slotRegion false).touch 256 64] [] = .ok ()) ∧
    (let s := spawning 1 delegating;
      let r := parseDescr (memRead s.mem ((s.slotRegion false).base + 256) 64);
      let u := s.commitOrder;
      (s.canRun .eMain 0 ∧ s.readable 4 ∧ s.blockAt 3 256 (blk s)) ∧ r.ok = true ∧ u.spawnDims r = .ok [] ∧
        ((u.taskOf u.task.p r u.task.code u.task.origin).leases.any fun l => l.deleg && !delegationOk u.task.leases l) = true) ∧
    (let s := flooded (spawning 256 spawnRecord);
      (s.canRun .eMain 0 ∧ s.readable 4 ∧ s.blockAt 3 256 (blk s)) ∧ s.commitOrder.spawnQueue s.commitOrder.task.p = 769) ∧
    ((spawning 1 spawnRecord).xval 4 = 1 ∧ ∀ e ∈ (spawning 1 spawnRecord).tasks, e.2.parent ≠ some (spawning 1 spawnRecord).task.tid) ∧
    (let s := spawning 0 [];
      (parseDescr (memRead s.mem ((s.slotRegion false).base + 256) 64)).ok = false) ∧
    ((graphed (some 3) 4095 65535).canRun .eMain 0 ∧ (graphed (some 3) 4095 65535).readable 3 ∧ (graphed (some 3) 4095 65535).readable 4 ∧
      (graphed (some 3) 4095 65535).task.instance_ = some 3 ∧ (graphed (some 3) 4095 65535).fencePasses 1 = true) ∧
    (graphed none 0 1).task.instance_ = none ∧ 4096 ≤ ((graphed (some 3) 4096 1).xval 3).toNat ∧ ((graphed (some 3) 0 0).xval 4).toNat = 0 ∧
    65535 < ((graphed (some 3) 0 65536).xval 4).toNat := by
  refine ⟨fun n hn => ?_, by decide +kernel,
    ⟨⟨canRun_of (by decide +kernel), readable_of (by decide +kernel), block_of (by decide +kernel)⟩, by decide +kernel⟩,
    ⟨⟨canRun_of (by decide +kernel), readable_of (by decide +kernel), block_of (by decide +kernel)⟩, by decide +kernel⟩,
    by decide +kernel, by decide +kernel,
    ⟨canRun_of (by decide +kernel), readable_of (by decide +kernel), readable_of (by decide +kernel), by decide +kernel⟩, by decide +kernel⟩
  rcases hn with rfl | rfl | rfl <;> exact ⟨canRun_of (by decide +kernel), readable_of (by decide +kernel), block_of (by decide +kernel)⟩

/-- DSEND of four tokens of eight routes each, from window 4. -/
def sending : State := blocked (wired demo) ([4, 0, 1, 0, 2, 0, 3, 0, 0, 0, 0, 0, 4, 0, 0, 0, 8]) 0

/-- The same from queue 7, whose slab has the four rows. -/
def sendingSlabs : State :=
  blocked (wired (slabbed [⟨9, 4, 1, [[1], [2], [3], [4]], false⟩])) ([0, 0, 1, 0, 2, 0, 3, 0, 0, 0, 0, 0, 4, 0, 0, 0, 8, 0, 15, 0, 1]) 0

/-- DCOMB of the same rows into window 4. -/
def combining : State := blocked (wired demo) ([3, 0, 1, 0, 2, 0, 4, 0, 0, 0, 0, 0, 4, 0, 0, 0, 8, 0, 1, 9]) 0

/-- Window `n` of paddock 0. -/
def winOf (s : State) (n : Nat) : WinDesc := (s.window 0 n).getD ⟨0, 0, 0, 0, 0, 0, false, false, false, [], none, [], 0, 0, 0⟩

theorem routes_of {s : State} (h : s.task.p = 0 ∧ (∀ n, n < 3 → s.window 0 (1 + n) = some (winOf s (1 + n))) ∧
    (winOf s 1).rank = 2 ∧ (winOf s 2).rank = 1 ∧ (winOf s 3).rank = 2 ∧ (winOf s 1).fmt = 7 ∧ (winOf s 2).fmt = 7 ∧ (winOf s 3).fmt = 7 ∧
    (winOf s 1).ext = [4, 16] ∧ (winOf s 2).ext = [8] ∧ (winOf s 3).ext = [4, 8]) :
    RouteWindows s (winOf s 1) (winOf s 2) (winOf s 3) 1 2 3 0 4 8 := by
  obtain ⟨hp, hw, h1, h2, h3, h4, h5, h6, h7, h8, h9⟩ := h
  refine ⟨?_, ⟨h1, h2, h3⟩, ⟨h4, h5, h6⟩, ?_, ?_, ?_, by decide⟩
  · rw [hp]; exact ⟨hw 0 (by decide), hw 1 (by decide), hw 2 (by decide)⟩
  · unfold ndest; rw [h8]; decide
  · rw [h7, h9]; decide
  · rw [h7, h9]; decide

/-- DRECV on cell 65,535, which has a frame, on cell 0, which has none, and with bit 63 for hand-offs. -/
def receiving (c n : Word) : State := put (wired demo) [.x 3 c, .x 4 n]

theorem receiving_ready (c : Word) (h : c = 65535 ∨ c = 0 ∨ c = 0x8000000000000000) :
    (receiving c 65535).canRun .eMain 0 ∧ (receiving c 65535).readable 3 ∧ (receiving c 65535).readable 4 ∧ (receiving c 65535).tagRoom 63 65535 := by
  rcases h with rfl | rfl | rfl <;> exact ⟨canRun_of (by decide +kernel), readable_of (by decide +kernel), readable_of (by decide +kernel),
    by unfold State.tagRoom; decide +kernel⟩

theorem witness_DispatchWords :
    (let s := sending; let b := blk s;
      (s.canRun .eMain 0 ∧ s.blockAt 3 256 b ∧ s.tagRoom 63 1) ∧ RouteWindows s (winOf s 1) (winOf s 2) (winOf s 3) 1 2 3 0 4 8 ∧
      (fieldAt b 18 1 < 16 ∧ zeroBytes b 19 19 = true ∧ zeroBytes b 22 63 = true ∧ fieldAt b 2 2 = 1 ∧ fieldAt b 4 2 = 2 ∧ fieldAt b 6 2 = 3 ∧
        sendOrg b = 0 ∧ sendT b = 4 ∧ sendK b = 8 ∧ sendQueued b = false ∧ s.window s.task.p (fieldAt b 0 2) = some (winOf s 4) ∧
        (winOf s 4).rank = 2 ∧ tokenFmt (winOf s 4).fmt = true ∧ (winOf s 4).geom = 0 ∧ (winOf s 4).compressed = false ∧
        sendOrg b + sendT b ≤ (winOf s 4).ext.getD 0 0)) ∧
    (let s := sendingSlabs; let b := blk s;
      (s.canRun .eMain 0 ∧ s.blockAt 3 256 b) ∧ RouteWindows s (winOf s 1) (winOf s 2) (winOf s 3) 1 2 3 0 4 8 ∧
      sendQueued b = true ∧ s.sendSlabs b = .ok [⟨9, 4, 1, [[1], [2], [3], [4]], false⟩] ∧
        sendQueue b < (s.coreAt s.ctx.core).arr.queues.length) ∧
    (∀ c, (c = 65535 ∨ c = 0 ∨ c = 0x8000000000000000) → (receiving c 65535).canRun .eMain 0 ∧ (receiving c 65535).readable 3 ∧
      (receiving c 65535).readable 4 ∧ (receiving c 65535).tagRoom 63 65535) ∧
    ((receiving 65535 0).cellAddr 0 65535 ≠ none ∧ (receiving 65535 0).waitsOf 0 < 256 ∧ (receiving 0 0).cellAddr 0 0 = none ∧
      ((receiving 0x8000000000000000 65535).xval 3).toNat = 2 ^ 63) ∧
    (let s := combining; let b := blk s;
      (s.canRun .eMain 0 ∧ s.blockAt 3 256 b ∧ s.tagRoom 63 1) ∧ RouteWindows s (winOf s 1) (winOf s 2) (winOf s 3) 1 2 3 0 4 8 ∧
      (zeroBytes b 24 63 = true ∧ combFlags b ≤ 1 ∧ isFloat (combFmt b) = true ∧ fieldAt b 2 2 = 1 ∧ fieldAt b 4 2 = 2 ∧ fieldAt b 0 2 = 3 ∧
        sendOrg b = 0 ∧ sendT b = 4 ∧ sendK b = 8 ∧ s.window s.task.p (fieldAt b 6 2) = some (winOf s 4) ∧ (winOf s 4).rank = 2 ∧
        (winOf s 4).fmt = combFmt b ∧ combOrg b + sendT b ≤ (winOf s 4).ext.getD 0 0)) :=
  ⟨⟨⟨canRun_of (by decide +kernel), block_of (by decide +kernel), by unfold State.tagRoom; decide +kernel⟩, routes_of (by decide +kernel),
      by decide +kernel⟩,
   ⟨⟨canRun_of (by decide +kernel), block_of (by decide +kernel)⟩, routes_of (by decide +kernel), by decide +kernel⟩,
   receiving_ready, by decide +kernel,
   ⟨⟨canRun_of (by decide +kernel), block_of (by decide +kernel), by unfold State.tagRoom; decide +kernel⟩, routes_of (by decide +kernel),
      by decide +kernel⟩⟩

theorem fabric_ready (w : Word) (h : w = 15 ∨ w = 16 ∨ w = 0x1FFFFFFFF ∨ w = 0x80000000000) :
    (tiled w).canRun .eMain 0 ∧ (tiled w).readable 3 ∧ (tiled w).tilesFree [1] ∧ (tiled w).tileReady 1 true 0x4900000000004002 ∧
    (tiled w).tagRoom 63 1 := by
  rcases h with rfl | rfl | rfl | rfl <;>
    exact ⟨canRun_of (by decide +kernel), readable_of (by decide +kernel), ⟨by decide +kernel, by decide +kernel⟩,
      by constructor <;> decide +kernel, by unfold State.tagRoom; decide +kernel⟩

theorem witness_FabricWords :
    (∀ w, (w = 15 ∨ w = 16 ∨ w = 0x1FFFFFFFF ∨ w = 0x80000000000) →
      (tiled w).canRun .eMain 0 ∧ (tiled w).readable 3 ∧ (tiled w).tilesFree [1] ∧ (tiled w).tileReady 1 true 0x4900000000004002 ∧
      (tiled w).tagRoom 63 1) ∧
    ((tiled 15).xval 3).toNat < 16 ∧ 16 ≤ ((tiled 16).xval 3).toNat ∧ ((tiled 0x1FFFFFFFF).xval 3).toNat < 2 ^ 33 ∧
    2 ^ 43 ≤ ((tiled 0x80000000000).xval 3).toNat ∧
    (tiled 15).raceEngine [] [(layOf 0x4900000000004002).touch (tiled 15).me 1] = .ok () ∧
    (tiled 0x1FFFFFFFF).raceEngine [(layOf 0x4900000000004002).touch (tiled 15).me 1] [] = .ok () :=
  ⟨fabric_ready, by decide +kernel⟩

/-- A gather of window 4 by the index 0 at 0 into 64; none; a pool of one; a hand-off of 64 bytes, alone and with 16 under way. -/
theorem witness_LookupWords :
    (let s := blocked (wired lk) [4, 0, 0, 0, 0, 0, 0, 0, 64] 1; let b := blk s; let reg := s.slotRegion false;
      (s.canRun .eLookup 0 ∧ s.blockAt 3 256 b ∧ s.tagRoom 63 1 ∧ s.readable 4) ∧
      ((s.xval 4).toNat = 1 ∧ zeroBytes b 2 3 = true ∧ zeroBytes b 12 63 = true ∧ s.window s.task.p (gathWin b) = some (winOf s 4) ∧
        (winOf s 4).rank = 2 ∧ (winOf s 4).compressed = false ∧ gathIdx b % 4 = 0 ∧ gathDst b % 64 = 0 ∧ gathIdx b + 4 * 1 ≤ reg.size ∧
        gathDst b + 1 * gathPitch (winOf s 4) ≤ reg.size ∧ (winOf s 4).ext.getD 1 0 * storageBits (winOf s 4).fmt % 8 = 0 ∧
        s.raceEngine (areaTouch reg 0 4) (areaTouch reg 64 (gathPitch (winOf s 4))) = .ok ())) ∧
    (let s := blocked (wired lk) [4, 0, 0, 0, 0, 0, 0, 0, 64] 0; (s.xval 4).toNat = 0) ∧
    (let s := blocked lk [0, 0, 0, 0, 64, 0, 0, 0, 128, 0, 0, 0, 132, 0, 0, 0, 64, 0, 0, 0, 1, 0, 1, 0, 9] 0; let b := blk s;
      let reg := s.slotRegion false;
      (s.canRun .eLookup 0 ∧ s.blockAt 3 256 b) ∧
      (zeroBytes b 25 63 = true ∧ isFloat (poolFmt b) = true ∧ poolG b = 1 ∧ poolH b = 1 ∧ poolRows b % 64 = 0 ∧ poolPitch b % 64 = 0 ∧
        poolOut b % 64 = 0 ∧ poolInv b % 4 = 0 ∧ poolPtr b % 4 = 0 ∧ poolPtr b + 4 * (poolG b + 1) ≤ reg.size ∧
        poolAreasFit s.mem reg b = true ∧ poolOut b + poolG b * poolOutPitch b ≤ reg.size ∧
        s.raceEngine ((poolReads s.mem reg b).flatMap fun r => areaTouch reg r.1 r.2) (areaTouch reg (poolOut b) (poolG b * poolOutPitch b)) =
          .ok ())) ∧
    (let s := blocked lk [1, 0, 0, 0, 31, 63, 0, 0, 0, 0, 0, 0, 0, 0, 0, 0, 64] 0; let b := blk s; let reg := s.slotRegion false;
      (s.canRun .eLookup 0 ∧ s.blockAt 3 256 b) ∧
      (zeroBytes b 3 3 = true ∧ handMember b < 32 ∧ handTag b < 64 ∧ zeroBytes b 6 7 = true ∧ zeroBytes b 20 63 = true ∧ handTo b % 64 = 0 ∧
        handFrom b % 64 = 0 ∧ handBytes b = 64 ∧ handFrom b + handBytes b ≤ reg.size ∧ s.handOffs s.ctx.core < 16 ∧
        s.raceEngine (areaTouch reg 0 64) [] = .ok () ∧
        16 ≤ ({ s with ops := (List.range 16).map fun k => ⟨k, 1, 32, 384, some 5, 0, .lhand [] [] false, false, false, [], [], []⟩ } : State).handOffs
          s.ctx.core)) ∧
    (let s := put lk [.x 3 64, .x 4 5]; let reg := s.slotRegion false;
      (s.canRun .eLookup 0 ∧ s.readable 3 ∧ s.readable 4 ∧ s.sound = true ∧ s.memCanonical) ∧
      ((s.xval 3).toNat = 64 ∧ (s.xval 4).toNat = 5 ∧ 64 + 12 * 5 ≤ reg.size ∧
        s.raceCore (areaTouch reg 64 20) (areaTouch reg 84 40) = .ok ())) ∧
    (let s := put lk [.x 3 (BitVec.ofNat 64 ((lk.slotRegion false).size - 56)), .x 4 5];
      (s.slotRegion false).size < (s.xval 3).toNat + 12 * 5 ∧ (s.xval 3).toNat % 4 = 0) :=
  ⟨⟨⟨canRun_of (by decide +kernel), block_of (by decide +kernel), by unfold State.tagRoom; decide +kernel, readable_of (by decide +kernel)⟩,
      by decide +kernel⟩, by decide +kernel,
   ⟨⟨canRun_of (by decide +kernel), block_of (by decide +kernel)⟩, by decide +kernel⟩,
   ⟨⟨canRun_of (by decide +kernel), block_of (by decide +kernel)⟩, by decide +kernel⟩,
   ⟨⟨canRun_of (by decide +kernel), readable_of (by decide +kernel), readable_of (by decide +kernel), by decide +kernel,
     by unfold State.memCanonical; decide +kernel⟩, by decide +kernel⟩, by decide +kernel⟩

/-- The task of `demo`, in the state given. -/
def tasked (f : Task → Task) : State := { team f with ops := [] }

/-- No context in the slots of core 0, which paddock 0 may use. -/
def vacant (f : Task → Task) : State :=
  let s := (tasked f).setCore 0 { (tasked f).coreAt 0 with slots := List.replicate 4 none }
  { s.setPaddock 0 { s.paddockAt 0 with clmask := 1, en := true, offer := 1 } with ready := 2 ^ 642 - 1 }

/-- A core whose current slot is empty; a team stuck for 11 cycles with a limit of 10; one that has moved, with and without a hard
pre-emption; one woken, its slots free, or taken by a team that has tried a bundle, or free and it has waited four rounds; a round with
no task, and with one that waits for a place. -/
theorem witness_SchedulerSteps :
    (let s := cored fun c => { c with slots := [none, none, none, some 32], due := true };
      s.switchDue 0 = true ∧ 2 < 4 ∧ s.slotReady 0 (((s.coreAt 0).cur + 1 + 2) % 4) = true ∧
        ∀ j < 2, s.slotReady 0 (((s.coreAt 0).cur + 1 + j) % 4) = false) ∧
    (let s0 := tasked fun t => { t with stableWait := 10, tags := [(0, 1)] };
      let s : State := { s0.setCtx 32 { s0.ctx with block := some ⟨.tagsAll 1, 5⟩ } with cycle := 16 };
      s.findTask 0 s.task.seq (fun t => t.state == .running && t.xform.isNone && t.lookup.isNone && t.debugHalt.isNone) = some s.task ∧
        s.teamBlocked s.task = some 5 ∧ s.task.stableWait.toNat % 2 ^ 32 = 10 ∧ 10 < s.cycle - 5 ∧
        ∀ c ∈ s.task.cores, (s.coreAt c).arr.mq = []) ∧
    (let s := tasked fun t => { t with state := .stabling (some 9) };
      s.findTask 0 s.task.seq (fun t => match t.state with | .stabling _ => true | _ => false) = some s.task ∧ s.hardDue 1 = false ∧
        ({ s with preempts := [⟨1, true, none⟩] } : State).hardDue 1 = true) ∧
    (let s := vacant fun t => { t with state := .stabled (some 9) };
      s.findTask 0 (s.taskAt 1).seq (fun _ => true) = some (s.taskAt 1) ∧ (s.taskAt 1).state = .stabled (some 9) ∧
        s.live (s.taskAt 1) = true ∧ s.earlierWake (s.taskAt 1) 9 = false ∧ s.occupants (s.taskAt 1) = []) ∧
    (let s0 := vacant fun t => { t with state := .stabled (some 9) };
      let s1 := s0.setCore 0 { s0.coreAt 0 with slots := [some 64, none, none, none] };
      let s := (s1.setTask 2 { demo.task with tid := 2, seq := demo.task.seq + 1, fresh := false }).setCtx 64 { demo.ctx with tid := 2 };
      s.findTask 0 (s.taskAt 1).seq (fun _ => true) = some (s.taskAt 1) ∧ (s.taskAt 1).state = .stabled (some 9) ∧
        s.live (s.taskAt 1) = true ∧ s.earlierWake (s.taskAt 1) 9 = false ∧ s.occupants (s.taskAt 1) = [2] ∧
        (s.taskAt 2).state = .running ∧ (s.taskAt 2).debugHalt = none ∧ (s.taskAt 2).fresh = false) ∧
    (let s := vacant fun t => { t with state := .stabled (some 9), rounds := 4 };
      (s.tasks.any fun e => s.overdue e.2) = true) ∧
    (demo.wokenTeams = [] ∧ demo.placeOrder = [] ∧ (demo.tasks.all fun e => !demo.overdue e.2) = true) ∧
    (let s := vacant fun t => { t with state := .queued, cores := [] };
      s.tasks = [((s.taskAt 1).tid, s.taskAt 1)] ∧ (s.taskAt 1).state = .queued ∧ (s.taskAt 1).fits = true ∧ (s.taskAt 1).hold = false ∧
        (s.taskAt 1).lookup = none ∧ (s.paddockAt (s.taskAt 1).p).en = true ∧ (s.offerClusters.noteHolders.siteFor (s.taskAt 1)).isSome = true) ∧
    demo.task.args.length ≤ 12 := by
  decide +kernel

/-- Cluster 0 shared by paddock 0, whose quantum is over, and paddock 1, which has a task to place. -/
def shared : State :=
  let d := { demo.paddockAt 0 with clmask := 1, en := true, offer := 1, evac := List.range 16 }
  { (demo.setPaddock 0 d).setPaddock 1 { d with evac := [] } with
    tasks := [(1, demo.task), (2, { demo.task with tid := 2, p := 1, state := .queued, cores := [] })],
    holders := [(0, (0, 0))], ready := 2 ^ 642 - 1, cycle := d.tsquant * 1700 }

theorem witness_PreemptionAndTaskEnd :
    (let s := tasked fun t => { t with state := .halting false };
      s.findTask 0 s.task.seq (fun t => match t.state with | .halting _ => true | _ => false) = some s.task ∧ s.shadowRoom s.task = true) ∧
    (let s0 := tasked fun t => { t with state := .halting false, size := 32 };
      let s (n : Nat) : State := s0.setPaddock 0 { s0.paddockAt 0 with evac := List.range n };
      s0.shadowRoom s0.task = false ∧ s0.hardDue 1 = false ∧ 0 < s0.evacFrames s0.task ∧
        (s (s0.evacFrames s0.task - 1)).freeEvac 0 < s0.evacFrames s0.task ∧ (s (s0.evacFrames s0.task)).freeEvac 0 = s0.evacFrames s0.task) ∧
    (let s0 := tasked fun t => { t with state := .hard false };
      let s := s0.setPaddock 0 { s0.paddockAt 0 with evac := List.range (s0.evacFrames s0.task) };
      s.findTask 0 s.task.seq (fun t => t.state == .hard false) = some s.task ∧ s.task.p = 0 ∧
        s.evacFrames s.task = (s.paddockAt 0).evac.length) ∧
    (let s := vacant fun t => { t with state := .soft };
      s.findTask 0 (s.taskAt 1).seq (fun t => !t.hold) = some (s.taskAt 1) ∧ s.softSite (s.taskAt 1) = true) ∧
    (let s := vacant fun t => { t with state := .hard true, cores := [] };
      s.findTask 0 (s.taskAt 1).seq (fun t => !t.hold) = some (s.taskAt 1) ∧ (s.taskAt 1).state = .hard true ∧
        (s.clusterSite (s.taskAt 1) 0).isSome = true) ∧
    (let s := shared;
      amGet s.holders 0 = some (0, 0) ∧ s.holderOf 0 = some 0 ∧ (s.paddockAt 0).tsquant * 1700 ≤ s.cycle - 0 ∧
        (((s.teamsOn 0 0).filter fun t => !s.hardDue t.tid).map s.evacFrames).sum ≤ s.freeEvac 0 ∧
        ((s.sharersAfter 0 0).find? fun x =>
          ({ s.ifCleared 0 0 with holders := amSet (s.ifCleared 0 0).holders 0 (x, 0) } : State).couldPlace x 0) = some 1) ∧
    (let s := demo.setCtx 32 { demo.ctx with ended := true };
      s.findTask 0 s.task.seq (fun t => t.started && !(s.ops.any fun o => o.tid == t.tid) && !s.sendsLeft t.tid &&
        t.cids.all fun cid => (s.ctxAt cid).ended) = some s.task ∧ s.task.xform = none) ∧
    (let s0 := tasked fun t => { t with xform := some ⟨[], 0, 0, 0, 0, [], none, 0⟩, tagFaults := [⟨3, 0, 0, { cls := .CP, num := 1 }⟩] };
      let s := s0.setCtx 32 { s0.ctx with ended := true };
      (s.findTask 0 s.task.seq (fun t => t.started && !(s.ops.any fun o => o.tid == t.tid) && !s.sendsLeft t.tid &&
        t.cids.all fun cid => (s.ctxAt cid).ended) = some s.task) ∧ s.task.xform.isSome = true) ∧
    (let s := tasked fun t => { t with state := .ending, fault := some { cls := .FM, num := 5 } };
      s.findTask 0 s.task.seq (fun t => t.state == .ending) = some s.task ∧ s.ops = [] ∧ s.sends = []) ∧
    (let s := tasked fun t => { t with debugHalt := some (0, 0) };
      s.findTask 0 s.task.seq (fun t => t.debugHalt.isSome) = some s.task) := by decide +kernel

/-- A frame under transfer. -/
def moving (k : XferKind) : State := { demo with xfers := [(2, ⟨k, [7]⟩)] }

/-- A task waits for a lease of a window whose one frame is offloaded; frame 7 is spare. -/
def calling : State :=
  let s := (wired demo).setPaddock 0 { (wired demo).paddockAt 0 with spare := [7] }
  { s.putTask { s.task with state := .waitLeases, leases := [⟨5, [(0, 65535)], true, true, false, false⟩] } with
    frames := amSet s.frames 2 { s.frameAt 2 with state := 2, hostAddr := 65536 } }

theorem witness_LeaseAndFrameSteps :
    (let s := tasked fun t => { t with state := .waitLeases, leases := [⟨9, [(0, 0)], true, false, false, false⟩] };
      s.findTask 0 s.task.seq (fun t => t.state == .waitLeases && (!t.leases.all (s.leaseOk 0) || !s.leaseBlocked t)) = some s.task ∧
        ∃ l ∈ s.task.leases, s.leaseOk 0 l = false) ∧
    (let s := tasked fun t => { t with state := .waitLeases, leases := [] };
      s.findTask 0 s.task.seq (fun t => t.state == .waitLeases && (!t.leases.all (s.leaseOk 0) || !s.leaseBlocked t)) = some s.task ∧
        (∀ l ∈ s.task.leases, s.leaseOk 0 l = true) ∧ (∀ l ∈ s.task.leases, s.leaseFrames 0 l = []) ∧ s.task.xform = none) ∧
    (let s := calling;
      s.findTask 0 s.task.seq (fun t => t.state == .waitLeases && (!t.leases.all (s.leaseOk 0) || !s.leaseBlocked t)) = some s.task ∧
        (∀ l ∈ s.task.leases, s.leaseOk 0 l = true) ∧ s.task.leases.flatMap (s.leaseFrames 0) = [2] ∧ (s.frameAt 2).owner = 0 ∧
        (s.frameAt 2).state = 2 ∧ amGet s.xfers 2 = none ∧ s.spareFrame 0 = some 7) ∧
    ((∀ k, (k = .back 9 ∨ k = .migrate 9 ∨ k = .offload 0) → (moving k).sound = true ∧ Memory.wf (moving k).mem = true) ∧
      [7].Nodup ∧ ∀ e ∈ demo.paddocks, e.2.nq.en = false) ∧
    (amGet (moving (.back 9)).xfers 2 = some ⟨.back 9, [7]⟩ ∧ amGet (moving (.migrate 9)).xfers 2 = some ⟨.migrate 9, [7]⟩ ∧
      amGet (moving (.offload 0)).xfers 2 = some ⟨.offload 0, [7]⟩) ∧
    (∀ e ∈ demo.frames, e.2.state = 1 → e.2.owner = 0 → (demo.paddockAt 0).nq.thresh = 0 ∨ e.2.cnt < (demo.paddockAt 0).nq.thresh) :=
  ⟨by decide +kernel, by decide +kernel, by decide +kernel,
    ⟨by rintro k (rfl | rfl | rfl) <;> decide +kernel, by decide, by decide +kernel⟩, by decide +kernel⟩

/-- One operation under way, number 3. -/
def under (s : State) (k : OpKind) (started : Bool) : State := { s with ops := [⟨3, 1, 32, 0, some 5, 0, k, started, false, [], [], []⟩], nextOp := 4 }

/-- It is the oldest of the array's queue; `a` changes the array. -/
def matrixed (a : ArrayState → ArrayState) (c : MCmd) (g : MProg) (started : Bool) : State :=
  let s := put demo [.tw 1 0x4900000000004002]
  under (s.setCore 0 { s.coreAt 0 with arr := a { (s.coreAt 0).arr with mq := [3], cur := ⟨0x4900000000004002, [], [], false⟩ } }) (.matrix c g) started

def fresh : MProg := ⟨0, false, [], none, false⟩

def mulBy (d : Option DrainSpec) : MulSpec := ⟨1, 0x4900000000004002, .zero, 0, 0, none, 0, 0, 2, d⟩

def mulOf (d : Option DrainSpec) : MCmd := .mmul (mulBy d)

/-- A drain to queue 7 in FP32. -/
def toQueue : DrainSpec := ⟨7, 9, 0, 0, []⟩

/-- A load, an exchange, multiplies and drains of two rows by two columns, with a flip that their check meets and without; slabs to push. -/
theorem witness_MatrixArraySteps :
    (∀ b, (let s := matrixed id (.mlds 1 0x4900000000004002) fresh b;
      (s.coreAt 0).arr.mq = [3] ∧ s.opAt 3 = some ⟨3, 1, 32, 0, some 5, 0, .matrix (.mlds 1 0x4900000000004002) fresh, b, false, [], [], []⟩ ∧
        s.sound = true)) ∧
    (matrixed id .mswap fresh false).sound = true ∧
    ((matrixed id (mulOf none) fresh false).sound = true ∧ ((matrixed id (mulOf none) fresh false).opAt 3).any (!·.started) = true) ∧
    (let s := matrixed id (mulOf none) fresh true;
      s.sound = true ∧ (s.chunkSums 32 (s.coreAt 0).arr (mulBy none) (128 * 0) (min 128 (2 - 128 * 0))).toOption.isSome = true) ∧
    (∀ f : List (Nat × Nat × Nat), (f = [] ∨ f = [(0, 0, 42)]) →
      let s := matrixed (fun a => { a with flips := f }) (mulOf (some toQueue)) fresh true;
      s.sound = true ∧ (s.coreAt 0).arr.mq = [3] ∧ (s.chunkSums 32 (s.coreAt 0).arr (mulBy (some toQueue)) (128 * 0)
        (min 128 (2 - 128 * 0))).toOption.any (fun k => k.acc.length == 2 && (k.acc.all fun r => r.length == 2) &&
          (checkRows false (flipAcc k.acc (f.filter fun e => e.1 < 2 && e.2.1 < 2)) k.sat k.chk).1 == !f.isEmpty) = true) ∧
    (∀ f : List (Nat × Nat × Nat), (f = [] ∨ f = [(0, 0, 42)]) → ∀ b,
      let s := matrixed (fun a => { a with acc := [[0, 0], [0, 0]], chk := [(0, 0), (0, 0)], flips := f }) (.mdrain toQueue) fresh b;
      let a := (s.coreAt 0).arr;
      s.sound = true ∧ a.mq = [3] ∧ a.acc.length = 2 ∧ (a.acc.headD []).length = 2 ∧ (∀ r ∈ a.acc, r.length = 2) ∧
        (checkRows a.accInt (flipAcc a.acc a.flips) a.accSat a.chk).1 = !f.isEmpty) ∧
    (let g : MProg := { fresh with slabs := [slabTwo], waitSince := some 1 };
      let room := matrixed id (mulOf (some toQueue)) g true;
      let full := matrixed (fun a => { a with queues := a.queues.set 7 ⟨List.replicate 16 slabTwo, false, false, false, 0⟩ })
        (mulOf (some toQueue)) g true;
      ((room.coreAt 0).arr.queues.getD 7 .empty).slabs.length < 16 ∧ 7 < (room.coreAt 0).arr.queues.length ∧
        16 ≤ ((full.coreAt 0).arr.queues.getD 7 .empty).slabs.length ∧ 65536 < ({ full with cycle := 65538 } : State).cycle - 1) ∧
    (let s0 := matrixed id .mswap fresh false;
      let f : Op := ⟨4, 1, 32, 0, some 6, 0, .matrix (.mlds 1 0x4900000000004002) fresh, false, true, [], [], []⟩;
      let s : State := { s0.setCore 0 { s0.coreAt 0 with held := [4] } with ops := s0.ops ++ [f] };
      (s.coreAt 0).held = [f.id] ∧ s.opAt 4 = some f ∧ (∃ k ∈ (s.coreAt 0).slots, k = some 32) ∧ (s.ctxAt 32).tid = f.tid ∧
        (s.taskAt f.tid).state = .running ∧ (s.coreAt 0).arr.mq.length < 16 ∧
        (checkType true 0x4900000000004002).toOption.isSome = true ∧ (s.checkMlds false 0x4900000000004002).toOption.isSome = true) :=
  ⟨by decide +kernel, by decide +kernel, by decide +kernel, by decide +kernel, by rintro f (rfl | rfl) <;> decide +kernel,
    by rintro f (rfl | rfl) b <;> revert b <;> decide +kernel, by decide +kernel, by decide +kernel⟩

/-- The copy of `copying`, under way. -/
def copyCmd : CopyCmd := ⟨(List.range 32).map (copying 0).ctx.ceAt, 64, 128, 0, 0, [], none, 0⟩

/-- Operation 3, which meets the mark of operation 2, or meets none. -/
def metBy (s : State) (o : Op) (met : Bool) : State :=
  { s with
    ops := (if met then [⟨2, o.tid, o.cid, o.core, some 5, 0, .dflush 0, false, false, [writeMark ⟨.frame none 1, 0, 255, 4⟩], [], []⟩]
      else []) ++ [{ o with id := 3, marks := [writeMark ⟨.frame none 1, 0, 0, 4⟩] }], nextOp := 4 }

/-- The operation of `metBy`. -/
def metOp (o : Op) : Op := { o with id := 3, marks := [writeMark ⟨.frame none 1, 0, 0, 4⟩] }

theorem metBy_clash (s : State) (o : Op) : (metBy s o true).clash (metOp o) :=
  ⟨_, List.mem_cons_self, rfl, Nat.lt_succ_self 2, _, List.mem_singleton_self _, _, List.mem_singleton_self _, ⟨_, _, rfl⟩, rfl,
    Nat.zero_le _, Nat.zero_le _, .inl rfl, fun h => nomatch h.1⟩

theorem metBy_free (s : State) (o : Op) : ¬ (metBy s o false).clash (metOp o) := by
  rintro ⟨x, hx, -, hlt, -⟩
  have : x = metOp o := by simpa [metBy, metOp] using hx
  subst this
  exact absurd hlt (Nat.lt_irrefl _)

theorem noNotices_of {s : State} (h : (s.paddocks.all fun e => !e.2.nq.en) = true) : s.noNotices := by
  intro p
  simp only [State.paddockAt]
  cases hg : amGet s.paddocks p with
  | none => rfl
  | some d =>
    have : ∀ m : AMap Paddock, amGet m p = some d → (m.all fun e => !e.2.nq.en) = true → d.nq.en = false := by
      intro m
      induction m with
      | nil => intro h; simp [amGet] at h
      | cons e m ih =>
        intro hm ha
        simp only [List.all_cons, Bool.and_eq_true, Bool.not_eq_true'] at ha
        simp only [amGet] at hm
        split at hm
        · cases hm; exact ha.1
        · exact ih hm ha.2
    simpa using this _ hg h

/-- The entry of the tile table through which an element is found lies outside the stretches of bits. -/
def tableApart (s : State) (d : WinDesc) (bs : List (Nat × Nat)) (cs : List Nat) : Bool :=
  (s.ttAddr d (d.locate cs).1).any fun a => (List.range 8).all fun k =>
    bs.all fun b => !(decide (b.1 / 8 ≤ a + k) && decide (a + k < (b.1 + b.2 + 7) / 8))

theorem memNat_steady {s : State} {bs : List (Nat × Nat)} {a n : Nat} {m : Memory}
    (h : ((List.range n).all fun k => bs.all fun b => !(decide (b.1 / 8 ≤ a + k) && decide (a + k < (b.1 + b.2 + 7) / 8))) = true)
    (hm : ∀ c, ¬ within bs c → memGet m c = memGet s.mem c) : memNat m a n = memNat s.mem a n := by
  rw [memNat, memNat, memRead_congr]
  intro c h1 h2
  refine hm c fun ⟨b, hb, h3, h4⟩ => ?_
  have h5 := List.all_eq_true.1 (List.all_eq_true.1 h (c - a) (List.mem_range.2 (by omega))) b hb
  rw [Nat.add_sub_cancel' h1] at h5
  simp [h3, h4] at h5

theorem winAt_steady {s : State} {d : WinDesc} {bs : List (Nat × Nat)} {cs : List Nat} (h : tableApart s d bs cs = true) :
    s.steady bs fun u => u.winAt d cs := by
  intro m hm
  simp only [tableApart, Option.any_eq_true] at h
  obtain ⟨a, ha, h⟩ := h
  have ha' : ({ s with mem := m } : State).ttAddr d (d.locate cs).1 = some a := ha
  have h1 : ({ s with mem := m } : State).tileFrame d (d.locate cs).1 = s.tileFrame d (d.locate cs).1 := by
    simp only [State.tileFrame, ha, ha', memNat_steady h hm]
  simp only [State.winAt, h1]
  rfl

theorem spot_steady {s : State} {d : WinDesc} {bs : List (Nat × Nat)} {cs : List Nat} (h : tableApart s d bs cs = true) :
    s.steady bs fun u => u.spot d cs := by
  intro m hm
  simp only [State.spot, State.placeBits, winAt_steady h m hm]

/-- What a context reads at an element of a window that is not compressed does not depend on the stretches. -/
def readApart (s : State) (d : WinDesc) (bs : List (Nat × Nat)) (cs : List Nat) : Bool :=
  !d.compressed && tableApart s d bs cs && (match s.winAt d cs with
    | .ok (_, base, byte, _) => (List.range ((storageBits d.fmt + 7) / 8)).all fun k =>
        bs.all fun b => !(decide (b.1 / 8 ≤ base + byte + k) && decide (base + byte + k < (b.1 + b.2 + 7) / 8))
    | .error _ => true)

theorem winRead_steady {s : State} {d : WinDesc} {bs : List (Nat × Nat)} {cs : List Nat} (h : readApart s d bs cs = true) :
    s.steady bs fun u => u.winRead d cs := by
  intro m hm
  simp only [readApart, Bool.and_eq_true, Bool.not_eq_true'] at h
  obtain ⟨⟨hc, ht⟩, hr⟩ := h
  simp only [State.winRead, winAt_steady ht m hm]
  cases hw : s.winAt d cs with
  | error e => rfl
  | ok x =>
    obtain ⟨tile, base, byte, bit⟩ := x
    rw [hw] at hr
    simp [hc, bind, Except.bind, memNat_steady hr hm]

/-- The elements at the coordinates of a window stand somewhere, and where they stand is not among the stretches. -/
def standFast (s : State) (d : WinDesc) (bs : List (Nat × Nat)) (css : List (List Nat)) : Bool :=
  css.all fun cs => !(s.spot d cs).isEmpty && tableApart s d bs cs

def setApart (bs : List (Nat × Nat)) : Bool := decide (bs.Pairwise fun x y => x.1 + x.2 ≤ y.1 ∨ y.1 + y.2 ≤ x.1)

/-- The elements at the coordinates of a window can be written (see writable_of). -/
def canWrite (s : State) (d : WinDesc) (css : List (List Nat)) : Bool :=
  let bs := css.flatMap (s.spot d)
  !d.compressed && standFast s d bs css && setApart bs

theorem writable_of {s : State} {d : WinDesc} {css : List (List Nat)} (h : canWrite s d css = true) : s.writable d css := by
  simp only [canWrite, standFast, setApart, Bool.and_eq_true, Bool.not_eq_true', List.all_eq_true, decide_eq_true_eq] at h
  obtain ⟨⟨h1, h2⟩, h3⟩ := h
  exact ⟨h1, fun cs hc he => absurd (h2 cs hc).1 (by simp [he]), h3, fun cs hc => spot_steady (h2 cs hc).2⟩

/-- A yoke command at the head of its span's queue, its task with a lease of window 5. -/
def yoking (started : Bool) : State :=
  let s := yoked.putTask { yoked.task with leases := [⟨5, [(0, 65535)], true, true, false, false⟩] }
  { under s (.yoke ⟨.retire, blk yoked, []⟩) started with yokes := [(0, [3])] }

/-- The block of a command on two rows of window 4, or of window 6 as keys, with its map at 8,192 of window 5 and its sizes in window 2. -/
def twoRows : List Byte :=
  natLe 2 6 ++ natLe 2 4 ++ natLe 2 4 ++ natLe 2 5 ++ natLe 2 0 ++ natLe 2 2 ++ natLe 2 2 ++ natLe 2 0 ++ natLe 4 0 ++ natLe 4 0 ++ natLe 4 2 ++
    natLe 4 8192 ++ natLe 24 0

/-- Such a command under way, the record of a map of two tokens into one in place. -/
def yokingBy (k : YokeKind) : State :=
  let s := wired demo
  let s := s.store 64 (memRead s.mem 64 320 ++ descr 11 [7, 8] [4, 16])
  let s := { s.setPaddock 0 { s.paddockAt 0 with winMax := 7 } with poison := [] }
  let s := s.store (hbmAddr 2 8192) (natLe 4 1 ++ natLe 2 2 ++ natLe 2 1)
  { under s (.yoke ⟨k, twoRows, [1, 1]⟩) true with yokes := [(0, [3])] }

/-- The state in which that command's effect is computed. -/
def yokeLands (k : YokeKind) : State :=
  let u := (yokingBy k).actAs 606 1
  let c : YokeCmd := ⟨k, twoRows, [1, 1]⟩
  u.l2Touch false false (u.yokeLines 0 c false ++ (u.yokeBoxes 0 c true).flatMap fun b => u.coordLines b.d (partCoords b.d b.coords))

/-- The command of TTRANS from T1 to T15. -/
def transposing : TileCmd := ⟨.transpose, 15, 1, mkType 2 9 0 0 0 [16, 2], 0x4900000000004002, 0, []⟩

/-- The other forms on a 2 × 16 tile, to T15 and T14. -/
def forming : List TileCmd :=
  let f := mkType 2 9 0 0 0 [2, 16]
  [⟨.reshape, 15, 1, mkType 2 9 0 0 0 [4, 8], f, 0, []⟩, ⟨.cast, 15, 1, mkType 2 7 0 0 0 [2, 16], f, 0, []⟩,
    ⟨.convert 0 0, 15, 1, mkType 2 11 0 0 0 [2, 16], f, 0, []⟩, ⟨.quantise 0, 15, 1, mkType 2 2 0 1 0 [2, 16], f, 0, []⟩,
    ⟨.dequantise 0 0, 15, 1, f, mkType 2 2 0 1 0 [2, 16], 0, []⟩]

/-- TCMPR of it, its metadata to T14. -/
def pruning : TileCmd := ⟨.prune 14, 15, 1, mkType 2 2 0 0 16 [2, 8], mkType 2 2 0 0 0 [2, 16], mkType 2 0x10 0 0 0 [2, 2], []⟩

/-- A gather of window 4 by one index, its task with a lease of the window. -/
def gathering (started : Bool) : State :=
  let s := blocked (wired lk) [4, 0, 0, 0, 0, 0, 0, 0, 64] 1
  let s := s.putTask { s.task with leases := [⟨4, [(0, 3), (0, 15)], true, false, false, false⟩] }
  { s with ops := [⟨3, s.ctx.tid, s.me, s.ctx.core, some 5, 0, .lgath (blk s) 1, started, false, [], [], []⟩], nextOp := 4 }

def poolBlock : List Byte := [0, 0, 0, 0, 64, 0, 0, 0, 128, 0, 0, 0, 132, 0, 0, 0, 64, 0, 0, 0, 1, 0, 1, 0, 9]

/-- The operation of a state that has one. -/
def theOp (s : State) : Op := s.ops.headD (yokeOp 0 0)

theorem plain_of_chip {s : State} {p : CopyPlan} {r : Region} (hd : p.dst = .chip r) (hb : p.box ≠ []) (hr : p.m.raw = false)
    (hk : p.m.kind ≠ 6) (h : (p.writes.flatMap (s.placeBits false p.dst)).Pairwise fun x y => x.1 + x.2 ≤ y.1 ∨ y.1 + y.2 ≤ x.1) :
    s.plainCopy p where
  shape := ⟨hb, hr, by rw [hd]; rfl, fun h => absurd h hk⟩
  dst := by rw [hd]; trivial
  apart := h
  steady := fun x _ m _ => by
    obtain ⟨x, n⟩ := x
    rw [hd]
    cases x <;> rfl

/-- The copy of `copying` is a plain one. -/
theorem witness_PlainCopy : ((under (copying 0) (.copy copyCmd) true).actFor (theOp (under (copying 0) (.copy copyCmd) true))).plainCopy
    (copyPlanOf 0) :=
  plain_of_chip (r := demo.clusterOf 1) rfl (by decide +kernel) (by decide +kernel) (by decide +kernel) (by decide +kernel)

/-- What starts: a copy, a gather and a yoke command, that meet a mark and that do not, and a tile-engine form and a pool. -/
theorem witness_EngineStarts :
    (∀ b, (metBy (copying 0) (theOp (under (copying 0) (.copy copyCmd) false)) b).opAt 3 =
        some (metOp (theOp (under (copying 0) (.copy copyCmd) false))) ∧
      (metBy (copying 0) (theOp (under (copying 0) (.copy copyCmd) false)) b).mayStartOp
        (metOp (theOp (under (copying 0) (.copy copyCmd) false))) = true) ∧
    (let s := under (tiled 64) (.tile transposing) false;
      (s.opAt 3).any s.mayStartOp = true) ∧
    (let s := under lk (.lpool poolBlock 0) false;
      (s.opAt 3).any s.mayStartOp = true) ∧
    (∀ b, let s := metBy (gathering false) (theOp (gathering false)) b;
      let o := metOp (theOp (gathering false));
      let c := blk (gathering false);
      s.opAt 3 = some o ∧ s.mayStartOp o = true ∧ o.kind = .lgath c 1 ∧ s.window (s.taskAt o.tid).p (gathWin c) = some (winOf s 4) ∧
        (∀ i ∈ s.gathList o c 1, i < (winOf s 4).ext.getD 0 0) ∧
        s.leaseCheck o.tid (winOf s 4) true false (gathCoords (winOf s 4) (s.gathList o c 1)) = none) ∧
    (∀ b, let s := metBy (yoking false) (theOp (yoking false)) b;
      s.headYoke 0 = some (metOp (theOp (yoking false)), ⟨.retire, blk yoked, []⟩) ∧ (s.taskAt 1).state ≠ .ending ∧
        ((s.actAs 606 1).yokeStart 0 1 ⟨.retire, blk yoked, []⟩).toOption.isSome = true) ∧
    ∀ s o, (metBy s o true).clash (metOp o) ∧ ¬ (metBy s o false).clash (metOp o) :=
  ⟨by decide +kernel, by decide +kernel, by decide +kernel, by decide +kernel, by decide +kernel,
    fun s o => ⟨metBy_clash s o, metBy_free s o⟩⟩

theorem forming_typed : ∀ c ∈ forming, c.typed := by
  simp only [forming, List.mem_cons, List.not_mem_nil, or_false]
  rintro c (rfl | rfl | rfl | rfl | rfl) <;> exact ⟨by decide +kernel, by decide +kernel, by decide +kernel, by decide +kernel, by decide +kernel⟩

/-- Tile-engine forms complete. -/
theorem witness_TileFormCompletions :
    (let s := under (tiled 64) (.tile transposing) true;
      (s.opAt 3).any (fun o => (s.taskAt o.tid).served && s.letsWrite o) = true ∧ s.sound = true ∧ Memory.wf s.mem = true) ∧
    transposing.typed ∧ (∀ c ∈ forming, c.typed ∧ c.draws = []) ∧ pruning.typed :=
  ⟨by decide +kernel, ⟨by decide +kernel, by decide +kernel, by decide +kernel, by decide +kernel, by decide +kernel⟩,
    fun c h => ⟨forming_typed c h, by revert c; decide +kernel⟩,
    ⟨by decide +kernel, by decide +kernel, ⟨by decide +kernel, by decide +kernel, by decide +kernel, by decide +kernel, 2, 16, by decide +kernel⟩⟩⟩

/-- A copy completes, and sends no notice. -/
theorem witness_CopyCompletes :
    let s := under (copying 0) (.copy copyCmd) true
    let o := theOp s
    let u := s.actFor o
    let p := copyPlanOf 0
    s.opAt 3 = some o ∧ (s.taskAt 1).served = true ∧ s.sound = true ∧ s.letsWrite o = true ∧ Memory.wf s.mem = true ∧
      s.copyPlan 0 1 32 0 copyCmd = some p ∧ u.l2Touch false false (u.copyIns p) = u ∧ (u.copyEffect p [] 0).toOption.isSome = true ∧
      (s.paddocks.all fun e => !e.2.nq.en) = true := by decide +kernel

/-- A pool completes. -/
theorem witness_PoolCompletes :
    let s := under lk (.lpool poolBlock 0) true
    (s.opAt 3).any (fun o => (poolGroups s.mem (s.lookupRegion o) poolBlock).isSome && s.letsWrite o && (s.taskAt o.tid).served) = true ∧
      s.sound = true ∧ Memory.wf s.mem = true := by decide +kernel

/-- A gather completes, and sends no notice. -/
theorem witness_GatherCompletes :
    let s := gathering true
    let o := theOp s
    let u := s.actFor o
    let d := winOf s 4
    let b := blk s
    let base := (s.lookupRegion o).base + gathDst b
    let idx := s.gathList o b 1
    let rows := (List.range 1).map fun i => (8 * (base + i * gathPitch d), 8 * rowBytes (d.ext.getD 1 0) (storageBits d.fmt))
    let v := u.l2Touch false false (linesOf ((u.lookupRegion o).base + gathIdx b) (4 * 1) ++ u.coordLines d (gathCoords d idx))
    s.opAt 3 = some o ∧ (s.taskAt o.tid).served = true ∧ s.sound = true ∧ s.letsWrite o = true ∧ Memory.wf s.mem = true ∧
      s.window (s.taskAt o.tid).p (gathWin b) = some d ∧
      (∀ i ∈ idx, ∀ c < d.ext.getD 1 0, (v.winRead d [i, c]).toOption.isSome = true ∧ readApart v d rows [i, c] = true) ∧
      (s.paddocks.all fun e => !e.2.nq.en) = true := by decide +kernel

/-- A YRETIRE completes: the header that it writes can be written. -/
theorem witness_YokeRetireCompletes :
    let s := yoking true
    let u := s.actAs 606 1
    let c : YokeCmd := ⟨.retire, blk yoked, []⟩
    let v := u.l2Touch false false (u.yokeLines 0 c false ++
      (u.yokeBoxes 0 c true).flatMap fun b => u.coordLines b.d (partCoords b.d b.coords))
    (s.headYoke 0).any (fun x => x.1.started && s.letsWrite x.1) = true ∧ s.sound = true ∧ Memory.wf s.mem = true ∧
      (s.paddocks.all fun e => !e.2.nq.en) = true ∧
      (v.yokeEffect 0 c).toOption.isSome = true ∧ v.yokeWindow 0 (blk yoked) 3 = some (winOf v 5) ∧ (winOf v 5).fmt = 3 ∧
      canWrite v (winOf v 5) [[yokeMap (blk yoked) + 12]] = true := by decide +kernel

/-- A YMERGE completes: its record and its rows can be read, its output rows be written. -/
theorem witness_YokeMergeCompletes :
    let v := yokeLands .merge
    let d := winOf v 4
    (v.yokeEffect 0 ⟨.merge, twoRows, [1, 1]⟩).toOption.isSome = true ∧ v.yokeWindow 0 twoRows 1 = some d ∧
      v.yokeWindow 0 twoRows 2 = some d ∧ v.yokeRecord 0 ⟨.merge, twoRows, [1, 1]⟩ = .ok (some ⟨1, 2, 1, 0, 0, [0, 0]⟩) ∧
      (∀ i < 2, (v.getRow d (yokeForg twoRows + i) 16).toOption.isSome = true) ∧
      canWrite v d (rowSpots (yokeOorg twoRows) 1 16) = true := by decide +kernel

/-- A YUNMERGE completes. -/
theorem witness_YokeUnmergeCompletes :
    let v := yokeLands .unmerge
    let d := winOf v 4
    (v.yokeEffect 0 ⟨.unmerge, twoRows, [1, 1]⟩).toOption.isSome = true ∧ v.yokeWindow 0 twoRows 1 = some d ∧
      v.yokeRecord 0 ⟨.unmerge, twoRows, [1, 1]⟩ = .ok (some ⟨1, 2, 1, 0, 0, [0, 0]⟩) ∧
      (∀ i < 1, (v.getRow d (yokeForg twoRows + i) 16).toOption.isSome = true) ∧
      canWrite v d (rowSpots (yokeOorg twoRows) 2 16) = true := by decide +kernel

/-- The state of a matching of two rows of keys, with its command and the places it writes. -/
def matching : State := yokeLands (.match_ 1)
def matchCmd : YokeCmd := ⟨.match_ 1, twoRows, [1, 1]⟩
def matchRecord : List (List Nat) := (List.range (recordBytes 2)).map fun k => [yokeMap twoRows + k]
def matchSizes : List (List Nat) := (List.range (2 - 1)).map fun k => [yokeSizes twoRows + k]
def matchBits : List (Nat × Nat) := matchRecord.flatMap (matching.spot (winOf matching 5)) ++ matchSizes.flatMap (matching.spot (winOf matching 2))

theorem witness_YokeMatchCompletes :
    ((matching.yokeEffect 0 matchCmd).toOption.isSome = true ∧ matching.yokeRecord 0 matchCmd = .ok none) ∧
    (matching.yokeWindow 0 twoRows 0 = some (winOf matching 6) ∧ matching.yokeWindow 0 twoRows 3 = some (winOf matching 5) ∧
      matching.yokeWindow 0 twoRows 5 = some (winOf matching 2)) ∧
    ((winOf matching 5).fmt = 3 ∧ (winOf matching 2).fmt = 7 ∧ (winOf matching 5).compressed = false ∧ (winOf matching 2).compressed = false) ∧
    (∀ i < 2, (matching.getRow (winOf matching 6) (yokeKorg twoRows + i) 16).toOption.isSome = true) :=
  ⟨by decide +kernel, by decide +kernel, by decide +kernel, by decide +kernel⟩

theorem witness_YokeMatchPlaces :
    (standFast matching (winOf matching 5) matchBits matchRecord && standFast matching (winOf matching 2) matchBits matchSizes &&
      setApart matchBits) = true := by
  decide +kernel

/-- A counter operation on cell 65,535, done or not, local or remote. -/
def counting (module : Option Nat) (done : Bool) (reply : Option Word) : State :=
  under (celled 65535) (.counter ⟨module, 65535, .add 1, 0, none, done, reply⟩) true

/-- An operation on graph counter 0 of instance 3: read, or lowered by the amount. -/
def lowering (amount : Option Nat) (i : GraphInst) : State :=
  { under (graphed (some 3) 0 1) (.graph ⟨3, 0, amount, false, none⟩) true with insts := [(3, i)] }

/-- `lowering` in a paddock that holds the instance's graph, of one node. -/
def dispatching : State :=
  let s := lowering (some 1) ⟨0, 0, 1, 1, [1], [], [], false⟩
  s.setPaddock 0 { s.paddockAt 0 with graphs := [(1, [(1, ⟨[⟨[], [], []⟩], false⟩)])] }

/-- A route of batch 7, the second of two of operation 3. -/
def sendOne : Send := ⟨3, 7, (0, 0, 0), some ⟨0, true, 4, 4, 0, 16, 1, 2⟩, [1], 9, false, 3, 0, 0⟩

/-- DRECV on cell 65,535 with the bound given. -/
def waitingFor (b : Word) : State := under (celled 65535) (.drecv 65535 none b) true

/-- A receive of T1 on channel 15. -/
def awaiting : State := under (tiled 64) (.frecv 1 0x4900000000004002 15) true

/-- A hand-off of 64 bytes to the team with TASKSEQ `n` of paddock 0, tag 63. -/
def handing (n : Byte) (tags : AMap Nat) : State :=
  under (team fun t => { t with tags := tags }) (.lhand [n, 0, 0, 0, 0, 63, 0, 0, 0, 0, 0, 0, 0, 0, 0, 0, 64] [] false) true

/-- A counter operation performs, or is held back, and its reply arrives; a graph counter is read, lowered to 4 and to 0. -/
theorem witness_CounterSteps :
    (let s := counting none false none; let o := theOp s;
      s.opAt 3 = some o ∧ s.heldBack o (OpKind.onCell none 65535) false = false ∧ (s.paddockAt 0).nq.en = false ∧ (s.cellAddr (s.taskAt o.tid).p 65535).isSome = true ∧
        s.sound = true ∧ Memory.wf s.mem = true ∧ (s.paddocks.all fun e => !e.2.nq.en) = true) ∧
    (let s := counting none false none;
      let first : Op := { yokeOp 2 32 with kind := .counter ⟨none, 65535, .add 1, 0, none, false, none⟩ };
      let held : State := { s with ops := first :: s.ops.map fun o => { o with before := [2] } };
      (held.opAt 3).any (fun o => held.heldBack o (OpKind.onCell none 65535) false) = true) ∧
    ((counting none true (some 1)).opAt 3).isSome = true ∧
    ((counting (some 2) false none).opAt 3).isSome = true ∧
    (∀ s ∈ [lowering none ⟨0, 0, 0, 0, [5], [], [], false⟩, lowering (some 1) ⟨0, 0, 0, 0, [0], [], [], false⟩,
        lowering (some 1) ⟨0, 0, 0, 0, [5, 1], [1], [], false⟩, dispatching],
      (s.opAt 3).any (fun o => !s.heldBack o (OpKind.onCounter 3 0) false) = true ∧ (amGet s.insts 3).isSome = true) ∧
    (GraphInst.due ⟨0, 0, 0, 0, [5, 1], [1], [], false⟩ = [] ∧ GraphInst.due ⟨0, 0, 1, 1, [1], [], [], false⟩ = [] ∧
      dispatching.graphVer 0 1 1 = some ⟨[⟨[], [], []⟩], false⟩) := by decide +kernel

theorem witness_MessageSteps :
    (let s : State := { demo with sends := [sendOne, sendOne], batches := [(7, ⟨32, [], [2], []⟩)] };
      s.sends = [sendOne, sendOne] ∧ s.sendsBefore (s.batchCid 7) 3 = false ∧
        ∀ y ∈ [sendOne], s.batchCid y.batch = s.batchCid sendOne.batch → sendOne.op ≤ y.op) ∧
    (let s := under demo (.dflush 7) true;
      s.sends = [] ∧ amGet s.batches 7 = none ∧ s.ops.length = 1 ∧
        (s.opAt 3).any (fun o => !s.heldBack o (fun _ => true) true) = true) ∧
    ((waitingFor 0).cellAddr ((waitingFor 0).taskAt 1).p 65535 = some (hbmAddr 2 65528) ∧
      (waitingFor 0).heldBack ((waitingFor 0).ops.headD (yokeOp 0 0)) (OpKind.onCell none 65535) false = false ∧
      memNat (waitingFor 0).mem (hbmAddr 2 65528) 8 = 0 ∧ memNat (waitingFor 1).mem (hbmAddr 2 65528) 8 < (1 : Word).toNat) ∧
    (let s := awaiting;
      s.bySeq 0 s.task.seq = some s.task ∧ 0 < s.task.size ∧ (s.waitingReceive (s.task.tid * 32 + 0) 15).isSome = true ∧ s.task.inbox = [] ∧
        s.task.takesIn = true ∧ s.landingMet 1 3 ((layOf 0x4900000000004002).touch 32 1) = none ∧ s.sound = true) ∧
    ((handing 9 []).bySeq 0 9 = none) ∧
    (let s := handing (BitVec.ofNat 8 demo.task.seq) [];
      s.bySeq 0 demo.task.seq = some s.task ∧ s.task.cores = [0] ∧ 1 ≤ s.task.size ∧ s.task.state = .running ∧ s.task.tagCount 0 63 = 0) ∧
    (let s := handing (BitVec.ofNat 8 demo.task.seq) [(63, 1)];
      s.task.tagCount 0 63 ≠ 0 ∧ 0 + 64 ≤ s.task.clusterSize ∧ s.sound = true ∧
        { s with ops := s.ops.filter (·.id != 3) }.landingMet 1 3 ((s.clusterOf 1).touch 0 64) = none) := by decide +kernel

/-- A record of a submission ring (20 R425): kind, window, buffer, handle, version. -/
def recordOf (k a len h v : Nat) : List Byte :=
  natLe 2 7 ++ [BitVec.ofNat 8 k, 0] ++ natLe 4 0 ++ natLe 8 0 ++ natLe 8 a ++ natLe 4 len ++ natLe 4 32 ++ natLe 4 h ++ natLe 2 v

/-- Ring 3 of paddock 0 has one record, its descriptor at 4,096 of host memory; lookup core 0 and a graph are paddock 0's. -/
def ringed (k len h v : Nat) : State :=
  let s := { (demo.store (hostAddr 0) (recordOf k 4096 len h v)).store (hostAddr 4096) spawnRecord with lookups := [(0, 0)] }
  let s := s.setPaddock 0 { s.paddockAt 0 with graphs := [(1, [(1, ⟨[⟨recordOf 1 4096 64 0 0, spawnRecord, []⟩], false⟩)])] }
  s.setQp 0 3 { QPair.reset with sqen := true, sqlog := 4, sqtail := 1 }

/-- A completion ring of 16 entries, 3 of which are not yet taken, an interrupt due. -/
def completing : State :=
  { demo.setQp 0 3 { QPair.reset with cqlog := 4, cqtail := 3, ien := true, ctime := 1, unsignalled := 1 } with cycle := 1700 }

theorem witness_RingSteps :
    (let r := completing.qpAt 0 3;
      (3 + 2 ^ r.cqlog - r.cqhead) % 2 ^ r.cqlog ≤ (r.cqtail + 2 ^ r.cqlog - r.cqhead) % 2 ^ r.cqlog ∧ r.held = [] ∧ r.ien = true ∧
        r.ctime ≠ 0 ∧ r.unsignalled ≠ 0 ∧ r.ctime * 1700 ≤ completing.cycle - r.firstAt) ∧
    (let s := ringed 7 0 0 0;
      ((List.range 4).map fun i => ((s.paddockAt 0).turn + i) % 4).find? (s.ringDue 0) = some 3 ∧ fieldAt (s.record 0 3) 2 1 = 7) ∧
    (∀ k ∈ [1, 2], let s := ringed k 64 0 0;
      ((List.range 4).map fun i => ((s.paddockAt 0).turn + i) % 4).find? (s.ringDue 0) = some 3 ∧ fieldAt (s.record 0 3) 2 1 = k ∧
        (s.fetched 0 3).recordReasons 0 false (s.record 0 3) = []) ∧
    (let s := ringed 3 320 0 0;
      fieldAt (s.record 0 3) 2 1 = 3 ∧ (s.fetched 0 3).recordReasons 0 false (s.record 0 3) = []) ∧
    (let s := ringed 1 63 0 0;
      ((s.fetched 0 3).recordReasons 0 false (s.record 0 3)).min? = some 3) ∧
    (let s := ringed 4 0 1 0; let b := s.record 0 3;
      fieldAt b 2 1 = 4 ∧ recordClear false b = true ∧ (s.fetched 0 3).namedVersion 0 (fieldAt b 32 4) (fieldAt b 36 2) true = some 1 ∧
        ((s.fetched 0 3).graphVer 0 (fieldAt b 32 4) 1).isSome = true) ∧
    (let s := ringed 4 0 2 0; let b := s.record 0 3;
      recordClear false b = true ∧ (s.fetched 0 3).namedVersion 0 (fieldAt b 32 4) (fieldAt b 36 2) true = none) ∧
    (let s := ringed 5 64 0 0; let b := s.record 0 3;
      fieldAt b 2 1 = 5 ∧ parseGraph ((s.fetched 0 3).hostBytes (fieldAt b 16 8) (fieldAt b 24 4)) = none) ∧
    (let s := ringed 6 0 1 1; let b := s.record 0 3;
      recordClear false b = true ∧ (s.fetched 0 3).namedVersion 0 (fieldAt b 32 4) (fieldAt b 36 2) false = some 1 ∧
        ((s.fetched 0 3).graphVer 0 (fieldAt b 32 4) 1).isSome = true) ∧
    (let s := ringed 6 0 1 2; let b := s.record 0 3;
      (s.fetched 0 3).namedVersion 0 (fieldAt b 32 4) (fieldAt b 36 2) false = none) := by decide +kernel

/-- A description of two nodes, the second after the first, their descriptors at 8,192 of host memory; a ring with a SEAL of it. -/
def described (prev : Nat) : List Byte :=
  let node (n : Nat) : List Byte := recordOf 1 8192 64 0 0 ++ natLe 2 0 ++ natLe 2 n ++ natLe 2 0 ++ natLe 4 320 ++ List.replicate 80 0
  natLe 2 2 ++ natLe 2 0 ++ natLe 4 prev ++ List.replicate 56 0 ++ node 1 ++ node 0 ++ natLe 2 1
def sealing (prev : Nat) : State :=
  ((ringed 5 322 0 0).store (hostAddr 4096) (described prev)).store (hostAddr 8192) spawnRecord

/-- Graph 1 of `ringed` is retired, an instance of its version 1 under way or none. -/
def retiring (busy : Bool) : State :=
  { ringed 6 0 1 1 with insts := if busy then [(3, ⟨0, 0, 1, 1, [5], [], [], false⟩)] else [] }

/-- A ring of 16 entries with room for one at place 15, or full. -/
def posting (head : Nat) : State :=
  demo.setQp 0 1 { QPair.reset with cqen := true, cqlog := 4, cqhead := head, cqtail := 15, phase := true, sqcq := 1 }

theorem witness_EntriesSealAndRetire :
    (∀ h ∈ [0, 1], let s := posting h; let r := s.qpAt 0 1;
      Memory.wf s.mem = true ∧ r.sqcq < (s.paddockAt 0).qps.length ∧ r.cqen = true ∧ r.held = [] ∧
        ((r.cqtail + 1) % 2 ^ r.cqlog = r.cqhead ↔ h = 0)) ∧
    (∀ x ∈ [(0, 2, 1), (1, 1, 2)], let s := sealing x.1; let b := s.record 0 3; let s1 := s.fetched 0 3;
      let d := s1.hostBytes (fieldAt b 16 8) (fieldAt b 24 4);
      fieldAt b 2 1 = 5 ∧ fieldAt d 4 4 = x.1 ∧ s1.recordReasons 0 false b = [] ∧ s1.bufferRead b = true ∧
        (parseGraph d).any (fun ns => ns.map (·.2) == [[1], []] && ns.all fun n => s1.recordReasons 0 true n.1 == []) = true ∧
        (x.1 = 0 → ∃ e ∈ (amGet (s1.paddockAt 0).graphs 1).getD [], e.2.nodes ≠ []) ∧
        (x.1 = 0 → (amGet (s1.paddockAt 0).graphs x.2.1).getD [] = []) ∧
        (x.1 ≠ 0 → ((amGet (s1.paddockAt 0).graphs x.2.1).getD []).map (·.1 + 1) = [x.2.2])) ∧
    (∀ busy, let s := retiring busy; let b := s.record 0 3; let s1 := s.fetched 0 3;
      fieldAt b 2 1 = 6 ∧ recordClear false b = true ∧ s1.namedVersion 0 (fieldAt b 32 4) (fieldAt b 36 2) false = some 1 ∧
        (s1.graphVer 0 (fieldAt b 32 4) (fieldAt b 36 2)).isSome = true ∧
        (busy = true ↔ ∃ e ∈ s.insts, e.2.p = 0 ∧ e.2.handle = 1 ∧ e.2.version = 1)) := by decide +kernel

/-- Frames 8 to 11 pinned by paddock 0, 12 offloaded, 13 under way, and one command on the control ring. -/
def commanding (op a b c d : Nat) : State :=
  let free := FrameEntry.free
  let s := { demo with
    frames := demo.frames ++ ((List.range 4).map fun k => (8 + k, { free with state := 1, pin := true, pframe := 8 + k })) ++
      [(12, { free with state := 2, hostAddr := 65536 }), (13, { free with state := 1, pframe := 13, moving := true })]
    ctl := ⟨0, 4, true, 0, 1⟩ }
  s.store (hostAddr 0) ([BitVec.ofNat 8 op] ++ natLe 7 0 ++ natLe 8 a ++ natLe 8 b ++ natLe 8 c ++ natLe 8 d)

/-- It is the command at the ring's head. -/
def heads (op a b c d : Nat) : Bool := (commanding op a b c d).ctlHead == some ⟨0, op, a, b, c, d⟩

theorem witness_ControlRingImmediate :
    (heads 0 0 0 0 0 = true ∧ heads 0x17 0 0 0 0 = true) ∧
    (heads 1 13 0 0 0 = true ∧ (commanding 1 13 0 0 0).frameLeased 2 = false ∧ ((commanding 1 13 0 0 0).frameAt 13).moving = true ∧
      (commanding 1 2 0x2001 0 0).badEntry 2 0x2001 = false) ∧
    (heads 2 0xFFFFFF 0 0 0 = true) ∧
    (heads 3 2 65472 4096 64 = true ∧ (commanding 3 2 65472 4096 64).frameSpan ⟨0, 3, 2, 65472, 4096, 64⟩ = true ∧
      (commanding 3 2 65472 4096 64).hostFails 4096 64 = false ∧ (commanding 3 2 65472 4096 64).sound = true) ∧
    (heads 5 0 8 0 0 = true ∧ ∀ k < 4, (commanding 5 0 8 0 0).pinnedBy 0 (8 + k) = true) ∧
    (heads 10 63 9437182 2 0 = true ∧ ∀ k < 2, (commanding 10 63 9437182 2 0).unusedFrame (9437182 + k) = true ∧
      ∀ x ∈ (commanding 10 63 9437182 2 0).paddocks, 9437182 + k ∉ x.2.spare) ∧
    (heads 11 0 7 8 0 = true ∧ (commanding 11 0 7 8 0).pinnedBy 0 8 = true) ∧
    (let s := commanding 12 0 8 4 0;
      heads 12 0 8 4 0 = true ∧ ∀ k < 4, 8 + k < 2 ^ 24 ∧ (s.frameAt (8 + k)).state = 1 ∧ (s.frameAt (8 + k)).owner = 0 ∧
        8 + k ∉ (s.paddockAt 0).evac ∧ ∀ x ∈ s.tasks, 8 + k ∉ x.2.evac) ∧
    (heads 17 47 63 0 0 = true ∧ ∀ x ∈ ((commanding 17 47 63 0 0).coreAt (384 + 47)).slots, x = none) ∧
    (heads 18 63 1 0 0 = true ∧ heads 19 0xFFFFFF 0 0 0 = true ∧ heads 20 63 1023 8191 0 = true ∧ heads 6 63 4095 0 0 = true) ∧
    Memory.wf (commanding 4 2 0 0 64).mem = true := by decide +kernel

theorem witness_ControlRingTransfersAndTasks :
    (heads 7 13 20 0 0 = true ∧ ((commanding 7 13 20 0 0).frameAt 13).moving = true) ∧
    (heads 7 2 9437183 0 0 = true ∧ ((commanding 7 2 0 0 0).frameAt 2).state = 1 ∧ (commanding 7 2 0 0 0).unusedFrame 9437183 = true) ∧
    (heads 8 8 65536 0 0 = true ∧ ((commanding 8 8 65536 0 0).frameAt 8).pin = true) ∧
    (let s := commanding 8 2 65536 0 0;
      (s.frameAt 2).pin = false ∧ (s.frameAt 2).moving = false ∧ s.frameLeased 2 = false ∧ s.poison = []) ∧
    (let s := commanding 9 12 20 0 0;
      heads 9 12 20 0 0 = true ∧ amGet s.xfers 12 = none ∧ (s.frameAt 12).state = 2 ∧ s.unusedFrame 20 = true ∧ (s.frameAt 2).state ≠ 2) ∧
    (heads 13 1 0 0 0 = true ∧ (commanding 13 1 0 0 0).taskNamed ⟨0, 13, 1, 0, 0, 0⟩ = none) ∧
    (let s := commanding 13 0 demo.task.seq 0 0;
      s.taskNamed ⟨0, 13, 0, demo.task.seq, 0, 0⟩ = some s.task ∧ s.task.state = .running ∧ s.task.lookup = none ∧ s.preempts = []) ∧
    (let s0 := commanding 16 0 demo.task.seq 0 4096; let s := s0.putTask { s0.task with debugHalt := some (0, 0) };
      s.taskNamed ⟨0, 16, 0, demo.task.seq, 0, 4096⟩ = some s.task ∧ s.task.debugHalt.isSome = true ∧ 0 < s.task.size ∧
        s.hostFails 4096 2240 = false) ∧
    ((commanding 21 0 4096 0 0).hostFails 0 32 = false ∧ (commanding 21 0 4096 0 0).hostFails 4096 8842 = false) ∧
    (heads 22 4096 4 0 0 = true ∧ (commanding 22 4096 4 0 0).verifyImage ((commanding 22 4096 4 0 0).hostBytes 4096 4) = none) := by
  decide +kernel

/-- Paddocks 1 to 4 enabled on cluster 0. -/
def crowd : State :=
  { demo with paddocks := (0, { demo.paddockAt 0 with clmask := 0, en := true }) ::
    (List.range 4).map fun k => (k + 1, { demo.paddockAt 0 with clmask := 1, en := true }) }

/-- Paddocks 1 and 3 hold clusters 0 and 1, the arrays of cluster 1 at point `pt`, at 1,201 W of a limit of 1,200. -/
def loaded (pt : Nat) : State :=
  let d := { demo.paddockAt 0 with en := true }
  { demo with
    paddocks := [(1, { d with clmask := 1, offer := 1 }), (3, { d with clmask := 2, offer := 2 })]
    power := { demo.power with plimit := 1200, samples := [1201], points := (List.range 8).map fun k => (392 + k, pt) } }

/-- `demo` whose run line 31 of core 0 holds V3 of the context in issue, changed. -/
def caching : State :=
  { cored fun k => { k with runs := [(31, ⟨some (demo.me, 3), true, 0, .operating⟩)] } with cycle := 5 }

/-- A 128-byte line of frame 2, which paddock 0 owns. -/
def l2Line : Nat := hbmAddr 2 0 / 128

/-- The slice of that line holds it, dirty. -/
def l2Holding : State := { demo with l2 := [(homeSlice (l2Line * 128), [⟨5, 3, l2Line, 0, true⟩])] }

/-- Paddock 0 with no way in any slice. -/
def wayless : State :=
  demo.setPaddock 0 { demo.paddockAt 0 with ways := (List.range 96).map fun k => (k, 0) }

theorem witness_RegistersAndPower :
    ((crowd.paddockAt 0).en = true ∧ crowd.crowded 0 1 = true ∧ crowd.crowded 0 2 = false ∧
      (∀ cl < 48, (crowd.paddockAt 0).clmask.getLsbD cl = true → (2 : BitVec 64).getLsbD cl = true)) ∧
    demo.ctl.en = false ∧ demo.power.plimit < ({ demo.power with samples := [2601] } : Power).now ∧ demo.topPoint 47 ≤ 5 ∧
    (∀ pt ∈ [1, 5], let s := loaded pt;
      s.power.plimit < s.power.now ∧ s.coresOf 3 = (List.range 8).map (8 + ·) ∧
        (∀ e ∈ [(1, 30), (3, 31), (5, 30)], s.overShare e.1 e.2 < s.overShare 3 31 ∨ (s.overShare e.1 e.2 = s.overShare 3 31 ∧ 3 ≤ e.1)) ∧
        ((∀ c ∈ s.coresOf 3, 5 ≤ s.point (384 + c)) ↔ pt = 5)) ∧
    (demo.power.now ≤ demo.power.plimit ∧ demo.power.low ≤ 100) ∧
    (demo.stepsOf 384 = 0 ∧ demo.power.emerg = false ∧ islandCluster 384 = some 0 ∧ demo.topPoint 0 ≤ 5) ∧
    (demo.stepsOf 1023 = 0 ∧ islandCluster 1023 = none) ∧ (islandCluster 815 = some 47 ∧ demo.clusterBusy 0 = true) ∧
    (({ demo with power := { demo.power with steps := [(384, 1)], points := [(384, 2)] } } : State).point 384 = 2) := by decide +kernel

/-- Paddock 0 waits at controller 0 with one slot of credit left, paddocks 3 and 63 having none; and paddock 0 with the cap on, of whose
last 1,023 slots 16 were its own. -/
def contended (spent : Nat) : State :=
  { demo.setPaddock 0 { demo.paddockAt 0 with hbmShare := 1, hbmCap := true } with arbs := [(0, ⟨[(0, 1)], 63, List.replicate spent 0⟩)] }

theorem witness_ArbitersAndLines :
    (let s := contended 15; let a := (amGet s.arbs 0).getD .fresh; (a.last + 1 + 0) % 64 = 0 ∧ s.credit 0 [0, 3, 63] 0 = 1 ∧
      s.credit 0 [0, 3, 63] 3 = 0 ∧ a.recent.count 0 < 16 * (s.paddockAt 0).hbmShare ∧ s.frameAtArb 0 0 2 = true) ∧
    (let s := contended 16; ¬ ((amGet s.arbs 0).getD .fresh).recent.count 0 < 16 * (s.paddockAt 0).hbmShare) ∧
    (∀ w ∈ [0, 63], demo.credit 24 [0, 63] w = (demo.paddockAt w).netShare ∧ 0 < (demo.paddockAt w).netShare) ∧
    (((lineId (.tile 15)).2 < cacheSize (lineId (.tile 15)).1) ∧ ((demo.coreAt 0).line true 15).holds = none) ∧
    ((caching.coreAt 0).line false 31 = ⟨some (caching.me, 3), true, 0, .operating⟩ ∧ ((caching.coreAt 0).line false 31).used < caching.cycle ∧
      (lineId (.run 31)).2 < cacheSize (lineId (.run 31)).1 ∧ Memory.wf caching.mem = true) ∧
    (demo.frameOfLine l2Line = some (2, 0) ∧ ((amGet demo.l2 (homeSlice (l2Line * 128))).getD []).find? (·.line == l2Line) = none ∧
      maskWays ((demo.paddockAt 0).wayMask (homeSlice (l2Line * 128))) ≠ []) ∧
    (l2Holding.frameOfLine l2Line = some (2, 0) ∧
      (((amGet l2Holding.l2 (homeSlice (l2Line * 128))).getD []).find? (·.line == l2Line)).isSome = true) ∧
    maskWays ((wayless.paddockAt 0).wayMask (homeSlice (l2Line * 128))) = [] := by decide +kernel

/-- BAR slot 0 of paddock 0's function maps the first tile of window 0. -/
def mapped : State := { demo with bars := [(barKey false 0 0, ⟨0, 0, 0⟩)] }

theorem witness_ResetHostAccessAndErrors :
    (∀ i, demo.barPlace false 0 i = none) ∧
    ((∀ i < 64, mapped.barPlace false 0 (65472 + i) = some (hbmAddr 2 65472 + i)) ∧ mapped.sound = true) ∧
    (65472 % 64 + 64 ≤ 64 ∧ mapped.barPlace false 0 65472 = some (hbmAddr 2 65472)) ∧
    (amGet demo.latent 5 = none ∧ ∀ bs ∈ [[3], [3, 70], [0, 511]], amGet ({ demo with latent := [(5, bs)] } : State).latent 5 = some bs ∧ ∀ b ∈ bs, b < 512) ∧
    (inHbm (2 ^ 34) = false ∧ (∀ w < 8, ¬ 1 < ([3, 70].filter (· / 64 == w)).length) ∧ 1 < ([3, 33].filter (· / 64 == 0)).length) ∧
    (inHbm (hbmAddr 2 0 / 64) = true ∧ 0 / 16 ≠ 511 / 16) ∧
    (let l := l2Copy (homeSlice (l2Line * 128)) (2 * l2Line + 1);
      2 ^ 140 ≤ l ∧ l2Holding.lineThere l = true ∧ demo.lineThere l = false) ∧ (demo.coreAt 0).slots.getD 0 none = some 32 := by
  refine ⟨fun i => ?_, by decide +kernel⟩
  have h : demo.bars = [] := by decide +kernel
  simp [State.barPlace, h, amGet]

/-- Each clause's words with a state that runs them: loops and the stream of two rows; waits on tag 63 of two and of none; a fence; a cell;
types and variables; a graph's counters; queues with room; a sound slab and rows that name places of the lane slices. -/
theorem witness_WordsComplete :
    (demo.canRun .control 0 ∧ demo.readable 3 ∧ demo.ctx.loops.length < 4 ∧ demo.joinsClean ∧ demo.ctx.core < 384 ∧
      ∀ k < 16, (demo.xval 3).getLsbD k = true → k < demo.task.tiles ∧ demo.tileWriters k = []) ∧
    (let s := streamed 2 [0, 1, 3];
      let reg := s.scratchOf s.ctx.tid s.ctx.core;
      s.canRun .control 0 ∧ s.readable 4 ∧ s.readable 5 ∧ s.ctx.loops.length < 4 ∧ s.ctx.trav = none ∧ (s.xval 4).toNat = 64 ∧
      (s.xval 5).toNat = 2 ∧ 64 + 4 * (2 + 1) ≤ reg.size ∧ s.raceCore [⟨reg.space, 64 / 64, (64 + 4 * (2 + 1) - 1) / 64, 0⟩] [] = .ok () ∧
      (∀ l ∈ linesOf (reg.base + 64) (4 * (2 + 1)), s.lineBad l (inRead (reg.base + 64) (4 * (2 + 1)) l) = false) ∧
      nonDecreasing ((List.range (2 + 1)).map fun i => memNat s.mem (reg.base + 64 + 4 * i) 4) = true) ∧
    ((tagged 0x8000000000000001).canRun .control 0 ∧ (tagged 0x8000000000000001).readable 3 ∧ (tagged 0x8000000000000001).joinsClean ∧
      (tagged 0x8000000000000001).task.tagsWord 0 &&& (tagged 0x8000000000000001).xval 3 ≠ 0 ∧
      (tagged 1).task.tagsWord 0 &&& (tagged 1).xval 3 = (tagged 1).xval 3) ∧
    (demo.canRun .fence 0 ∧ ∀ o ∈ demo.ops, o.unperformed = false) ∧
    ((celled 65535).canRun .cell 0 ∧ (∀ k, (celled 65535).readable k) ∧ ((celled 65535).xval 3).toNat < 65536 ∧
      (celled 65535).cellAddr (celled 65535).task.p ((celled 65535).xval 3).toNat ≠ none) ∧
    (let s := tiled 0x4900000000001008;
      s.canRun .eMain 0 ∧ s.readable 3 ∧ s.tilesFree [1] ∧ twRank (s.xval 3) ≠ 0 ∧ typeFault true (s.xval 3) = none ∧
        (layOf (s.xval 3)).size ≤ 32768) ∧
    ((tiled 511).canRun .eMain 0 ∧ ((tiled 511).xval 3).toNat = 511 ∧ (tiled 511).ctx.dAt 15 = none) ∧
    ((graphed (some 3) 4095 65535).canRun .eMain 0 ∧ (graphed (some 3) 4095 65535).task.instance_ = some 3 ∧
      ((graphed (some 3) 4095 65535).xval 3).toNat < 4096 ∧ ((graphed (some 3) 4095 65535).xval 4).toNat = 65535 ∧
      ∀ o ∈ (graphed (some 3) 4095 65535).ops, o.unperformed = false) ∧
    (planned.tagRoom 63 1 ∧ planned.matrixRoom planned.ctx.tid planned.ctx.core = true ∧
      (planned.coreAt planned.ctx.core).arr.planValid = true) ∧
    (let s := slabbed [⟨9, 1, 1, [[0x3F800000]], false⟩];
      s.canRun .vector 0 ∧ ((s.coreAt s.ctx.core).arr.queues.getD 7 .empty).slabs = [⟨9, 1, 1, [[0x3F800000]], false⟩]) ∧
    (let s := put demo [.x 4 2, .v 2 ⟨[[⟨8184, 1⟩]] ++ List.replicate 15 [], .uint32⟩, .v 4 ⟨[[⟨8, 2⟩]] ++ List.replicate 15 [], .uint32⟩];
      s.canRun .vector 0 ∧ s.readable 4 ∧ s.sound = true ∧ (s.ctx.vAt 2).tag.isInt = true ∧ 1 ≤ (s.xval 4).toNat ∧
      (∀ l < 16, chain ((s.ctx.vAt 2).row l) ≠ 0 → (elemAt ((s.ctx.vAt 2).row l) 0).toNat % 4 = 0 ∧
        (elemAt ((s.ctx.vAt 2).row l) 0).toNat + 4 * (s.xval 4).toNat ≤ s.ctx.sliceSize ∧ chain ((s.ctx.vAt 4).row l) ≠ 0 ∧
        (elemAt ((s.ctx.vAt 4).row l) 0).toNat % 4 = 0 ∧
        (elemAt ((s.ctx.vAt 4).row l) 0).toNat + 4 * chain ((s.ctx.vAt 2).row l) ≤ s.ctx.sliceSize) ∧
      ∀ l < 16, (runsOf (readWords s.mem (laneAddr s.ctx.core l (s.ctx.sliceBase + (elemAt ((s.ctx.vAt 2).row l) 0).toNat)) 2)).length ≤ 64) :=
  ⟨⟨demo_canRun rfl, demo_readable _, by decide +kernel, by unfold State.joinsClean; decide +kernel, by decide +kernel⟩,
   ⟨canRun_of (by decide +kernel), readable_of (by decide +kernel), readable_of (by decide +kernel), by decide +kernel⟩,
   ⟨canRun_of (by decide +kernel), readable_of (by decide +kernel), by unfold State.joinsClean; decide +kernel, by decide +kernel⟩,
   ⟨demo_canRun rfl, by decide +kernel⟩, ⟨(celled_ready _ (by simp)).1, (celled_ready _ (by simp)).2, by decide +kernel⟩,
   ⟨(word_ready _ (by simp)).1, (word_ready _ (by simp)).2.2.1, (word_ready _ (by simp)).2.2.2, by decide +kernel⟩,
   ⟨(word_ready _ (by simp)).1, by decide +kernel⟩, ⟨(graphed_ready _ _ _ (by simp) (by simp) (by simp)).1, by decide +kernel⟩,
   ⟨planned_ready.2.2.2.2.1, planned_ready.2.2.2.2.2, by decide +kernel⟩, ⟨canRun_of (by decide +kernel), by decide +kernel⟩,
   canRun_of (by decide +kernel), readable_of (by decide +kernel), by decide +kernel⟩

end Sys2Proof.Tests
end

section
/-! What moving bytes keeps: the reference counter, the numbers of operations to come and the evacuation frames of every paddock are left
by every write of a memory, with what it does to seals, poison, the error log, the L2 and its counters (21 R443 to R448; 22 R464, R472;
23 R473 to R479), and by the flush and the parking of a team (01 R25, R31). -/
namespace Sys2Proof.Machine

/-- The state `t` has the reference counter, the next operation number and the evacuation frames of `s`. -/
structure State.Keeps (s t : State) : Prop where
  cycle : t.cycle = s.cycle
  nextOp : t.nextOp = s.nextOp
  evac : ∀ p, (t.paddockAt p).evac = (s.paddockAt p).evac

namespace State.Keeps

variable {s t u : State}

theorem refl (s : State) : s.Keeps s := ⟨rfl, rfl, fun _ => rfl⟩

theorem trans (h : s.Keeps t) (h' : t.Keeps u) : s.Keeps u :=
  ⟨h'.cycle.trans h.cycle, h'.nextOp.trans h.nextOp, fun p => (h'.evac p).trans (h.evac p)⟩

/-- A state that agrees in the counter, the numbers and the paddocks. -/
theorem congr (h : s.Keeps t) (hc : u.cycle = t.cycle) (hn : u.nextOp = t.nextOp) (hp : u.paddocks = t.paddocks) : s.Keeps u :=
  h.trans ⟨hc, hn, fun p => by rw [State.paddockAt, State.paddockAt, hp]⟩

theorem ite {c : Prop} [Decidable c] (h : s.Keeps t) (h' : s.Keeps u) : s.Keeps (if c then t else u) := by
  split
  · exact h
  · exact h'

theorem foldl {α : Type} {f : State → α → State} {l : List α} (hf : ∀ (s : State) a, s.Keeps (f s a)) (h : s.Keeps t) :
    s.Keeps (l.foldl f t) := by
  induction l generalizing t with
  | nil => exact h
  | cons a l ih => exact ih (h.trans (hf t a))

/-- A paddock written with its evacuation frames as they were. -/
theorem setPaddock {p : Nat} {d : Paddock} (h : s.Keeps t) (hd : d.evac = (t.paddockAt p).evac) : s.Keeps (t.setPaddock p d) := by
  refine h.trans ⟨rfl, rfl, fun q => ?_⟩
  by_cases hq : q = p
  · subst hq; rw [State.paddockAt_setPaddock_self, hd]
  · rw [State.paddockAt_setPaddock_of_ne _ _ hq]

/-! ## The error log, errors, poison, seals (23 R473 to R479) -/

theorem interrupt {fn vec : Nat} (h : s.Keeps t) : s.Keeps (t.interrupt fn vec) := h.congr rfl rfl rfl

theorem logEvent {kind place p src seq origin : Nat} (h : s.Keeps t) : s.Keeps (t.logEvent kind place p src seq origin) := by
  unfold State.logEvent
  exact ite (h.congr rfl rfl rfl) (ite (h.congr rfl rfl rfl) (ite (interrupt (h.congr rfl rfl rfl)) (h.congr rfl rfl rfl)))

theorem logLine {kind line origin : Nat} (h : s.Keeps t) : s.Keeps (t.logLine kind line origin) := logEvent h

theorem settleCode {l : Nat} {bits : List Nat} (h : s.Keeps t) : s.Keeps (t.settleCode l bits) := by
  unfold State.settleCode
  exact ite (logLine h) (ite h (logLine (h.congr rfl rfl rfl)))

theorem settleWords {l : Nat} {seen : Nat → Bool} (h : s.Keeps t) : s.Keeps (t.settleWords l seen) := by
  unfold State.settleWords
  split
  · exact h
  · exact foldl (fun s _ => settleCode (refl s)) (h.congr rfl rfl rfl)

theorem settleLine {l : Nat} (h : s.Keeps t) : s.Keeps (t.settleLine l) := settleWords h

theorem verifyLine {l : Nat} (h : s.Keeps t) : s.Keeps (t.verifyLine l) := by
  unfold State.verifyLine
  exact ite (logLine ((settleLine h).congr rfl rfl rfl)) (settleLine h)

theorem settleCopies {l : Nat} (h : s.Keeps t) : s.Keeps (t.settleCopies l) := foldl (fun s _ => settleLine (refl s)) h

theorem sealLines {ls : List Nat} (h : s.Keeps t) : s.Keeps (t.sealLines ls) := h.congr rfl rfl rfl

theorem freshen {ls : List Nat} (h : s.Keeps t) : s.Keeps (t.freshen ls) := h.congr rfl rfl rfl

theorem reseal {a n : Nat} (h : s.Keeps t) : s.Keeps (t.reseal a n) := by
  unfold State.reseal
  exact ite (sealLines h) (sealLines (freshen (foldl (fun s _ => verifyLine (settleCopies (refl s))) h)))

theorem store {a : Nat} {bs : List Byte} (h : s.Keeps t) : s.Keeps (t.store a bs) :=
  (reseal h : s.Keeps (t.reseal a bs.length)).congr rfl rfl rfl

theorem lay {a : Nat} {bs : List Byte} (h : s.Keeps t) : s.Keeps (t.lay a bs) :=
  (reseal h : s.Keeps (t.reseal a bs.length)).congr rfl rfl rfl

theorem copyLines {a b n : Nat} (h : s.Keeps t) : s.Keeps (t.copyLines a b n) := by
  have hl : s.Keeps (if t.sound then t
      else (linesOf a n).foldl (fun s l => if b < 2 ^ 40 then s.verifyLine l else s.settleLine l) t) :=
    ite h (foldl (fun s _ => ite (verifyLine (refl s)) (settleLine (refl s))) h)
  exact hl.congr rfl rfl rfl

/-! ## The L2 and what it counts (21 R443 to R445; 22 R462 to R464, R472) -/

theorem telemetry {p k n : Nat} (h : s.Keeps t) : s.Keeps (t.telemetry p k n) := setPaddock h rfl

theorem postNotice {p f kind val : Nat} (h : s.Keeps t) : s.Keeps (t.postNotice p f kind val).1 := by
  simp only [State.postNotice]
  split
  · exact h
  · split
    · exact setPaddock h rfl
    · exact setPaddock (h.congr rfl rfl rfl) rfl

theorem noteFrame {p f : Nat} (h : s.Keeps t) : s.Keeps (t.noteFrame p f) := by
  unfold State.noteFrame
  exact ite h (ite ((postNotice h).congr rfl rfl rfl) (postNotice h))

theorem countAccess {f : Nat} (h : s.Keeps t) : s.Keeps (t.countAccess f) := by
  unfold State.countAccess
  exact ite h (ite (noteFrame (h.congr rfl rfl rfl)) (h.congr rfl rfl rfl))

theorem readCopy {slice line : Nat} (h : s.Keeps t) : s.Keeps (t.readCopy slice line) := by
  unfold State.readCopy
  exact ite h (settleLine (settleLine h))

theorem dropCopy {slice line : Nat} (h : s.Keeps t) : s.Keeps (t.dropCopy slice line) := by
  unfold State.dropCopy
  exact ite h (h.congr rfl rfl rfl)

theorem lineTransfer {host write : Bool} {p line : Nat} (h : s.Keeps t) : s.Keeps (t.lineTransfer host write p line) := by
  simp only [State.lineTransfer]
  split
  · exact ite (telemetry h) (countAccess (telemetry h))
  · exact telemetry h

theorem l2Line {m : AMap (List L2Line)} (h : s.Keeps t) : s.Keeps { t with l2 := m } := h.congr rfl rfl rfl

theorem l2Access {host write : Bool} {line : Nat} (h : s.Keeps t) : s.Keeps (t.l2Access host write line) := by
  simp only [State.l2Access]
  split
  · exact h
  · split
    · have hr : s.Keeps (if write then t else t.readCopy (homeSlice (line * 128)) line) := ite h (readCopy h)
      exact telemetry (l2Line (ite (lineTransfer hr) hr))
    · refine ite (lineTransfer (telemetry h)) ?_
      split
      · exact l2Line (lineTransfer (telemetry h))
      · exact l2Line (lineTransfer (dropCopy (ite (lineTransfer (readCopy (telemetry h))) (telemetry h))))

theorem l2Touch {host write : Bool} {ls : List Nat} (h : s.Keeps t) : s.Keeps (t.l2Touch host write ls) :=
  foldl (fun s _ => l2Access (refl s)) h

/-! ## The register caches (01 R25, R38) -/

theorem actAs {u tid : Nat} (h : s.Keeps t) : s.Keeps (t.actAs u tid) := h.congr rfl rfl rfl

theorem setCore {c : Nat} {k : CoreSt} (h : s.Keeps t) : s.Keeps (t.setCore c k) := h.congr rfl rfl rfl

theorem setTask {tid : Nat} {k : Task} (h : s.Keeps t) : s.Keeps (t.setTask tid k) := h.congr rfl rfl rfl

theorem readCached {tile : Bool} {core n : Nat} (h : s.Keeps t) : s.Keeps (t.readCached tile core n) :=
  foldl (fun s _ => settleLine (refl s)) h

theorem writeLine {tile : Bool} {core n : Nat} (h : s.Keeps t) : s.Keeps (t.writeLine tile core n) := by
  simp only [State.writeLine]
  split
  · exact setCore (readCached (ite (actAs h) (store (actAs h))))
  · exact h

theorem flushCore {core tid : Nat} (h : s.Keeps t) : s.Keeps (t.flushCore core tid) := by
  have hl : s.Keeps ([true, false].foldl (fun s tile => ((s.coreAt core).listed tile).foldl (fun s n => s.writeLine tile core n) s) t) :=
    foldl (fun s _ => foldl (fun s _ => writeLine (refl s)) (refl s)) h
  exact ite hl (setCore hl)

theorem flushTeam {tid : Nat} (h : s.Keeps t) : s.Keeps (t.flushTeam tid) := foldl (fun s _ => flushCore (refl s)) h

/-! ## The parking of a team (01 R25, R31, R32) -/

theorem abandonChunk {core : Nat} (h : s.Keeps t) : s.Keeps (t.abandonChunk core) := ite (setCore h) h

theorem saveArray {tid j : Nat} {a : ArrayState} (h : s.Keeps t) : s.Keeps (t.saveArray tid j a) := ite h (lay h)

theorem turnWaits {tid : Nat} (h : s.Keeps t) : s.Keeps (t.turnWaits tid) := h.congr rfl rfl rfl

theorem park {tid : Nat} {st : TaskState} (h : s.Keeps t) : s.Keeps (t.park tid st) := by
  have halted : s.Keeps ((t.taskAt tid).cores.foldl State.abandonChunk (t.flushTeam tid)) :=
    foldl (fun s _ => abandonChunk (refl s)) (flushTeam h)
  exact turnWaits (setTask (foldl (fun s _ => setCore (refl s)) (foldl (fun s _ => saveArray (actAs (refl s)))
    (ite halted (foldl (fun s _ => copyLines (refl s)) halted)))))

/-! ## Windows and tiles written (02 R55; 03 R90; 04 R94 to R100) -/

theorem setBlockClass {d : WinDesc} {tile b cls : Nat} (h : s.Keeps t) : s.Keeps (t.setBlockClass d tile b cls) := by
  simp only [State.setBlockClass]
  split
  · exact h
  · exact store h

theorem putCode {y : TLay} {base : Nat} {idx : List Nat} {code : Nat} (h : s.Keeps t) : s.Keeps (t.putCode y base idx code) := store h

theorem putScale {y : TLay} {base : Nat} {idx : List Nat} {e : Nat} (h : s.Keeps t) : s.Keeps (t.putScale y base idx e) := store h

theorem putClass {y : TLay} {base b cls : Nat} (h : s.Keeps t) : s.Keeps (t.putClass y base b cls) := store h

theorem closeTile {y : TLay} {base : Nat} (h : s.Keeps t) : s.Keeps (t.closeTile y base) :=
  foldl (fun s _ => putClass (store (refl s))) h

theorem padTile {y : TLay} {base : Nat} (h : s.Keeps t) : s.Keeps (t.padTile y base) :=
  ite (foldl (fun s _ => ite (putCode (refl s)) (refl s)) h) h

theorem closeBlocks {d : WinDesc} {ks : List ((Nat × Nat) × Nat)} (h : s.Keeps t) : s.Keeps (t.closeBlocks d ks) := by
  refine foldl (fun s k => ?_) h
  split
  · exact refl s
  · exact store (setBlockClass (refl s))

theorem putPlaceClass {side : Side} {p : CopyPlace} {cls : Nat} (h : s.Keeps t) : s.Keeps (t.putPlaceClass side p cls) := by
  unfold State.putPlaceClass
  split
  · exact ite (setBlockClass h) h
  · exact ite (putClass h) h
  · exact h

end State.Keeps

/-- Where `e` answers a state it has the counter, the numbers and the evacuation frames of `s`. -/
def State.KeepsOk {ε : Type} (s : State) (e : Except ε State) : Prop := ∀ r, e = .ok r → s.Keeps r

namespace State.KeepsOk

variable {ε : Type} {s t : State}

theorem ok (h : s.Keeps t) : s.KeepsOk (.ok t : Except ε State) := fun _ e => Except.ok.inj e ▸ h

theorem error (e : ε) : s.KeepsOk (.error e) := fun _ h => nomatch h

theorem ite {c : Prop} [Decidable c] {e e' : Except ε State} (h : s.KeepsOk e) (h' : s.KeepsOk e') : s.KeepsOk (if c then e else e') := by
  split
  · exact h
  · exact h'

/-- After an answer that is a state. -/
theorem bind {e : Except ε State} {f : State → Except ε State} (he : s.KeepsOk e) (hf : ∀ u, s.Keeps u → s.KeepsOk (f u)) :
    s.KeepsOk (e >>= f) := by
  cases e with
  | error x => exact error x
  | ok u => exact hf u (he u rfl)

/-- After an answer of another kind. -/
theorem bindOf {α : Type} {e : Except ε α} {f : α → Except ε State} (hf : ∀ a, s.KeepsOk (f a)) : s.KeepsOk (e >>= f) := by
  cases e with
  | error x => exact error x
  | ok a => exact hf a

theorem foldlM {α : Type} {f : State → α → Except ε State} {l : List α} (hf : ∀ (s : State) a, s.KeepsOk (f s a))
    (h : s.Keeps t) : s.KeepsOk (l.foldlM f t) := by
  induction l generalizing t with
  | nil => exact ok h
  | cons a l ih => exact bind (fun r hr => h.trans (hf t a r hr)) fun u hu => ih hu

/-! ## What a copy writes (02 R55; 06 R153 to R157) -/

theorem winWrite {d : WinDesc} {cs : List Nat} {code : Nat} (h : s.Keeps t) : s.KeepsOk (t.winWrite d cs code) := by
  unfold State.winWrite
  refine bindOf fun ⟨tile, base, byte, bit⟩ => ite (bindOf fun bs => ?_) (ok (Keeps.store h))
  exact ok (Keeps.store (Keeps.setBlockClass h))

theorem openBlocks {d : WinDesc} {ks : List ((Nat × Nat) × Nat)} (h : s.Keeps t) : s.KeepsOk (t.openBlocks d ks) := by
  refine foldlM (fun s k => ?_) h
  split
  · exact error _
  · exact ite (bindOf fun _ => ok (Keeps.store (Keeps.setBlockClass (Keeps.refl s))))
      (bindOf fun _ => ok (Keeps.store (Keeps.setBlockClass (Keeps.refl s))))

theorem openTile {y : TLay} {base : Nat} {part : List Nat} (h : s.Keeps t) : s.KeepsOk (t.openTile y base part) :=
  foldlM (fun s _ => ite (bindOf fun _ => ok (Keeps.putClass (Keeps.store (Keeps.refl s))))
    (bindOf fun _ => ok (Keeps.putClass (Keeps.store (Keeps.refl s))))) h

theorem putWindow {raw : Bool} {d : WinDesc} {xs : List (List Nat × Nat)} (h : s.Keeps t) : s.KeepsOk (t.putWindow raw d xs) :=
  bind (openBlocks h) fun _ hu => bind (foldlM (fun s _ => winWrite (Keeps.refl s)) hu) fun _ hv => ok (Keeps.closeBlocks hv)

theorem putTile {raw : Bool} {y : TLay} {base : Nat} {xs : List (List Nat × Nat)} (h : s.Keeps t) :
    s.KeepsOk (t.putTile raw y base xs) := by
  have put {u : State} (hu : s.Keeps u) : s.Keeps (xs.foldl (fun s x => s.putCode y base x.1 x.2) u) :=
    Keeps.foldl (fun s _ => Keeps.putCode (Keeps.refl s)) hu
  exact ite (ok (put (Keeps.padTile h))) (ite (ok (put h)) (bind (openTile h) fun _ hu => ok (Keeps.closeTile (put (Keeps.padTile hu)))))

theorem putSide {raw : Bool} {side : Side} {fmt : Nat} {xs : List (CopyPlace × Nat)} (h : s.Keeps t) :
    s.KeepsOk (t.putSide raw side fmt xs) := by
  cases side with
  | chip =>
    refine ok (Keeps.foldl (fun s x => ?_) h)
    split
    · exact Keeps.store (Keeps.refl s)
    · exact Keeps.refl s
  | win => exact putWindow h
  | tile => exact putTile h

theorem putSideScales {side : Side} {sc : Option WinDesc} {xs : List (CopyPlace × Nat)} (h : s.Keeps t) :
    s.KeepsOk (t.putSideScales side sc xs) := by
  cases side with
  | chip => exact ok h
  | win =>
    cases sc with
    | none => exact ok h
    | some => exact putWindow h
  | tile =>
    refine ok (Keeps.foldl (fun s x => ?_) h)
    split
    · exact Keeps.ite (Keeps.refl s) (Keeps.putScale (Keeps.refl s))
    · exact Keeps.refl s

theorem combineAll {p : CopyPlan} {xs : List Moved} (h : s.Keeps t) : s.KeepsOk (t.combineAll p xs) := by
  refine foldlM (fun s x => ?_) h
  split
  · exact bindOf fun _ => winWrite (Keeps.refl s)
  · exact ok (Keeps.refl s)

theorem copyRows {p : CopyPlan} {us : List Nat} {lo hi : Nat} (h : s.Keeps t) : s.KeepsOk (t.copyRows p us lo hi) := by
  unfold State.copyRows
  refine ite (bindOf fun _ => putSide h) (bindOf fun _ => ite (combineAll h) (bind (putSide h) fun u hu => ?_))
  have classes {xs : List Moved} {v : State} (hv : s.Keeps v) : s.KeepsOk (.ok (xs.foldl (fun s x => match x.cls with
      | some k => s.putPlaceClass p.dst x.to_ k
      | none => s) v) : Except FaultRec State) := by
    refine ok (Keeps.foldl (fun s x => ?_) hv)
    split
    · exact Keeps.putPlaceClass (Keeps.refl s)
    · exact Keeps.refl s
  exact ite (bind (putSideScales hu) fun v hv => classes hv) (classes hu)

end State.KeepsOk

namespace State.Keeps

variable {s t : State}

/-! ## What a halt does to the engines (01 R32; 06 R158) -/

theorem modOp {id : Nat} {f : Op → Op} (h : s.Keeps t) : s.Keeps (t.modOp id f) := h.congr rfl rfl rfl

theorem draw (h : s.Keeps t) : s.Keeps { t with freeCtr := t.freeCtr + 1 } := h.congr rfl rfl rfl

theorem haltCopy {p : CopyPlan} {c : CopyCmd} (h : s.Keeps t) : s.Keeps (t.haltCopy p c).1 := by
  simp only [State.haltCopy]
  split
  · exact draw h
  · split
    · next r hr => exact l2Touch (KeepsOk.copyRows (draw h) r hr)
    · exact draw h

theorem haltCopies {tid : Nat} (h : s.Keeps t) : s.Keeps (t.haltCopies tid) := by
  refine foldl (fun s o => ?_) h
  split
  · split
    · exact modOp (haltCopy (actAs (refl s)))
    · exact refl s
  · exact refl s

theorem saveRecords {tid : Nat} (h : s.Keeps t) : s.Keeps (t.saveRecords tid) :=
  foldl (fun s _ => ite (refl s) (lay (actAs (refl s)))) h

theorem haltEngines {tid : Nat} (h : s.Keeps t) : s.Keeps (t.haltEngines tid) := saveRecords (haltCopies h)

theorem abandonMatch {tid : Nat} (h : s.Keeps t) : s.Keeps (t.abandonMatch tid) := setTask (h.congr rfl rfl rfl)

theorem askPreempt {tid : Nat} {hard : Bool} {slot : Option Nat} (h : s.Keeps t) : s.Keeps (t.askPreempt tid hard slot) := by
  have hr : s.Keeps { t with preempts := t.preempts ++ [(⟨tid, hard, slot⟩ : Preempt)] } := h.congr rfl rfl rfl
  simp only [State.askPreempt]
  split
  · exact setTask (abandonMatch hr)
  · exact setTask (abandonMatch hr)
  · exact ite (abandonMatch hr) hr
  · exact ite (setTask (haltEngines (abandonMatch hr))) hr
  · exact ite (setTask (haltEngines (abandonMatch hr))) hr
  · exact hr

/-! ## The end of a pre-emption, evacuation (01 R34; 21 R437, R448) -/

theorem finishCtl {slot result ret : Nat} (h : s.Keeps t) : s.Keeps (t.finishCtl slot result ret) :=
  ite (interrupt (h.congr rfl rfl rfl)) (h.congr rfl rfl rfl)

theorem endPreempt {tid result : Nat} (h : s.Keeps t) : s.Keeps (t.endPreempt tid result) := by
  refine foldl (fun s r => ?_) (h.congr rfl rfl rfl)
  split
  · exact finishCtl (refl s)
  · exact refl s

theorem moveRegion {out : Bool} {fs : List Nat} {i a n : Nat} (h : s.Keeps t) : s.Keeps (t.moveRegion out fs i a n) := by
  refine foldl (fun s k => ?_) h
  split
  · exact l2Touch (ite (copyLines (refl s)) (copyLines (refl s)))
  · exact refl s

theorem moveRegions {out : Bool} {k : Task} {fs : List Nat} {cores : List (Nat × Nat)} {cl base : Nat} (h : s.Keeps t) :
    s.Keeps (t.moveRegions out k fs cores cl base) := moveRegion (foldl (fun s _ => moveRegion (refl s)) h)

theorem putEvac {fs : List Nat} {fuel at_ : Nat} {bs : List Byte} (h : s.Keeps t) : s.Keeps (t.putEvac fs fuel at_ bs) := by
  induction fuel generalizing t at_ bs with
  | zero => simpa only [State.putEvac] using h
  | succ n ih =>
    cases bs with
    | nil => simpa only [State.putEvac] using h
    | cons b bs =>
      refine ih ?_
      split
      · exact l2Touch (lay h)
      · exact h

/-- The same of a fold that carries a value beside the state. -/
theorem foldl_fst {α β : Type} {f : State × β → α → State × β} {l : List α} {r : State × β}
    (hf : ∀ (r : State × β) a, r.1.Keeps (f r a).1) (h : s.Keeps r.1) : s.Keeps (l.foldl f r).1 := by
  induction l generalizing r with
  | nil => exact h
  | cons a l ih => exact ih (h.trans (hf r a))

theorem putImages {k : Task} {fs : List Nat} (h : s.Keeps t) : s.Keeps (t.putImages k fs) := by
  unfold State.putImages
  exact foldl_fst (fun r _ => ite (putEvac (refl r.1)) (putEvac (putEvac (refl r.1)))) (foldl (fun s _ => putEvac (refl s)) h)

theorem moveTeam {tid cl : Nat} {f : Nat → Nat} (h : s.Keeps t) : s.Keeps (t.moveTeam tid f cl) := by
  refine setTask (Keeps.congr (foldl (fun s _ => setCore (refl s)) (foldl (fun s _ => setCore (refl s)) h)) rfl rfl rfl)

end State.Keeps

end Sys2Proof.Machine
end

section
/-! Wakes (01 R27): what recording the wakes of a step leaves, and that afterwards no stabled team that can go on is without one. -/
namespace Sys2Proof.Machine

/-- What the marking of wakes makes of a task: nothing where `woken` does not hold of a stabled team, else its wake alone. -/
inductive Marked (woken : Task → Bool) : Task → Task → Prop
  | kept (t : Task) (h : t.state = .stabled none → woken t = false) : Marked woken t t
  | stabled (t : Task) (n : Nat) (h : t.state = .stabled none) : Marked woken t { t with state := .stabled (some n) }
  | stabling (t : Task) (n : Nat) (h : t.state = .stabling none) : Marked woken t { t with state := .stabling (some n) }

/-- A marked task that is still stabled without a wake is the task as it was, and had none to be woken by. -/
theorem Marked.eq_of_stabled_none {woken : Task → Bool} {t t' : Task} (h : Marked woken t t') (hs : t'.state = .stabled none) :
    t' = t ∧ woken t = false := by
  cases h with
  | kept h => exact ⟨rfl, h hs⟩
  | stabled n h => simp at hs
  | stabling n h => simp at hs

/-- Marking changes the state of a task alone. -/
theorem Marked.eq_with_state {woken : Task → Bool} {t t' : Task} (h : Marked woken t t') : t' = { t with state := t'.state } := by
  cases h <;> rfl

/-- Entry by entry, keys kept, the tasks are marked. -/
theorem markWakes_forall₂ (woken : Task → Bool) (m : AMap Task) (n : Nat) :
    List.Forall₂ (fun e e' => e'.1 = e.1 ∧ Marked woken e.2 e'.2) m (markWakes woken n m).1 := by
  induction m generalizing n with
  | nil => exact .nil
  | cons e m ih =>
    obtain ⟨k, t⟩ := e
    rw [markWakes]
    split
    · next hs _ => exact .cons ⟨rfl, .stabled t n hs⟩ (ih _)
    · next hs _ => exact .cons ⟨rfl, .stabling t n hs⟩ (ih _)
    · next h _ => exact .cons ⟨rfl, .kept t fun hs => by simpa using h hs⟩ (ih _)

/-- The task of a number is marked; one that is not listed stays the blank task. -/
theorem State.fireWakes_taskAt (s : State) (tid : Nat) : Marked s.memberAwake (s.taskAt tid) (s.fireWakes.taskAt tid) := by
  have h := markWakes_forall₂ s.memberAwake s.tasks s.nextOp
  simp only [State.taskAt, State.fireWakes]
  generalize (markWakes s.memberAwake s.nextOp s.tasks).1 = m' at h ⊢
  generalize s.tasks = m at h ⊢
  induction h with
  | nil => exact .kept _ (by simp [amGet, Task.blank])
  | @cons e e' m m' he _ ih =>
    obtain ⟨hk, ht⟩ := he
    simp only [amGet, hk]
    split
    · exact ht
    · exact ih

/-- Recording wakes leaves the spawn queues as they are: no stabled team waits in one. -/
theorem State.fireWakes_spawnQueue (s : State) (p : Nat) : s.fireWakes.spawnQueue p = s.spawnQueue p := by
  have h := markWakes_forall₂ s.memberAwake s.tasks s.nextOp
  simp only [State.spawnQueue, State.fireWakes]
  generalize (markWakes s.memberAwake s.nextOp s.tasks).1 = m' at h ⊢
  generalize s.tasks = m at h ⊢
  induction h with
  | nil => rfl
  | @cons e e' m m' he _ ih =>
    obtain ⟨k, t⟩ := e
    obtain ⟨k', t'⟩ := e'
    obtain ⟨-, ht : Marked _ t t'⟩ := he
    cases ht with
    | kept h => simp only [List.filter_cons]; split <;> simp [ih]
    | stabled n h => simp [h, ih]
    | stabling n h => simp [h, ih]

/-- No condition of a block looks at a wake (01 R14). -/
theorem State.fireWakes_blockHolds (s : State) (c : Ctx) (b : Block) : s.fireWakes.blockHolds c b = s.blockHolds c b := by
  have ht := (s.fireWakes_taskAt c.tid).eq_with_state
  cases b with
  | spawnQueue p n => simp [State.blockHolds, State.fireWakes_spawnQueue]
  | tagsAny m => rw [State.blockHolds, ht]; rfl
  | tagsAll m => rw [State.blockHolds, ht]; rfl
  | pop q n => rw [State.blockHolds, ht]; rfl
  | barrier b w => rw [State.blockHolds, ht]; rfl
  | _ => rfl

/-- A context is blocked after wakes are recorded as it was before. -/
theorem State.fireWakes_blockedSince (s : State) (c : Ctx) : s.fireWakes.blockedSince c = s.blockedSince c := by
  simp only [State.blockedSince, State.fireWakes_blockHolds]

/-- Where no member is awake each has ended or is blocked. -/
theorem State.ended_or_blocked_of_not_memberAwake {s : State} {t : Task} (h : s.memberAwake t = false) {cid : Nat} (hc : cid ∈ t.cids) :
    (s.ctxAt cid).ended = true ∨ (s.blockedSince (s.ctxAt cid)).isSome = true := by
  have := List.any_eq_false.1 h cid hc
  simpa [Option.isSome_iff_ne_none, imp_iff_not_or] using this

/-- Recording the wakes that have fired records them all (01 R27). -/
theorem State.fireWakes_wakesRecorded (s : State) : s.fireWakes.wakesRecorded := by
  intro e' he' hs cid hc
  obtain ⟨i, hi, rfl⟩ := List.getElem_of_mem he'
  have h := markWakes_forall₂ s.memberAwake s.tasks s.nextOp
  obtain ⟨-, hm⟩ := h.get (h.length_eq ▸ hi) hi
  obtain ⟨ht, hw⟩ := hm.eq_of_stabled_none hs
  rw [State.fireWakes_blockedSince]
  exact State.ended_or_blocked_of_not_memberAwake hw (ht ▸ hc)

/-- What follows a move that answers a next state: blocks and wakes are recorded. -/
theorem settle_eq_next {o : Out} {t : State} (h : settle o = .next t) : ∃ u : State, t = u.noteBlocks := by
  cases o with
  | next u => exact ⟨u, (Host.Outcome.next.inj h).symm⟩
  | _ => simp [settle] at h

/-- A step that answers a next state ends by recording blocks and wakes (01 R14, R27). -/
theorem step_eq_next {s t : State} (h : step s = .next t) : ∃ u : State, t = u.noteBlocks := by
  rw [step, State.move] at h
  split at h
  · exact settle_eq_next h
  · exact settle_eq_next h

/-- Settles O12: whatever the move was, the step's last act is to record the wakes that have fired. -/
theorem wakesRecordedByEveryStep : Obligations.WakesRecordedByEveryStep := by
  intro s t h
  obtain ⟨u, rfl⟩ := step_eq_next h
  exact State.fireWakes_wakesRecorded _

end Sys2Proof.Machine
end

section
/-! The scheduler's steps (01 R15, R24 to R29; 19 R408). -/
namespace Sys2Proof.Machine

/-! ## The switch of a context, stabling, the move's end (01 R15, R24, R27) -/

/-- The slot after `i` others is switched to where it is the first that is ready. -/
theorem State.switchTo_eq_some {s : State} {core i : Nat} (hi : i < 4) (h : s.slotReady core (((s.coreAt core).cur + 1 + i) % 4) = true)
    (hb : ∀ j < i, s.slotReady core (((s.coreAt core).cur + 1 + j) % 4) = false) :
    s.switchTo core = some (((s.coreAt core).cur + 1 + i) % 4) := by
  have : (List.range 4).find? (s.slotReady core ∘ fun i => ((s.coreAt core).cur + 1 + i) % 4) = some i := by
    simp only [List.find?_range_eq_some, List.mem_range, Function.comp, Bool.not_eq_true']
    exact ⟨h, hi, hb⟩
  rw [State.switchTo, List.find?_map, this, Option.map_some]

/-- CONTEXT_SWITCH, due, goes to the slot switched to. -/
theorem exec_contextSwitch {s : State} {core n : Nat} (hd : s.switchDue core = true) (hn : s.switchTo core = some n) :
    exec (.contextSwitch core) s =
      .next { s.setCore core { s.coreAt core with cur := n, cnt := 0, due := false } with cycle := s.cycle + 1 } := by
  change execContextSwitch core s = _
  simp only [execContextSwitch, hn, hd, if_true]

/-- STABLING of a team blocked for longer than its limit. -/
theorem exec_stabling {s : State} {p seq since : Nat} {t : Task}
    (hf : s.findTask p seq (fun t => t.state == .running && t.xform.isNone && t.lookup.isNone && t.debugHalt.isNone) = some t)
    (hb : s.teamBlocked t = some since) (h0 : t.stableWait.toNat % 2 ^ 32 ≠ 0) (hl : t.stableWait.toNat % 2 ^ 32 < s.cycle - since)
    (hq : ∀ c ∈ t.cores, (s.coreAt c).arr.mq = []) :
    exec (.stabling p seq) s = .next (s.setTask t.tid { t with state := .stabling none }) := by
  have hq' : t.cores.all (fun c => (s.coreAt c).arr.mq.isEmpty) = true := by simpa using hq
  change execStabling p seq s = _
  simp only [execStabling, hf, hb, hq', bne_iff_ne.2 h0, decide_eq_true hl, Bool.and_true, if_true]

/-- STABLING_MOVE_COMPLETE parks the team: stabled with its wake, or, where a hard pre-emption is due, pre-empted (01 R27, R35). -/
theorem exec_stablingMoveComplete {s : State} {p seq : Nat} {t : Task} {w : Option Nat}
    (hf : s.findTask p seq (fun t => match t.state with | .stabling _ => true | _ => false) = some t) (hs : t.state = .stabling w) :
    exec (.stablingMoveComplete p seq) s =
      .next (if s.hardDue t.tid then (s.haltEngines t.tid).park t.tid (.hard false)
        else (s.park t.tid (.stabled w)).endPreempt t.tid 0) := by
  change execStablingMoveComplete p seq s = _
  unfold execStablingMoveComplete
  split
  · next h => cases h.symm.trans hf
  · next t' h =>
    cases h.symm.trans hf
    simp only [hs]
    split <;> rfl

/-! ## The return of a team (01 R28, R29) -/

/-- A team waits with its wake while a member has a bundle still to issue. -/
theorem State.wakeOf_eq_some {s : State} {t : Task} {w : Nat} (hs : t.state = .stabled (some w)) (hl : s.live t = true) :
    s.wakeOf t = some w := by
  simp only [State.wakeOf, hs, hl, if_true]

/-- An occupant that runs, is not halted for the debugger, and has tried a bundle or has none left, may be displaced. -/
theorem State.mayMove_of_running {s : State} {t : Task} (hr : t.state = .running) (hd : t.debugHalt = none)
    (hf : t.fresh = false ∨ s.live t = false) : s.mayMove t = true := by
  rcases hf with hf | hf <;> simp [State.mayMove, State.comes, hr, hd, hf]

/-- Parking takes no operation number. -/
theorem State.park_nextOp (s : State) (tid : Nat) (st : TaskState) : (s.park tid st).nextOp = s.nextOp :=
  (State.Keeps.park (.refl s)).nextOp

/-- The return of a woken team to slots that are free, no earlier wake before it. -/
theorem State.returnTeam_of_free {s : State} {t : Task} {w : Nat} (hw : s.wakeOf t = some w) (he : s.earlierWake t w = false)
    (ho : s.occupants t = []) : s.returnTeam t = some (s.unpark t.tid) := by
  simp [State.returnTeam, hw, he, ho]

/-- Its return to slots that one team has, which may be displaced: that team counts as a stabled one whose wake has fired (R28). -/
theorem State.returnTeam_of_occupant {s : State} {t : Task} {w o : Nat} (hw : s.wakeOf t = some w) (he : s.earlierWake t w = false)
    (ho : s.occupants t = [o]) (hm : s.mayMove (s.taskAt o) = true) :
    s.returnTeam t = some (({ s.park o (.stabled (some s.nextOp)) with nextOp := s.nextOp + 1 } : State).unpark t.tid) := by
  simp [State.returnTeam, hw, he, ho, hm]

/-- TEAM_RETURN of a team that returns. -/
theorem exec_teamReturn {s r : State} {p seq : Nat} {t : Task} (hf : s.findTask p seq (fun _ => true) = some t)
    (hr : s.returnTeam t = some r) : exec (.teamReturn p seq) s = .next r := by
  change execTeamReturn p seq s = _
  simp only [execTeamReturn, hf, Option.bind_some, hr]

/-! ## The scheduling round (01 R22, R29; 22 R460, R461, R472) -/

/-- A round is not held where a team is overdue. -/
theorem exec_schedulingRound_of_overdue {s : State} {e : Nat × Task} (he : e ∈ s.tasks) (ho : s.overdue e.2 = true) :
    exec .schedulingRound s = .fault (.notEnabled "SCHEDULING_ROUND") := by
  have : s.tasks.any (fun e => s.overdue e.2) = true := List.any_eq_true.2 ⟨e, he, ho⟩
  change execSchedulingRound s = _
  simp only [execSchedulingRound, this, if_true, notNow]

/-- Steps each of which writes one part of the state write that part alone together. -/
theorem State.foldl_writes {α β : Type} (put : State → β → State) {f : State → α → State}
    (hp : ∀ s a b, put (put s a) b = put s b) (hs : ∀ s, ∃ b, s = put s b)
    (h : ∀ s a, ∃ b, f s a = put s b) (l : List α) (s : State) : ∃ b, l.foldl f s = put s b := by
  induction l generalizing s with
  | nil => exact hs s
  | cons a l ih =>
    obtain ⟨b, e⟩ := h s a
    obtain ⟨b', e'⟩ := ih (f s a)
    exact ⟨b', by rw [List.foldl_cons, e', e, hp]⟩

/-- The hand-over's book of holders is all that a round's start writes of it. -/
theorem State.noteHolders_eq (s : State) : ∃ hs, s.noteHolders = { s with holders := hs } := by
  refine State.foldl_writes (fun s b => { s with holders := b }) (fun _ _ _ => rfl) (fun s => ⟨s.holders, rfl⟩)
    (fun s cl => ?_) _ s
  split
  · split
    · split
      · exact ⟨s.holders, rfl⟩
      · exact ⟨_, rfl⟩
    · exact ⟨_, rfl⟩
  · exact ⟨_, rfl⟩

/-- Waiting for a shared cluster is counted in the paddocks' telemetry alone. -/
theorem State.noteWaits_eq (s : State) : ∃ ps, s.noteWaits = { s with paddocks := ps } := by
  refine State.foldl_writes (fun s b => { s with paddocks := b }) (fun _ _ _ => rfl) (fun s => ⟨s.paddocks, rfl⟩)
    (fun s p => ?_) _ s
  split
  · exact ⟨_, rfl⟩
  · exact ⟨s.paddocks, rfl⟩

/-- Throttling is counted there alone, too. -/
theorem State.noteThrottle_eq (s : State) : ∃ ps, s.noteThrottle = { s with paddocks := ps } := by
  unfold State.noteThrottle
  split
  · exact ⟨s.paddocks, rfl⟩
  · refine State.foldl_writes (fun s b => { s with paddocks := b }) (fun _ _ _ => rfl) (fun s => ⟨s.paddocks, rfl⟩)
      (fun s p => ?_) _ s
    split
    · exact ⟨_, rfl⟩
    · exact ⟨s.paddocks, rfl⟩

/-- Offering clusters enables and disables no paddock. -/
theorem State.offerClusters_en (s : State) (p : Nat) : (s.offerClusters.paddockAt p).en = (s.paddockAt p).en := by
  simp only [State.paddockAt, State.offerClusters]
  induction s.paddocks with
  | nil => rfl
  | cons e m ih =>
    simp only [List.map_cons, amGet]
    split
    · rfl
    · exact ih

/-- A round in which no team is overdue and none returns: tasks are placed, waits counted. -/
theorem exec_schedulingRound {s : State} (ho : ∀ e ∈ s.tasks, s.overdue e.2 = false) (hw : s.wokenTeams = []) :
    exec .schedulingRound s =
      let u := ((s.offerClusters.noteHolders.placeAll s.placeOrder []).noteWaits).noteThrottle
      .next { u with round := u.cycle, tasks := u.tasks.map u.countRound } := by
  have ho' : s.tasks.any (fun e => s.overdue e.2) = false := List.any_eq_false.2 fun e he => by simp [ho e he]
  obtain ⟨hs, e⟩ := s.offerClusters.noteHolders_eq
  have hw' : s.offerClusters.noteHolders.wokenTeams = [] := by rw [e]; exact hw
  have hp : s.offerClusters.noteHolders.placeOrder = s.placeOrder := by rw [e]; rfl
  change execSchedulingRound s = _
  simp only [execSchedulingRound, ho', hw', hp, List.foldl_nil, Bool.false_eq_true, if_false]

/-- A queued task that fits and finds a place is placed there. -/
theorem State.tryPlace_queued {s : State} {t : Task} {site : Site} (hs : t.state = .queued) (hh : t.hold = false) (hl : t.lookup = none)
    (he : (s.paddockAt t.p).en = true) (h : s.siteFor t = some site) : s.tryPlace t = some (s.placeAt t site) := by
  simp [State.tryPlace, hs, hh, hl, he, h]

/-- A round with no task to place: clusters are offered, holders and waits noted, nothing else moves. -/
theorem exec_schedulingRound_of_nothing {s : State} (ho : ∀ e ∈ s.tasks, s.overdue e.2 = false) (hw : s.wokenTeams = [])
    (hp : s.placeOrder = []) :
    exec .schedulingRound s = .next { s.offerClusters.noteHolders.noteWaits.noteThrottle with
      round := s.cycle, tasks := s.tasks.map s.offerClusters.noteHolders.noteWaits.noteThrottle.countRound } := by
  rw [exec_schedulingRound ho hw, hp, State.placeAll]
  obtain ⟨hs, h1⟩ := s.offerClusters.noteHolders_eq
  obtain ⟨ps, h2⟩ := s.offerClusters.noteHolders.noteWaits_eq
  obtain ⟨qs, h3⟩ := s.offerClusters.noteHolders.noteWaits.noteThrottle_eq
  have hc : s.offerClusters.noteHolders.noteWaits.noteThrottle.cycle = s.cycle := by rw [h3, h2, h1]; rfl
  have ht : s.offerClusters.noteHolders.noteWaits.noteThrottle.tasks = s.tasks := by rw [h3, h2, h1]; rfl
  simp only [hc, ht]

/-- A round with one task, queued, that fits and finds a place: it is placed there. -/
theorem exec_schedulingRound_of_one {s : State} {t : Task} {site : Site} (hts : s.tasks = [(t.tid, t)]) (hs : t.state = .queued)
    (hfit : t.fits = true) (hh : t.hold = false) (hl : t.lookup = none) (hen : (s.paddockAt t.p).en = true)
    (hsite : s.offerClusters.noteHolders.siteFor t = some site) :
    exec .schedulingRound s =
      let u := ((s.offerClusters.noteHolders.placeAt t site).noteWaits).noteThrottle
      .next { u with round := u.cycle, tasks := u.tasks.map u.countRound } := by
  have hwake : s.wakeOf t = none := by simp only [State.wakeOf, hs]
  have ho : ∀ e ∈ s.tasks, s.overdue e.2 = false := by
    simp [hts, State.overdue, State.comes, hs, hwake]
  have hw : s.wokenTeams = [] := by simp [State.wokenTeams, hts, hwake]
  have hp : s.placeOrder = [t.tid] := by simp [State.placeOrder, hts, Task.waits, hs, hh, insertKey]
  obtain ⟨hs', h1⟩ := s.offerClusters.noteHolders_eq
  have ht : s.offerClusters.noteHolders.taskAt t.tid = t := by
    rw [h1]; simp [State.taskAt, State.offerClusters, hts, amGet]
  have hen' : (s.offerClusters.noteHolders.paddockAt t.p).en = true := by
    rw [h1, ← hen, ← s.offerClusters_en]; rfl
  have hplace : s.offerClusters.noteHolders.placeAll [t.tid] [] = s.offerClusters.noteHolders.placeAt t site := by
    simp [State.placeAll, ht, hs, hfit, State.tryPlace_queued hs hh hl hen' hsite]
  rw [exec_schedulingRound ho hw, hp, hplace]

/-! ## The registers at task start (19 R408) -/

/-- A place of a vector read after a write. -/
theorem vector_getD_setIfInBounds {α : Type} {N : Nat} (v : Vector α N) (i n : Nat) (a d : α) :
    (v.setIfInBounds i a).getD n d = if i = n ∧ n < N then a else v.getD n d := by
  simp only [Vector.getD, Array.getD_eq_getD_getElem?, Vector.toArray_setIfInBounds, Array.getElem?_setIfInBounds, Vector.size_toArray]
  by_cases hi : i = n
  · subst hi
    by_cases hn : i < N <;> simp [hn]
  · simp [hi]

/-- The arguments laid from X4 on stand in their places, the other registers as before. -/
theorem foldl_args_getD (l : List Word) (j n : Nat) (v : Vector Word 64) (hj : j + l.length ≤ 60) :
    ((l.zipIdx j).foldl (fun v a => v.setIfInBounds (4 + a.2) a.1) v).getD n 0 =
      if 4 + j ≤ n ∧ n < 4 + j + l.length then l.getD (n - (4 + j)) 0 else v.getD n 0 := by
  induction l generalizing j v with
  | nil => simp
  | cons a l ih =>
    simp only [List.length_cons] at hj ⊢
    rw [List.zipIdx_cons, List.foldl_cons, ih _ _ (by omega), vector_getD_setIfInBounds]
    by_cases hn : n = 4 + j
    · subst hn
      simp; omega
    · obtain h | h := Nat.lt_or_gt_of_ne hn
      · rw [if_neg (by omega), if_neg (by omega), if_neg (by omega)]
      · have : n - (4 + j) = n - (4 + (j + 1)) + 1 := by omega
        simp only [this, List.getD_cons_succ]
        by_cases hl : n < 4 + j + (l.length + 1)
        · rw [if_pos (by omega), if_pos (by omega)]
        · rw [if_neg (by omega), if_neg (by omega), if_neg (by omega)]

/-- The scalars at task start (R408): INST, NINST, and the arguments from X4 on. -/
theorem Task.startCtx_xAt {t : Task} (m core slot : Nat) {n : Nat} (hl : t.args.length ≤ 12) (hn : n ≠ 0) :
    (t.startCtx m core slot).xAt n = if 4 ≤ n ∧ n < 4 + t.args.length then t.args.getD (n - 4) 0
      else if n = 3 then BitVec.ofNat 64 t.ninst else if n = 2 then BitVec.ofNat 64 t.inst else 0 := by
  have h0 : (Vector.replicate 64 (0 : Word)).getD n 0 = 0 := by
    simp only [Vector.getD, Vector.toArray_replicate, Array.getD_eq_getD_getElem?, Array.getElem?_replicate]
    split <;> rfl
  change (if n = 0 then 0 else t.startX.getD n 0) = _
  simp only [hn, if_false, Task.startX, foldl_args_getD t.args 0 n _ (by omega), vector_getD_setIfInBounds, h0, word, Nat.add_zero]
  grind

/-- Settles O49: each step with what its premises decide, the round's frames, the registers at task start. -/
theorem schedulerSteps : Obligations.SchedulerSteps := by
  unfold Obligations.SchedulerSteps
  refine ⟨?_, ?_, ?_, ?_, ?_, ?_, ?_, ?_, ?_⟩
  · intro s core i hd hi hr hb
    exact exec_contextSwitch hd (State.switchTo_eq_some hi hr hb)
  · intro s p seq since t hf hb h0 hl hq
    exact exec_stabling hf hb h0 hl hq
  · intro s p seq t w hf hs
    have h := exec_stablingMoveComplete hf hs
    exact ⟨fun hd => by rw [h, hd]; rfl, fun hd => by rw [h, hd]; rfl⟩
  · intro s p seq w t hf hs hl he ho
    exact exec_teamReturn hf (State.returnTeam_of_free (State.wakeOf_eq_some hs hl) he ho)
  · intro s p seq w o t hf hs hl he ho hr hd hfr
    rw [State.park_nextOp]
    exact exec_teamReturn hf (State.returnTeam_of_occupant (State.wakeOf_eq_some hs hl) he ho (State.mayMove_of_running hr hd hfr))
  · rintro s ⟨e, he, ho⟩
    exact exec_schedulingRound_of_overdue he ho
  · intro s ho hw hp
    exact exec_schedulingRound_of_nothing ho hw hp
  · intro s t site hts hs hfit hh hl hen hsite
    exact exec_schedulingRound_of_one hts hs hfit hh hl hen hsite
  · intro t m core slot k hl
    refine ⟨rfl, ?_, ?_, fun hk => ?_, rfl, rfl⟩
    · rw [Task.startCtx_xAt m core slot hl (by omega)]; simp
    · rw [Task.startCtx_xAt m core slot hl (by omega)]; simp
    · rw [Task.startCtx_xAt m core slot hl (by omega), if_pos (by omega), Nat.add_sub_cancel_left]

end Sys2Proof.Machine
end

section
/-! Pre-emption, evacuation and resumption, hand-over, the end of tasks, the debugger's release (01 R20, R21, R30 to R34; 13 R356;
21 R448; 22 R460). -/
namespace Sys2Proof.Machine

/-! ## The halt (01 R31 to R33) -/

/-- PREEMPTION_HALT by the pre-emption asked for, the room in shadow storage and the evacuation frames that are free. -/
theorem exec_preemptionHalt {s : State} {p seq : Nat} {t : Task} {hard : Bool}
    (hf : s.findTask p seq (fun t => match t.state with | .halting _ => true | _ => false) = some t) (hs : t.state = .halting hard) :
    exec (.preemptionHalt p seq) s = .next (
      if !hard && s.shadowRoom t then ((s.haltEngines t.tid).park t.tid .soft).endPreempt t.tid 0
      else if !hard && !s.hardDue t.tid && s.freeEvac p < s.evacFrames t then
        (s.setTask t.tid { t with state := .running, hold := false }).endPreempt t.tid 3
      else
        (({ s with preempts := s.preempts.map fun (r : Preempt) => if r.tid = t.tid then { r with hard := true } else r } :
          State).haltEngines t.tid).park t.tid (.hard false)) := by
  have hsoft : (t.state == .halting false) = !hard := by rw [hs]; cases hard <;> decide
  change execPreemptionHalt p seq s = _
  unfold execPreemptionHalt
  split
  · next h => cases h.symm.trans hf
  · next t' h =>
    cases h.symm.trans hf
    simp only [hsoft]
    split
    · rfl
    · split <;> rfl

/-! ## Evacuation (01 R34; 21 R448) -/

/-- The end of a pre-emption answers the driver; no task changes. -/
theorem State.endPreempt_tasks (s : State) (tid result : Nat) : (s.endPreempt tid result).tasks = s.tasks := by
  refine List.foldlRecOn (motive := fun u : State => u.tasks = s.tasks) _ _ rfl fun u hu r _ => ?_
  split
  · rw [← hu, State.finishCtl]; split <;> rfl
  · exact hu

/-- A team moved keeps its state, its evacuation frames and its seats. -/
theorem State.moveTeam_taskAt (s : State) (tid : Nat) (f : Nat → Nat) (cl : Nat) :
    ((s.moveTeam tid f cl).taskAt tid).state = (s.taskAt tid).state ∧ ((s.moveTeam tid f cl).taskAt tid).evac = (s.taskAt tid).evac ∧
      ((s.moveTeam tid f cl).taskAt tid).seat = (s.taskAt tid).seat := by
  unfold State.moveTeam
  rw [State.taskAt_setTask_self]
  exact ⟨rfl, rfl, rfl⟩

/-- What an evacuation of team `t` of paddock `p` moves: its regions, images and save regions, into `fs`. -/
def State.evacuated (s : State) (t : Task) (fs : List Nat) : State :=
  ((s.actAs (unitOfCore (t.cores.headD 0)) t.tid).moveRegions true t fs (List.zip t.cores t.scratchBase) t.cluster
    t.clusterBase).putImages t fs

/-- What it writes of the paddock and the task. -/
def State.noteEvacuated (s : State) (p : Nat) (t : Task) (fs : List Nat) (n : Nat) : State :=
  (s.setPaddock p { s.paddockAt p with evac := (s.paddockAt p).evac.drop n }).setTask t.tid
    { t with state := .hard true, evac := fs, seat := t.cores }

/-- EVACUATION with frames enough. -/
theorem exec_evacuation {s : State} {p seq : Nat} {t : Task} (hf : s.findTask p seq (fun t => t.state == .hard false) = some t)
    (hn : s.evacFrames t ≤ (s.paddockAt p).evac.length) :
    let fs := (s.paddockAt p).evac.take (s.evacFrames t)
    exec (.evacuation p seq) s = .next ((((s.evacuated t fs).noteEvacuated p t fs (s.evacFrames t)).moveTeam t.tid
      (fun c => awayCore (t.coreIdx c)) 48).endPreempt t.tid 0) := by
  change execEvacuation p seq s = _
  simp only [execEvacuation, hf, Nat.not_lt.2 hn, if_false]
  rfl

/-- The team evacuated has its evacuation frames, and for seats the cores it had; the paddock has the frames that are left. -/
theorem State.evacuation_leaves (s : State) (p : Nat) (t : Task) (fs : List Nat) (n : Nat) (f : Nat → Nat) (cl : Nat) :
    let r := (((s.evacuated t fs).noteEvacuated p t fs n).moveTeam t.tid f cl).endPreempt t.tid 0
    (r.taskAt t.tid).state = .hard true ∧ (r.taskAt t.tid).evac = fs ∧ (r.paddockAt p).evac = (s.paddockAt p).evac.drop n ∧
      (r.taskAt t.tid).seat = t.cores := by
  intro r
  have hk : s.Keeps (s.evacuated t fs) := State.Keeps.putImages (State.Keeps.moveRegions (State.Keeps.actAs (.refl s)))
  have hr : ((s.evacuated t fs).noteEvacuated p t fs n).Keeps r := State.Keeps.endPreempt (State.Keeps.moveTeam (.refl _))
  have ht : r.taskAt t.tid = (((s.evacuated t fs).noteEvacuated p t fs n).moveTeam t.tid f cl).taskAt t.tid := by
    rw [State.taskAt, State.taskAt, State.endPreempt_tasks]
  obtain ⟨h1, h2, h3⟩ := ((s.evacuated t fs).noteEvacuated p t fs n).moveTeam_taskAt t.tid f cl
  have he : ((s.evacuated t fs).noteEvacuated p t fs n).taskAt t.tid = { t with state := .hard true, evac := fs, seat := t.cores } :=
    State.taskAt_setTask_self ..
  have hp : (((s.evacuated t fs).noteEvacuated p t fs n).paddockAt p).evac = ((s.evacuated t fs).paddockAt p).evac.drop n := by
    change (((s.evacuated t fs).setPaddock p _).paddockAt p).evac = _
    rw [State.paddockAt_setPaddock_self]
  rw [he] at h1 h2 h3
  exact ⟨ht ▸ h1, ht ▸ h2, by rw [hr.evac, hp, hk.evac], ht ▸ h3⟩

/-! ## Resumption (01 R33, R34) -/

/-- TASK_RESUME of a soft-pre-empted team whose slots are free. -/
theorem exec_taskResume_soft {s : State} {p seq : Nat} {t : Task} (hf : s.findTask p seq (fun t => !t.hold) = some t)
    (hs : t.state = .soft) (hr : s.softSite t = true) :
    exec (.taskResume p seq t.cluster) s = .next ((s.unpark t.tid).stampPlaced t.tid) := by
  change execTaskResume p seq t.cluster s = _
  simp [execTaskResume, hf, hs, hr]

/-- TASK_RESUME of an evacuated team on a cluster that has a place for it. -/
theorem exec_taskResume_hard {s : State} {p seq cl : Nat} {t : Task} {site : Site} (hf : s.findTask p seq (fun t => !t.hold) = some t)
    (hs : t.state = .hard true) (hr : s.clusterSite t cl = some site) : exec (.taskResume p seq cl) s = .next (s.resumeAt t site) := by
  change execTaskResume p seq cl s = _
  simp only [execTaskResume, hf, hs, hr]

/-! ## Hand-over (22 R460) -/

/-- Clearing a cluster takes no time. -/
theorem State.clearCluster_cycle (s : State) (p cl : Nat) : (s.clearCluster p cl).cycle = s.cycle :=
  (State.Keeps.foldl (fun s _ => .ite (.refl s) (.askPreempt (.refl s))) (.refl s) : s.Keeps (s.clearCluster p cl)).cycle

/-- TIME_SHARE_HAND_OVER of a holder whose quantum has ended, with frames for its teams, to the next sharer that could place a task. -/
theorem exec_timeShareHandOver {s : State} {cl h q since : Nat} (hh : amGet s.holders cl = some (h, since)) (ho : s.holderOf cl = some h)
    (hd : (s.paddockAt h).tsquant * 1700 ≤ s.cycle - since)
    (hn : (((s.teamsOn h cl).filter fun t => !s.hardDue t.tid).map s.evacFrames).sum ≤ s.freeEvac h) (hq : s.nextHolder h cl = some q) :
    exec (.timeShareHandOver cl) s = .next (s.handOver cl h q) := by
  change execTimeShareHandOver cl s = _
  simp only [execTimeShareHandOver, hh, ho, hq, hd, hn, beq_self_eq_true, decide_true, Bool.and_true, if_true]

/-- The cluster handed over is the next sharer's from now on. -/
theorem State.handOver_holders (s : State) (cl h q : Nat) : amGet (s.handOver cl h q).holders cl = some (q, s.cycle) := by
  rw [State.handOver, ← State.clearCluster_cycle s h cl]
  exact amGet_amSet_self ..

/-! ## The end of tasks (01 R20, R21) and the debugger's release (13 R356) -/

/-- TASK_COMPLETION of a team whose members have ended, with no operation left. -/
theorem exec_taskCompletion {s : State} {p seq : Nat} {t : Task}
    (hf : s.findTask p seq (fun t => t.started && !(s.ops.any fun o => o.tid == t.tid) &&
      !s.sendsLeft t.tid && t.cids.all fun cid => (s.ctxAt cid).ended) = some t) (hx : t.xform = none) :
    exec (.taskCompletion p seq) s = .next ((((s.flushTeam t.tid).endPreempt t.tid 0).dropTask t.tid).afterTask t.origin) := by
  change execTaskCompletion p seq s = _
  simp only [execTaskCompletion, hf, hx, Option.isSome_none, Bool.false_eq_true, if_false]

/-- That of a copy launch whose copy met a fault. -/
theorem exec_taskCompletion_fault {s : State} {p seq : Nat} {t : Task} {c : CopyCmd} {e : TagFault} {es : List TagFault}
    (hf : s.findTask p seq (fun t => t.started && !(s.ops.any fun o => o.tid == t.tid) &&
      !s.sendsLeft t.tid && t.cids.all fun cid => (s.ctxAt cid).ended) = some t) (hx : t.xform = some c) (he : t.tagFaults = e :: es) :
    exec (.taskCompletion p seq) s = .next (s.endFaulted t e.flt) := by
  change execTaskCompletion p seq s = _
  simp only [execTaskCompletion, hf, hx, he, Option.isSome_some, if_true, List.head?_cons]

/-- FAULT_TASK_END of a team of which nothing runs on. -/
theorem exec_faultTaskEnd {s : State} {p seq : Nat} {t : Task} {f : FaultRec}
    (hf : s.findTask p seq (fun t => t.state == .ending) = some t) (hft : t.fault = some f)
    (ho : ∀ o ∈ s.ops, o.tid = t.tid → o.runsOn = false) (hx : ∀ x ∈ s.sends, s.batchCid x.batch / 32 ≠ t.tid) :
    exec (.faultTaskEnd p seq) s = .next ((s.haltCopies t.tid).endFaulted t f) := by
  have ho' : s.ops.any (fun o => o.tid == t.tid && o.runsOn) = false := by
    simpa using ho
  have hx' : s.sendsLeft t.tid = false := by
    simpa [State.sendsLeft] using hx
  change execFaultTaskEnd p seq s = _
  simp [execFaultTaskEnd, hf, hft, ho', hx']

/-- A task dropped is listed no more, nor is an operation of it. -/
theorem State.dropTask_tasks_ops (s : State) (tid : Nat) :
    amGet (s.dropTask tid).tasks tid = none ∧ ∀ o ∈ (s.dropTask tid).ops, o.tid ≠ tid := by
  refine ⟨amGet_amDel_self .., fun o ho => ?_⟩
  simpa using (List.mem_filter.1 ho).2

/-- DEBUGGER_RELEASE of a team that is halted for the debugger. -/
theorem exec_debuggerRelease {s : State} {p seq : Nat} {t : Task} (hf : s.findTask p seq (fun t => t.debugHalt.isSome) = some t) :
    exec (.debuggerRelease p seq) s = .next (s.setTask t.tid { t with debugHalt := none }) := by
  change execDebuggerRelease p seq s = _
  simp only [execDebuggerRelease, hf]

/-- Settles O50: each step with what its premises decide; that an evacuation leaves the paddock's other frames, and a hand-over takes no
time, is what moving bytes and asking for a pre-emption keep. -/
theorem preemptionAndTaskEnd : Obligations.PreemptionAndTaskEnd := by
  unfold Obligations.PreemptionAndTaskEnd
  refine ⟨?_, ?_, ?_, ?_, ?_, ?_, ?_, ?_⟩
  · intro s p seq t hard hf hs
    have h := exec_preemptionHalt hf hs
    refine ⟨fun hh hr => ?_, fun hh hr hsh => ?_, fun hc => ?_⟩
    · rw [h, hh, hr]; rfl
    · simp [h, hh, hr, hsh]
    · obtain rfl | ⟨hr, hsh⟩ := hc
      · exact h
      · rw [h, hr, if_neg (by simp), if_neg]
        simp only [Bool.and_eq_true, Bool.not_eq_true', decide_eq_true_eq]
        rintro ⟨⟨-, hd⟩, hn⟩
        exact hsh ⟨hn, hd⟩
  · intro s p seq t hf _ hn
    exact ⟨_, exec_evacuation hf hn, s.evacuation_leaves ..⟩
  · intro s p seq t hf
    exact ⟨fun hs hr => exec_taskResume_soft hf hs hr, fun cl site hs hr => exec_taskResume_hard hf hs hr⟩
  · intro s cl h q since hh ho hd hn hq
    exact ⟨_, exec_timeShareHandOver hh ho hd hn hq, s.handOver_holders cl h q⟩
  · intro s p seq t hf
    exact ⟨exec_taskCompletion hf, fun c e es hx he => exec_taskCompletion_fault hf hx he⟩
  · intro s p seq t f hf hft ho hx
    exact exec_faultTaskEnd hf hft ho hx
  · exact State.dropTask_tasks_ops
  · intro s p seq t hf
    exact exec_debuggerRelease hf

end Sys2Proof.Machine
end

section
/-! Decoding (08 R191 to R200): what the decoder's forms can answer, surplus X words, which core decodes an opcode. -/
namespace Sys2Proof

/-! ## What a form can answer -/

/-- What is decoded, where an instruction is, has the property. -/
structure Decodes (P : Instr → Prop) (e : Except DecodeError Instr) : Prop where
  holds : ∀ i, e = .ok i → P i

namespace Decodes

variable {P : Instr → Prop}

theorem error (x : DecodeError) : Decodes P (.error x) := ⟨fun _ h => nomatch h⟩

theorem checked {c : Prop} [Decidable c] {i : Instr} {x : DecodeError} (h : P i) : Decodes P (if c then .ok i else .error x) := by
  split
  · exact ⟨fun _ e => Except.ok.inj e ▸ h⟩
  · exact error x

theorem plain {xs : List Nat} {i : Instr} (h : P i) : Decodes P (plain xs i) := by
  cases xs with
  | nil => exact checked h
  | cons => exact error _

theorem withImm {n : Nat} {xs : List Nat} {mk : List Nat → Instr} (h : ∀ xs, P (mk xs)) : Decodes P (withImm n xs mk) := by
  unfold Sys2Proof.withImm
  split
  · exact checked (h xs)
  · exact error _

theorem oneX {xs : List Nat} {z : Nat → Bool} {mk : Nat → Instr} (h : ∀ x, P (mk x)) : Decodes P (oneX xs z mk) :=
  match xs with
  | [] => error _
  | [x] => checked (h x)
  | _ :: _ :: _ => error _

theorem optX {xs : List Nat} {z : Nat → Bool} {mk : Option Nat → Instr} (h : ∀ x, P (mk x)) : Decodes P (optX xs z mk) :=
  match xs with
  | [] => checked (h none)
  | [x] => checked (h (some x))
  | _ :: _ :: _ => error _

theorem zeroed {ok : Bool} {e : Except DecodeError Instr} (h : Decodes P e) : Decodes P (zeroed ok e) := by
  unfold Sys2Proof.zeroed
  split
  · exact h
  · split
    · exact error _
    · exact error _

end Decodes

/-! ## Surplus X words (08 R194): a form that refuses X words as surplus refuses more of them -/

/-- What is surplus among the first of some X words is so among all. -/
def SurplusGrows (f : List Nat → Except DecodeError Instr) : Prop :=
  ∀ xs ys, f xs = .error .extraX → f (xs ++ ys) = .error .extraX

namespace SurplusGrows

theorem error (x : DecodeError) : SurplusGrows fun _ => .error x := fun _ _ h => h

theorem plain (i : Instr) : SurplusGrows fun xs => plain xs i := by
  intro xs ys h
  cases xs with
  | nil => simp only [Sys2Proof.plain] at h; split at h <;> simp at h
  | cons => rfl

theorem withImm (n : Nat) (mk : List Nat → Instr) : SurplusGrows fun xs => withImm n xs mk := by
  intro xs ys h
  simp only [Sys2Proof.withImm] at h ⊢
  split at h
  · split at h <;> simp at h
  · rw [if_neg (by simp; omega)]

theorem oneX (z : Nat → Bool) (mk : Nat → Instr) : SurplusGrows fun xs => oneX xs z mk := by
  intro xs ys h
  match xs, h with
  | [], h => simp [Sys2Proof.oneX] at h
  | [x], h => simp only [Sys2Proof.oneX] at h; split at h <;> simp at h
  | _ :: _ :: _, _ => rfl

theorem optX (z : Nat → Bool) (mk : Option Nat → Instr) : SurplusGrows fun xs => optX xs z mk := by
  intro xs ys h
  match xs, h with
  | [], h => simp only [Sys2Proof.optX] at h; split at h <;> simp at h
  | [x], h => simp only [Sys2Proof.optX] at h; split at h <;> simp at h
  | _ :: _ :: _, _ => rfl

theorem zeroed_eq_extraX {ok : Bool} {e : Except DecodeError Instr} : zeroed ok e = .error .extraX ↔ e = .error .extraX := by
  unfold Sys2Proof.zeroed
  cases ok
  · cases e with
    | error x => cases x <;> simp
    | ok => simp
  · simp

theorem zeroed {ok : Bool} {f : List Nat → Except DecodeError Instr} (h : SurplusGrows f) :
    SurplusGrows fun xs => zeroed ok (f xs) := fun xs ys hx => zeroed_eq_extraX.2 (h xs ys (zeroed_eq_extraX.1 hx))

theorem vWord (w : Nat) (mk : VOps → Instr) : SurplusGrows fun xs => vWord w xs mk := optX _ _

theorem vWordX (w : Nat) (mk : VOps → Instr) : SurplusGrows fun xs => vWordX w xs mk := oneX _ _

theorem decodeS (w : Nat) : SurplusGrows (decodeS w) := by
  unfold Sys2Proof.decodeS
  dsimp only
  split
  all_goals apply_rules [error, plain, withImm, oneX, optX, vWord, vWordX, zeroed]

theorem decodeC (w : Nat) : SurplusGrows (decodeC w) := by
  unfold Sys2Proof.decodeC
  dsimp only
  split
  all_goals apply_rules [error, plain, withImm, oneX, optX, vWord, vWordX, zeroed]

theorem decodeV (w : Nat) : SurplusGrows (decodeV w) := by
  unfold Sys2Proof.decodeV
  dsimp only
  split
  all_goals apply_rules [error, plain, withImm, oneX, optX, vWord, vWordX, zeroed]

theorem decodeF (w : Nat) : SurplusGrows (decodeF w) := by
  unfold Sys2Proof.decodeF
  dsimp only
  split
  all_goals apply_rules [error, plain, withImm, oneX, optX, vWord, vWordX, zeroed]

theorem decodeMA (w : Nat) : SurplusGrows (decodeMA w) := by
  unfold Sys2Proof.decodeMA
  dsimp only
  split
  all_goals apply_rules [error, plain, withImm, oneX, optX, vWord, vWordX, zeroed]

theorem decodeMB (w : Nat) : SurplusGrows (decodeMB w) := by
  unfold Sys2Proof.decodeMB
  dsimp only
  split
  all_goals apply_rules [error, plain, withImm, oneX, optX, vWord, vWordX, zeroed]

theorem decodeE (w : Nat) : SurplusGrows (decodeE w) := by
  unfold Sys2Proof.decodeE
  dsimp only
  split
  all_goals apply_rules [error, plain, withImm, oneX, optX, vWord, vWordX, zeroed]

theorem decodeWord (w : Nat) : SurplusGrows (decodeWord w) := by
  unfold Sys2Proof.decodeWord
  generalize fld w 28 3 = cls
  split
  · exact decodeS w
  · exact decodeC w
  · exact decodeV w
  · exact decodeF w
  · exact decodeMA w
  · exact decodeMB w
  · exact decodeE w
  · exact error _

end SurplusGrows

/-! ## Which core decodes a word (08 R208) -/

/-- A lookup core does not decode the instruction. -/
structure OffLookup (i : Instr) : Prop where
  off : decodedOn true i = false

/-- A main core does not decode the instruction. -/
structure OffMain (i : Instr) : Prop where
  off : decodedOn false i = false

/-! The fields of a word put together lie one above the other. -/

theorem fld_lt (w lo k : Nat) : fld w lo k < 2 ^ k := Nat.mod_lt _ (by positivity)

/-- The guard lies below every field. -/
theorem place_nil_lt {w n : Nat} (hn : 4 ≤ n) : place [] + fld w 0 4 < 2 ^ n :=
  calc place [] + fld w 0 4 = fld w 0 4 := by simp [place]
    _ < 2 ^ 4 := fld_lt w 0 4
    _ ≤ 2 ^ n := Nat.pow_le_pow_right (by decide) hn

/-- A field above those of a word that lie below bit `lo`. -/
theorem place_cons_lt {v lo k n g : Nat} {fs : List (Nat × Nat)} (hv : v < 2 ^ k) (hn : lo + k ≤ n) (h : place fs + g < 2 ^ lo) :
    place ((v, lo) :: fs) + g < 2 ^ n :=
  calc place ((v, lo) :: fs) + g = v * 2 ^ lo + (place fs + g) := by simp only [place]; omega
    _ < (v + 1) * 2 ^ lo := by rw [Nat.add_mul]; omega
    _ ≤ 2 ^ k * 2 ^ lo := Nat.mul_le_mul_right _ hv
    _ = 2 ^ (lo + k) := by rw [← pow_add, Nat.add_comm]
    _ ≤ 2 ^ n := Nat.pow_le_pow_right (by decide) hn

/-- The bit of a field that is 1. -/
theorem one_lt_two_pow_one : 1 < 2 ^ 1 := by decide

/-- The class of a word put together: its fields lie below the opcode. -/
theorem classOf_mkWord {cls op g : Nat} {fs : List (Nat × Nat)} (hc : cls < 8) (ho : op < 64) (h : place fs + g < 2 ^ 22) :
    classOf (mkWord cls op fs g) = cls := by
  simp only [classOf, fld, mkWord, place]
  omega

/-- Classes V, F, MB and E are decoded on lookup cores by exception only. -/
theorem offLookup_mkWord {cls op g : Nat} {fs : List (Nat × Nat)} (hc : cls = 2 ∨ cls = 3 ∨ cls = 5 ∨ cls = 6) (ho : op < 64)
    (h : place fs + g < 2 ^ 22) :
    (!true || classOf (mkWord cls op fs g) == 0 || classOf (mkWord cls op fs g) == 1 || classOf (mkWord cls op fs g) == 4) = false := by
  rw [classOf_mkWord (by omega) ho h]
  obtain rfl | rfl | rfl | rfl := hc <;> rfl

namespace Decodes

theorem vWord {P : Instr → Prop} {w : Nat} {xs : List Nat} {mk : VOps → Instr}
    (h : ∀ x, P (mk ⟨fld w 21 1, fld w 20 1, fld w 16 4, fld w 14 2, fld w 10 4, fld w 4 6, x⟩)) : Decodes P (vWord w xs mk) :=
  optX fun _ => h _

theorem vWordX {P : Instr → Prop} {w : Nat} {xs : List Nat} {mk : VOps → Instr}
    (h : ∀ x, P (mk ⟨fld w 21 1, fld w 20 1, fld w 16 4, fld w 14 2, fld w 10 4, fld w 4 6, x⟩)) : Decodes P (vWordX w xs mk) :=
  oneX fun _ => h _

/-! A leaf of a class's table is its instruction, whose fields `decodedOn` finds in the word put together again. -/

theorem decodeV_offLookup (w : Nat) (xs : List Nat) : Decodes OffLookup (decodeV w xs) := by
  unfold Sys2Proof.decodeV
  dsimp only
  split
  all_goals apply_rules [error, plain, withImm, oneX, optX, vWord, vWordX, zeroed]
  all_goals
    intros
    refine ⟨offLookup_mkWord (by decide) (by decide) ?_⟩
    apply_rules [place_cons_lt, place_nil_lt, fld_lt, one_lt_two_pow_one]
    all_goals decide

theorem decodeF_offLookup (w : Nat) (xs : List Nat) : Decodes OffLookup (decodeF w xs) := by
  unfold Sys2Proof.decodeF
  dsimp only
  split
  all_goals apply_rules [error, plain, withImm, oneX, optX, vWord, vWordX, zeroed]
  all_goals
    refine ⟨offLookup_mkWord (by decide) (by decide) ?_⟩
    apply_rules [place_cons_lt, place_nil_lt, fld_lt, one_lt_two_pow_one]
    all_goals decide

theorem decodeMB_offLookup (w : Nat) (xs : List Nat) : Decodes OffLookup (decodeMB w xs) := by
  unfold Sys2Proof.decodeMB
  dsimp only
  split
  all_goals apply_rules [error, plain, withImm, oneX, optX, vWord, vWordX, zeroed]
  all_goals
    intros
    refine ⟨offLookup_mkWord (by decide) (by decide) ?_⟩
    apply_rules [place_cons_lt, place_nil_lt, fld_lt, one_lt_two_pow_one]
    all_goals decide

theorem decodeE_offLookup {w : Nat} (h : fld w 22 6 < 32 ∨ 37 ≤ fld w 22 6 ∧ fld w 22 6 < 60) (xs : List Nat) :
    Decodes OffLookup (decodeE w xs) := by
  unfold Sys2Proof.decodeE
  dsimp only
  generalize fld w 22 6 = op at h ⊢
  split
  all_goals apply_rules [error, plain, withImm, oneX, optX, vWord, vWordX, zeroed]
  any_goals omega
  all_goals
    intros
    refine ⟨offLookup_mkWord (by decide) (by decide) ?_⟩
  -- The multiply's words name the field at bit 14 after the one at bit 10.
  case h_19 | h_20 | h_21 | h_22 =>
    simp only [place, fld]
    omega
  all_goals
    apply_rules [place_cons_lt, place_nil_lt, fld_lt, one_lt_two_pow_one]
    all_goals decide

theorem decodeC_offLookup {w : Nat} (h : fld w 22 6 = 29 ∨ fld w 22 6 = 30) (xs : List Nat) :
    Decodes OffLookup (decodeC w xs) := by
  unfold Sys2Proof.decodeC
  dsimp only
  generalize fld w 22 6 = op at h ⊢
  split
  all_goals apply_rules [error, plain, withImm, oneX, optX, vWord, vWordX, zeroed]
  any_goals omega
  all_goals exact ⟨rfl⟩

theorem decodeMA_offLookup {w : Nat} (h : 24 ≤ fld w 22 6 ∧ fld w 22 6 ≤ 30) (xs : List Nat) :
    Decodes OffLookup (decodeMA w xs) := by
  unfold Sys2Proof.decodeMA
  dsimp only
  generalize fld w 22 6 = op at h ⊢
  split
  all_goals apply_rules [error, plain, withImm, oneX, optX, vWord, vWordX, zeroed]
  any_goals omega
  all_goals
    intros
    exact ⟨rfl⟩

theorem decodeE_offMain {w : Nat} (h : 60 ≤ fld w 22 6) (xs : List Nat) : Decodes OffMain (decodeE w xs) := by
  unfold Sys2Proof.decodeE
  dsimp only
  generalize fld w 22 6 = op at h ⊢
  split
  all_goals apply_rules [error, plain, withImm, oneX, optX, vWord, vWordX, zeroed]
  any_goals omega
  all_goals
    intros
    exact ⟨rfl⟩

/-- A core decodes no instruction from a word whose opcode it does not have. -/
theorem decodeWord_offLookup {w : Nat} (h : wordOn true w = false) (xs : List Nat) : Decodes OffLookup (decodeWord w xs) := by
  unfold Sys2Proof.decodeWord
  simp only [wordOn, classOf, Bool.not_true, Bool.false_or] at h
  generalize fld w 28 3 = cls at h ⊢
  split
  · simp at h
  · exact decodeC_offLookup (by simpa [or_iff_not_imp_left] using h) xs
  · exact decodeV_offLookup w xs
  · exact decodeF_offLookup w xs
  · exact decodeMA_offLookup (by simpa using h) xs
  · exact decodeMB_offLookup w xs
  · exact decodeE_offLookup (by simp at h; omega) xs
  · exact error _

theorem decodeWord_offMain {w : Nat} (h : wordOn false w = false) (xs : List Nat) : Decodes OffMain (decodeWord w xs) := by
  unfold Sys2Proof.decodeWord
  simp only [wordOn, classOf, Bool.not_false, Bool.true_or] at h
  generalize fld w 28 3 = cls at h ⊢
  split
  case h_7 => exact decodeE_offMain (by simpa using h) xs
  case h_8 => exact error _
  all_goals simp at h

end Decodes

/-- The opcode of a word is one of the core's where what it decodes to is (08 R208). -/
theorem wordOn_of_decodedOn {lookup : Bool} {w : Nat} {xs : List Nat} {i : Instr} (hi : decodeWord w xs = .ok i)
    (hd : decodedOn lookup i = true) : wordOn lookup w = true := by
  by_contra h
  rw [Bool.not_eq_true] at h
  cases lookup with
  | true => exact absurd hd (by simp [((Decodes.decodeWord_offLookup h xs).holds i hi).off])
  | false => exact absurd hd (by simp [((Decodes.decodeWord_offMain h xs).holds i hi).off])

end Sys2Proof
end

section
namespace Sys2Proof

/-! ## A bundle of one word (08 R195, R196, R200) -/

theorem word_mem_of_mem_groupWords {r : RawWord} : ∀ {n : Nat} {ws : List Nat}, r ∈ groupWords n ws → r.word ∈ ws
  | n, w :: ws, h => by
    simp only [groupWords, List.mem_cons, List.mem_filter] at h ⊢
    obtain rfl | ⟨h, -⟩ := h
    · exact .inl rfl
    · exact .inr (word_mem_of_mem_groupWords h)

/-- A word with its X words is grouped as one. -/
theorem groupWords_alone (w : Nat) {xs : List Nat} (hx : ∀ x ∈ xs, isX x = true) :
    groupWords 0 (w :: xs) = [⟨0, w, xPayloads xs⟩] := by
  have : (groupWords 1 xs).filter (fun r => !isX r.word) = [] :=
    List.filter_eq_nil_iff.2 fun r hr => by simp [hx _ (word_mem_of_mem_groupWords hr)]
  simp [groupWords, this]

/-- Class 7 has no forms. -/
theorem class_lt_of_decodeWord {w : Nat} {xs : List Nat} {i : Instr} (hi : decodeWord w xs = .ok i) : fld w 28 3 < 7 := by
  by_contra h
  have h7 : fld w 28 3 = 7 := by have := fld_lt w 28 3; omega
  simp [decodeWord, h7] at hi

theorem isX_eq_false_of_class_lt {w : Nat} (h : fld w 28 3 < 7) : isX w = false := by
  simp only [isX, fld, beq_eq_false_iff_ne] at h ⊢
  omega

/-- What decodes has no surplus X word. -/
theorem surplusX_eq_none {lookup : Bool} {r : RawWord} {i : Instr} (hi : decodeWord r.word r.xs = .ok i) (hd : decodedOn lookup i = true) :
    surplusX lookup r = none := by
  have hc := class_lt_of_decodeWord hi
  have hk : ∀ k, decodeWord r.word (r.xs.take k) ≠ .error .extraX := fun k h => by
    have := SurplusGrows.decodeWord r.word _ (r.xs.drop k) h
    rw [List.take_append_drop, hi] at this
    cases this
  simp [surplusX, isX_eq_false_of_class_lt hc, hc.ne, wordOn_of_decodedOn hi hd, hk]

/-- Each class but 7 has a slot. -/
theorem exists_nextSlot {c : Nat} (h : c < 7) : ∃ s, nextSlot c 8 0 = some s := by
  interval_cases c <;> exact ⟨_, rfl⟩

/-- A word that decodes is, with its X words, a bundle of its own. -/
theorem decodeBundle_alone {lookup : Bool} {w : Nat} {xs : List Nat} {i : Instr} (hx : ∀ x ∈ xs, isX x = true)
    (hi : decodeWords (w :: xs) = .ok i) (hd : decodedOn lookup i = true) (hs : csrMissing lookup i = false) :
    ∃ slot, decodeBundle lookup (w :: xs) = .ok [⟨0, slot, i⟩] := by
  have hi : decodeWord w (xPayloads xs) = .ok i := hi
  obtain ⟨slot, hslot⟩ := exists_nextSlot (class_lt_of_decodeWord hi)
  have hsur : surplusX lookup ⟨0, w, xPayloads xs⟩ = none := surplusX_eq_none hi hd
  refine ⟨slot, ?_⟩
  simp [decodeBundle, groupWords_alone w hx, hsur, wordOn_of_decodedOn hi hd, hi, hd, hs, assignSlots, classOf, hslot]

end Sys2Proof

namespace Sys2Proof.Machine

/-! ## The step that issues such a bundle (01 R13; 08 R197 to R200) -/

section Alone

variable {s : State} {core cid w : Nat} {xs : List Nat} {i : Instr}

theorem bundleClash_alone (rrb : BitVec 4) (x : SlotWord) (a : Nat) : bundleClash rrb [x] a = none := rfl

/-- The fetch answers the instruction alone. -/
theorem State.fetchesAlone.fetchBundle_eq (h : s.fetchesAlone core cid w xs i) :
    ∃ slot, ({ s with me := cid, bun := .closed } : State).fetchBundle = .ok ([⟨0, slot, i⟩], xs.length + 1) := by
  obtain ⟨slot, hslot⟩ := decodeBundle_alone h.extra h.reads h.decoded h.csr
  refine ⟨slot, ?_⟩
  generalize hu : ({ s with me := cid, bun := .closed } : State) = u
  have hctx : u.ctx = s.ctxAt cid := hu ▸ rfl
  have htask : u.task = s.taskAt (s.ctxAt cid).tid := hu ▸ rfl
  have hstart := h.starts
  have hwords := h.words
  have hpacket := h.packet
  rw [hu] at hstart hwords hpacket
  have hnext : (u.bundleEnd (s.taskAt (s.ctxAt cid).tid) 8 (s.ctxAt cid).pc.toNat % 32 = 0 &&
      (u.codeWord (s.taskAt (s.ctxAt cid).tid) (u.bundleEnd (s.taskAt (s.ctxAt cid).tid) 8 (s.ctxAt cid).pc.toNat)).any
        fun w => !startsBundle w) = false := by
    simpa [Option.any_eq_false] using hpacket
  simp only [State.fetchBundle, hctx, htask, hstart, hnext, hwords, hslot, bundleClash_alone, List.length_cons]
  rfl

/-- A bundle of one word whose registers read without error runs as the word does. -/
theorem State.runBundle_alone {u : State} {n : Nat} {slot : Nat} (h : (u.landRuns (isTret i)).readFault i = none) :
    u.runBundle [⟨0, slot, i⟩] n =
      exec i ((u.landRuns (isTret i)).useLines ((u.landRuns (isTret i)).namedBy [i]) i) := by
  have hf : (u.landRuns (isTret i)).readFaults [⟨0, slot, i⟩] = [] := by simp [State.readFaults, h]
  unfold State.runBundle
  generalize ht : List.any _ _ = tret
  obtain rfl : tret = isTret i := ht.symm.trans (Bool.or_false _)
  simp only [hf]
  rfl

/-- The instruction of a lone word run by its core, after the fetch and the uses of lines. -/
def State.aloneRun (s : State) (cid n : Nat) (i : Instr) : Out :=
  exec i ((s.prepared cid n (isTret i)).useLines ((s.prepared cid n (isTret i)).namedBy [i]) i)

theorem State.fetchesAlone.issueOn_eq (h : s.fetchesAlone core cid w xs i) : s.issueOn core = s.aloneRun cid (xs.length + 1) i := by
  obtain ⟨slot, hfetch⟩ := h.fetchBundle_eq
  have hissue : s.issueCtx cid = s.aloneRun cid (xs.length + 1) i := by
    unfold State.issueCtx
    simp only [hfetch]
    exact State.runBundle_alone h.unharmed
  unfold State.issueOn
  rw [h.stays, h.current]
  exact hissue

/-- A core that issues such a bundle in its turn, without stalling again as before, goes on. -/
theorem State.advance_alone {t u : State} (hu : { s with focus := core + 1 } = u) (h : u.fetchesAlone core cid w xs i)
    (hrun : u.aloneRun cid (xs.length + 1) i = .next t) (hon : s.wentOn t cid = true) : s.advance core = some t := by
  subst hu
  have hstays : s.switchDue core = false := h.stays
  have hcur : (s.coreAt core).slots.getD (s.coreAt core).cur none = some cid := h.current
  unfold State.advance
  rw [h.issueOn_eq, hrun]
  simp only [hstays, hcur, Option.any_some, hon, Bool.false_eq_true, if_false, if_true]

/-- The first core that goes on is the one whose predecessors do not. -/
theorem State.firstAdvance_of_pre {t : State} {pre post : List Nat} (hpre : ∀ k ∈ pre, s.advance k = none)
    (h : s.advance core = some t) : s.firstAdvance (pre ++ core :: post) = some t := by
  induction pre with
  | nil => simp [State.firstAdvance, h]
  | cons k ks ih =>
    rw [List.cons_append, State.firstAdvance, hpre k List.mem_cons_self]
    exact ih fun k' hk' => hpre k' (List.mem_cons_of_mem _ hk')

theorem State.firstAdvance_eq_none {l : List Nat} (h : ∀ k ∈ l, s.advance k = none) : s.firstAdvance l = none := by
  induction l with
  | nil => rfl
  | cons k ks ih =>
    rw [State.firstAdvance, h k List.mem_cons_self]
    exact ih fun k' hk' => h k' (List.mem_cons_of_mem _ hk')

/-- With no step of the scheduler due, the first core that goes on moves: among those whose turn is to come, or, where none of these goes
on and no device step is ready, among those that have had theirs (log entry 1). -/
theorem State.ownMove_of_advance {t : State} {pre post : List Nat} (hdue : s.firstNext s.dueSteps = none)
    (hturn : s.turnCores = pre ++ core :: post ∨
      (∀ k ∈ s.turnCores, s.advance k = none) ∧ s.firstNext s.pendingSteps = none ∧ s.pastCores = pre ++ core :: post)
    (hpre : ∀ k ∈ pre, s.advance k = none) (h : s.advance core = some t) : s.ownMove = .next t := by
  unfold State.ownMove
  obtain hturn | ⟨hnone, hpending, hpast⟩ := hturn
  · simp only [hdue, hturn, State.firstAdvance_of_pre hpre h]
  · simp only [hdue, State.firstAdvance_eq_none hnone, hpending, hpast, State.firstAdvance_of_pre hpre h]

end Alone

/-- Settles O3: the lone word's fetch answers the instruction it decodes to (`decodeBundle_alone`), and its core is the one asked, or the
first that goes on. -/
theorem stepRunsDecoded : Obligations.StepRunsDecoded := by
  unfold Obligations.StepRunsDecoded
  intro s core cid w xs i ms
  constructor
  · intro hagenda hfetch
    calc step s = settle (({ s with agenda := ms, focus := core + 1 } : State).issueOn core) := by
          unfold step State.move
          rw [hagenda]
          rfl
      _ = _ := congrArg settle hfetch.issueOn_eq
  · rintro pre post hagenda hdue hturn hpre hfetch hon ⟨t, ht⟩
    have hfocus : { s with focus := core + 1 } = { s with agenda := [], focus := core + 1 } := by rw [hagenda]
    have hadv : s.advance core = some t := State.advance_alone hfocus hfetch ht (hon t ht)
    calc step s = settle s.ownMove := by
          unfold step State.move
          rw [hagenda]
      _ = settle (.next t) := by rw [State.ownMove_of_advance hdue hturn hpre hadv]
      _ = _ := congrArg settle ht.symm

end Sys2Proof.Machine
end

section
/-! Leases granted, frames called back and moved, the notification queue's registers (02 R56 to R59; 21 R440, R442 to R447). -/
namespace Sys2Proof.Machine

/-! ## What is read after a stretch of memory has been copied -/

theorem memGet_of_mem {m : Memory} {c : Nat} {v : Byte} (h : Memory.wf m = true) (hm : (c, v) ∈ m) : memGet m c = v := by
  induction m with
  | nil => cases hm
  | cons e m ih =>
    obtain ⟨a, b⟩ := e
    obtain ⟨-, ha, hw⟩ := (Memory.wf_cons ..).1 h
    obtain he | he := List.mem_cons.1 hm
    · cases he
      simp [memGet]
    · have hlt : a < c := ha _ he
      simp [memGet, hlt.ne', hlt.not_gt, ih hw he]

theorem memGet_of_not_mem {m : Memory} {c : Nat} (h : ∀ v, (c, v) ∉ m) : memGet m c = 0 := by
  induction m with
  | nil => rfl
  | cons e m ih =>
    obtain ⟨a, b⟩ := e
    have hne : c ≠ a := fun hc => h b (hc ▸ List.mem_cons_self)
    simp [memGet, hne, ih fun v hv => h v (List.mem_cons_of_mem _ hv)]

/-- Two memories that list the same bytes at two addresses read the same there. -/
theorem memGet_eq_of_mem_iff {m m' : Memory} {c c' : Nat} (h : Memory.wf m = true) (h' : Memory.wf m' = true)
    (hiff : ∀ v, (c, v) ∈ m ↔ (c', v) ∈ m') : memGet m c = memGet m' c' := by
  by_cases hv : ∃ v, (c, v) ∈ m
  · obtain ⟨v, hv⟩ := hv
    rw [memGet_of_mem h hv, memGet_of_mem h' ((hiff v).1 hv)]
  · rw [not_exists] at hv
    rw [memGet_of_not_mem hv, memGet_of_not_mem fun v hm => hv v ((hiff v).2 hm)]

/-- What a copy lists: in the target the bytes of the source, elsewhere those that stood there. -/
theorem mem_memCopy {m : Memory} {a b n c : Nat} {v : Byte} :
    (c, v) ∈ memCopy m a b n ↔ if b ≤ c ∧ c < b + n then (a + (c - b), v) ∈ m else (c, v) ∈ m := by
  have hsrc : (∃ e ∈ m, (a ≤ e.1 ∧ e.1 < a + n) ∧ (e.1 - a + b, e.2) = (c, v)) ↔
      (b ≤ c ∧ c < b + n) ∧ (a + (c - b), v) ∈ m := by
    constructor
    · rintro ⟨⟨d, w⟩, hm, hd, he⟩
      obtain ⟨rfl, rfl⟩ := Prod.mk.inj he
      dsimp only at hd
      have hback : a + (d - a + b - b) = d := by omega
      exact ⟨by dsimp only; omega, by rwa [hback]⟩
    · rintro ⟨hc, hm⟩
      exact ⟨_, hm, by dsimp only; omega, Prod.ext (by dsimp only; omega) rfl⟩
  simp only [memCopy, List.mem_append, List.mem_filter, List.mem_map, Bool.and_eq_true, decide_eq_true_eq, and_assoc] at hsrc ⊢
  rw [hsrc]
  split
  · constructor
    · rintro ((⟨-, h⟩ | ⟨-, -, h⟩) | ⟨-, h⟩)
      · omega
      · exact h
      · omega
    · intro h
      exact .inl (.inr ⟨by omega, by omega, h⟩)
  · constructor
    · rintro ((⟨h, -⟩ | ⟨h1, h2, -⟩) | ⟨h, -⟩)
      · exact h
      · omega
      · exact h
    · intro h
      by_cases hc : c < b
      · exact .inl (.inl ⟨h, hc⟩)
      · exact .inr ⟨h, by omega⟩

/-- A byte read after a copy. -/
theorem memGet_memCopy {m : Memory} (a b n c : Nat) (h : Memory.wf m = true) :
    memGet (memCopy m a b n) c = if b ≤ c ∧ c < b + n then memGet m (a + (c - b)) else memGet m c := by
  have hw := memCopy_wf a b n h
  split
  · next hc => exact memGet_eq_of_mem_iff hw h fun v => by rw [mem_memCopy, if_pos hc]
  · next hc => exact memGet_eq_of_mem_iff hw h fun v => by rw [mem_memCopy, if_neg hc]

/-- A number put elsewhere changes no byte here. -/
theorem memGet_memPut_outside {m : Memory} {a n v c : Nat} (h : Memory.wf m = true) (ho : c < a ∨ a + n ≤ c) :
    memGet (memPut m a n v) c = memGet m c :=
  memGet_memWrite_outside _ h (by rwa [natLe_length])

theorem memNat_congr {m m' : Memory} {a n : Nat} (h : ∀ c, a ≤ c → c < a + n → memGet m' c = memGet m c) :
    memNat m' a n = memNat m a n := by
  rw [memNat, memNat, memRead_congr h]

theorem memNat_memPut_outside {m : Memory} {a n v b k : Nat} (h : Memory.wf m = true) (ho : b + k ≤ a ∨ a + n ≤ b) :
    memNat (memPut m a n v) b k = memNat m b k :=
  memNat_congr fun c h1 h2 => memGet_memPut_outside h (by omega)

/-! ## The answers of the control ring (21 R437) -/

/-- Slot `k` of a control ring at `b` in host memory. -/
def ctlSlot (b : Word) (k : Nat) : Nat := hostAddr (b.toNat + 64 * k)

/-- The slot at `a` has its answer: RESULT, RETVAL and DONE. -/
structure Answered (m : Memory) (a result ret : Nat) : Prop where
  result : memNat m (a + 2) 2 = result
  ret : memNat m (a + 40) 8 = ret
  done : memNat m (a + 1) 1 % 2 = 1

/-- What leaves the 64 bytes of a slot as they are leaves its answer. -/
theorem Answered.congr {m m' : Memory} {a result ret : Nat} (h : Answered m a result ret)
    (hm : ∀ c, a ≤ c → c < a + 64 → memGet m' c = memGet m c) : Answered m' a result ret where
  result := (memNat_congr fun c _ _ => hm c (by omega) (by omega)).trans h.result
  ret := (memNat_congr fun c _ _ => hm c (by omega) (by omega)).trans h.ret
  done := by rw [memNat_congr fun c _ _ => hm c (by omega) (by omega), h.done]

/-- A command that finishes writes memory, and may raise the interrupt; nothing else changes. -/
theorem State.finishCtl_eq (s : State) (k result ret : Nat) :
    ∃ w : Memory × AMap Nat, s.finishCtl k result ret = { s with mem := w.1, irq := w.2 } := by
  unfold State.finishCtl
  dsimp only
  split
  · exact ⟨(_, _), rfl⟩
  · exact ⟨(_, _), rfl⟩

@[simp] theorem State.finishCtl_ctl (s : State) (k result ret : Nat) : (s.finishCtl k result ret).ctl = s.ctl := by
  obtain ⟨w, h⟩ := s.finishCtl_eq k result ret
  rw [h]

theorem State.finishCtl_mem (s : State) (k result ret : Nat) :
    let a := ctlSlot s.ctl.base k
    let flags := memNat s.mem (a + 1) 1
    (s.finishCtl k result ret).mem =
      memPut (memPut (memPut s.mem (a + 2) 2 result) (a + 40) 8 ret) (a + 1) 1 (flags - flags % 2 + 1) := by
  unfold State.finishCtl
  dsimp only
  split
  · rfl
  · rfl

theorem State.finishCtl_wf {s : State} (k result ret : Nat) (h : Memory.wf s.mem = true) :
    Memory.wf (s.finishCtl k result ret).mem = true := by
  rw [State.finishCtl_mem]
  exact memPut_wf _ _ _ (memPut_wf _ _ _ (memPut_wf _ _ _ h))

theorem State.finishCtl_answered {s : State} (k : Nat) {result ret : Nat} (h : Memory.wf s.mem = true) (hr : result < 65536)
    (hv : ret < 2 ^ 64) : Answered (s.finishCtl k result ret).mem (ctlSlot s.ctl.base k) result ret := by
  rw [State.finishCtl_mem]
  generalize ctlSlot s.ctl.base k = a
  have h1 := memPut_wf (a + 2) 2 result h
  have h2 := memPut_wf (a + 40) 8 ret h1
  refine ⟨?_, ?_, ?_⟩
  · rw [memNat_memPut_outside h2 (by omega), memNat_memPut_outside h1 (by omega), memNat_memPut _ _ _ h]
    exact Nat.mod_eq_of_lt hr
  · rw [memNat_memPut_outside h2 (by omega), memNat_memPut _ _ _ h1]
    exact Nat.mod_eq_of_lt hv
  · rw [memNat_memPut _ _ _ h2]
    omega

theorem State.memGet_finishCtl_outside {s : State} {k result ret c : Nat} (h : Memory.wf s.mem = true)
    (hc : c < ctlSlot s.ctl.base k ∨ ctlSlot s.ctl.base k + 64 ≤ c) : memGet (s.finishCtl k result ret).mem c = memGet s.mem c := by
  rw [State.finishCtl_mem]
  have h1 := memPut_wf (ctlSlot s.ctl.base k + 2) 2 result h
  have h2 := memPut_wf (ctlSlot s.ctl.base k + 40) 8 ret h1
  rw [memGet_memPut_outside h2 (by omega), memGet_memPut_outside h1 (by omega), memGet_memPut_outside h (by omega)]

/-- The commands in the slots `ks` finish. -/
def State.finishAll (s : State) (ks : List Nat) (result ret : Nat) : State := ks.foldl (fun s k => s.finishCtl k result ret) s

theorem State.finishAll_eq (s : State) (ks : List Nat) (result ret : Nat) :
    ∃ w : Memory × AMap Nat, s.finishAll ks result ret = { s with mem := w.1, irq := w.2 } :=
  State.foldl_writes (fun s (w : Memory × AMap Nat) => { s with mem := w.1, irq := w.2 }) (fun _ _ _ => rfl)
    (fun s => ⟨(s.mem, s.irq), rfl⟩) (fun s k => s.finishCtl_eq k result ret) ks s

theorem State.memGet_finishAll_outside {ks : List Nat} {s : State} {result ret c : Nat} (h : Memory.wf s.mem = true)
    (hc : ∀ k ∈ ks, c < ctlSlot s.ctl.base k ∨ ctlSlot s.ctl.base k + 64 ≤ c) :
    memGet (s.finishAll ks result ret).mem c = memGet s.mem c := by
  induction ks generalizing s with
  | nil => rfl
  | cons k ks ih =>
    calc memGet ((s.finishCtl k result ret).finishAll ks result ret).mem c
      _ = memGet (s.finishCtl k result ret).mem c :=
        ih (State.finishCtl_wf k result ret h) fun j hj => by
          rw [State.finishCtl_ctl]
          exact hc j (List.mem_cons_of_mem _ hj)
      _ = memGet s.mem c := State.memGet_finishCtl_outside h (hc k List.mem_cons_self)

/-- Slots of their own each have their answer, for none overlaps another. -/
theorem State.finishAll_answered {ks : List Nat} {s : State} {result ret : Nat} (h : Memory.wf s.mem = true) (hr : result < 65536)
    (hv : ret < 2 ^ 64) (hks : ks.Nodup) : ∀ k ∈ ks, Answered (s.finishAll ks result ret).mem (ctlSlot s.ctl.base k) result ret := by
  induction ks generalizing s with
  | nil => exact fun k hk => nomatch hk
  | cons j ks ih =>
    obtain ⟨hj, hks⟩ := List.nodup_cons.1 hks
    have hw := State.finishCtl_wf j result ret h
    intro k hk
    obtain rfl | hk := List.mem_cons.1 hk
    · refine (State.finishCtl_answered k h hr hv).congr fun c h1 h2 => ?_
      refine State.memGet_finishAll_outside hw fun i hi => ?_
      have hne : i ≠ k := fun e => hj (e ▸ hi)
      rw [State.finishCtl_ctl]
      simp only [ctlSlot, hostAddr] at h1 h2 ⊢
      omega
    · have := ih hw hks k hk
      rwa [State.finishCtl_ctl] at this

/-! ## The flush of a frame from the L2 (21 R442; 22 R464, R472) -/

/-- `t` is `s` but for lines of the L2 and the telemetry of paddocks. -/
structure State.Counted (s t : State) : Prop where
  eq : t = { s with paddocks := t.paddocks, l2 := t.l2 }
  paddock : ∀ p, t.paddockAt p = { s.paddockAt p with tele := (t.paddockAt p).tele }

namespace State.Counted

variable {s t u : State}

theorem refl (s : State) : s.Counted s := ⟨rfl, fun _ => rfl⟩

theorem trans (h : s.Counted t) (h' : t.Counted u) : s.Counted u :=
  ⟨by rw [h'.eq, h.eq], fun p => by rw [h'.paddock, h.paddock]⟩

theorem mem (h : s.Counted t) : t.mem = s.mem := by rw [h.eq]

theorem frames (h : s.Counted t) : t.frames = s.frames := by rw [h.eq]

theorem xfers (h : s.Counted t) : t.xfers = s.xfers := by rw [h.eq]

theorem ctl (h : s.Counted t) : t.ctl = s.ctl := by rw [h.eq]

theorem latent (h : s.Counted t) : t.latent = s.latent := by rw [h.eq]

theorem spare (h : s.Counted t) (p : Nat) : (t.paddockAt p).spare = (s.paddockAt p).spare := by rw [h.paddock]

theorem noNotices (h : s.Counted t) (hn : s.noNotices) : t.noNotices := fun p => by
  rw [h.paddock]
  exact hn p

theorem telemetry (s : State) (p k n : Nat) : s.Counted (s.telemetry p k n) := by
  refine ⟨rfl, fun q => ?_⟩
  by_cases hq : q = p
  · subst hq
    simp [State.telemetry]
  · simp [State.telemetry, State.paddockAt_setPaddock_of_ne _ _ hq]

end State.Counted

/-- Where no paddock takes notices no access is counted in a frame (21 R443). -/
theorem State.countAccess_of_noNotices {s : State} (h : s.noNotices) (f : Nat) : s.countAccess f = s := by
  simp [State.countAccess, h (s.frameAt f).owner]

theorem State.counted_lineTransfer {s : State} (h : s.noNotices) (host write : Bool) (p line : Nat) :
    s.Counted (s.lineTransfer host write p line) := by
  have ht := State.Counted.telemetry s p (if write then 3 else 2) 128
  simp only [State.lineTransfer, State.countAccess_of_noNotices (ht.noNotices h), ite_self]
  split
  · exact ht
  · exact ht

/-- A frame flushed from the L2 counts its write-backs; with no latent error a copy that goes takes none with it. -/
theorem State.counted_l2Flush {s : State} (h : s.noNotices) (hl : s.latent = []) (q : Nat) : s.Counted (s.l2Flush q) := by
  have hfold : s.Counted (s.l2.foldl (fun s e => (e.2.filter fun x => x.line / 512 == q).foldl (fun s x =>
      (if x.dirty then (s.readCopy e.1 x.line).lineTransfer false true x.owner x.line else s).dropCopy e.1 x.line) s) s) := by
    refine List.foldlRecOn (motive := s.Counted) _ _ (.refl s) fun u hu e _ => ?_
    refine List.foldlRecOn (motive := s.Counted) _ _ hu fun v hv x _ => ?_
    have hread : v.readCopy e.1 x.line = v := by simp [State.readCopy, hv.latent, hl]
    have hback : s.Counted (if x.dirty then (v.readCopy e.1 x.line).lineTransfer false true x.owner x.line else v) := by
      rw [hread]
      split
      · exact hv.trans (State.counted_lineTransfer (hv.noNotices h) ..)
      · exact hv
    rwa [State.dropCopy, hback.latent, hl, List.isEmpty_nil, if_pos rfl]
  exact hfold.trans ⟨rfl, fun _ => rfl⟩

/-! ## The end of a transfer (21 R442, R446, R447) -/

/-- In state `u`, which `s` has come to, the transfer of frame `f` can end: the transfers, the control ring and the other frames are
those of `s`. -/
structure State.CanEnd (s u : State) (f : Nat) : Prop where
  xfers : u.xfers = s.xfers
  ctl : u.ctl = s.ctl
  others : ∀ g, g ≠ f → u.frameAt g = s.frameAt g

theorem State.CanEnd.setFrame {s u : State} {f : Nat} (e : FrameEntry) (hx : u.xfers = s.xfers) (hc : u.ctl = s.ctl)
    (hf : u.frames = s.frames) : s.CanEnd (u.setFrame f e) f :=
  ⟨hx, hc, fun g hg => by rw [State.frameAt_setFrame_of_ne _ _ hg, State.frameAt, State.frameAt, hf]⟩

/-- From `s` to `r` the transfer of `f` has gone from the list, and the other transfers and frames stand. -/
def State.xferOver (s r : State) (f : Nat) : Prop :=
  amGet r.xfers f = none ∧ (∀ g, g ≠ f → amGet r.xfers g = amGet s.xfers g) ∧
    ∀ g, g ≠ f → (r.frameAt g).state = (s.frameAt g).state ∧ (r.frameAt g).pframe = (s.frameAt g).pframe

section EndXfer

variable {s u : State} {f result ret : Nat} {x : Xfer}

/-- The transfer taken from the list, MOVING cleared. -/
def State.unlistXfer (u : State) (f : Nat) : State :=
  { u with xfers := amDel u.xfers f }.setFrame f { u.frameAt f with moving := false }

theorem State.endXfer_of_xfer (hx : amGet u.xfers f = some x) :
    u.endXfer f result ret = (u.unlistXfer f).finishAll x.slots result ret := by
  simp only [State.endXfer, hx, Option.map_some, Option.getD_some]
  rfl

theorem State.endXfer_eq (u : State) (f result ret : Nat) :
    ∃ w : Memory × AMap Nat, u.endXfer f result ret = { u.unlistXfer f with mem := w.1, irq := w.2 } :=
  (u.unlistXfer f).finishAll_eq _ result ret

theorem State.endXfer_frameAt_self (u : State) (f result ret : Nat) :
    (u.endXfer f result ret).frameAt f = { u.frameAt f with moving := false } := by
  obtain ⟨w, h⟩ := u.endXfer_eq f result ret
  rw [h]
  exact State.frameAt_setFrame_self ..

theorem State.endXfer_paddocks (u : State) (f result ret : Nat) : (u.endXfer f result ret).paddocks = u.paddocks := by
  obtain ⟨w, h⟩ := u.endXfer_eq f result ret
  rw [h]
  rfl

theorem State.CanEnd.xferOver (h : s.CanEnd u f) : s.xferOver (u.endXfer f result ret) f := by
  obtain ⟨w, he⟩ := u.endXfer_eq f result ret
  rw [he]
  refine ⟨amGet_amDel_self .., fun g hg => ?_, fun g hg => ?_⟩
  · rw [← h.xfers]
    exact amGet_amDel_of_ne _ hg
  · have hfr : (u.unlistXfer f).frameAt g = s.frameAt g := (State.frameAt_setFrame_of_ne _ _ hg).trans (h.others g hg)
    exact ⟨congrArg FrameEntry.state hfr, congrArg FrameEntry.pframe hfr⟩

theorem State.CanEnd.answers (h : s.CanEnd u f) (hx : amGet s.xfers f = some x) (hks : x.slots.Nodup) (hw : Memory.wf u.mem = true)
    (hr : result < 65536) (hv : ret < 2 ^ 64) : s.answers (u.endXfer f result ret) x result ret := by
  intro k hk
  rw [State.endXfer_of_xfer (h.xfers ▸ hx), ← h.ctl]
  obtain ⟨h1, h2, h3⟩ := State.finishAll_answered (s := u.unlistXfer f) hw hr hv hks k hk
  exact ⟨h1, h2, h3⟩

/-- Bytes outside the slots of the finished commands are those that stood before its end. -/
theorem State.CanEnd.memGet_outside (h : s.CanEnd u f) (hx : amGet s.xfers f = some x) (hw : Memory.wf u.mem = true) {c : Nat}
    (hc : ∀ k ∈ x.slots, c < ctlSlot s.ctl.base k ∨ ctlSlot s.ctl.base k + 64 ≤ c) :
    memGet (u.endXfer f result ret).mem c = memGet u.mem c := by
  rw [State.endXfer_of_xfer (h.xfers ▸ hx)]
  exact State.memGet_finishAll_outside (s := u.unlistXfer f) hw (h.ctl ▸ hc)

/-- After a copy of 65,536 bytes the end of the transfer leaves the frame moved. -/
theorem State.CanEnd.movesFrame (h : s.CanEnd u f) (hx : amGet s.xfers f = some x) (hw : s.memCanonical) {a b : Nat}
    (hm : u.mem = memCopy s.mem a b 65536) : s.movesFrame (u.endXfer f result ret) x a b := by
  intro c hc
  rw [h.memGet_outside hx (hm ▸ memCopy_wf a b 65536 hw) hc, hm, memGet_memCopy _ _ _ _ hw]

theorem State.CanEnd.answers_of_copy (h : s.CanEnd u f) (hx : amGet s.xfers f = some x) (hks : x.slots.Nodup) (hw : s.memCanonical)
    {a b : Nat} (hm : u.mem = memCopy s.mem a b 65536) (hr : result < 65536) (hv : ret < 2 ^ 64) :
    s.answers (u.endXfer f result ret) x result ret :=
  h.answers hx hks (hm ▸ memCopy_wf a b 65536 hw) hr hv

end EndXfer

/-! ## The steps that end a transfer -/

section Transfers

variable {s : State} {f q : Nat} {x : Xfer}

theorem State.latent_of_sound (h : s.sound = true) : s.latent = [] := by
  simp only [State.sound, Bool.and_eq_true, List.isEmpty_iff] at h
  exact h.2

/-- Where nothing is wrong with any line a copy moves the bytes. -/
theorem State.copyLines_of_sound (h : s.sound = true) (a b n : Nat) :
    s.copyLines a b n = { s with
      mem := memCopy s.mem a b n
      sealer := s.movedSealers a b n
      poison := moveLines a b n s.poison
      badSeal := moveSeals a b n s.badSeal
      latent := s.latent.filter fun e => e.1 * 64 < b || b + n ≤ e.1 * 64 } := by
  simp only [State.copyLines, h, if_true]

/-- Where no paddock takes notices none is posted (21 R443). -/
theorem State.postNotice_of_noNotices (h : s.noNotices) (p f kind val : Nat) : s.postNotice p f kind val = (s, false) := by
  simp [State.postNotice, h p]

/-- A failed return ends tasks alone. -/
theorem State.failWaiting_eq (s : State) (f : Nat) : ∃ ts, s.failWaiting f = { s with tasks := ts } := by
  refine State.foldl_writes (fun s ts => { s with tasks := ts }) (fun _ _ _ => rfl) (fun s => ⟨s.tasks, rfl⟩) (fun s e => ?_) _ s
  split
  · exact ⟨_, rfl⟩
  · exact ⟨s.tasks, rfl⟩

/-- FRAME_RETURN of a return that succeeds: the bytes copied, the physical frame taken from the spare pool. -/
def State.returned (s : State) (f q : Nat) : State :=
  let e := s.frameAt f
  let d := s.paddockAt e.owner
  (((s.actAs portUnit 0).copyLines (hostAddr e.hostAddr) (hbmAddr q 0) 65536).setPaddock e.owner
    { d with spare := d.spare.filter (· != q) }).setFrame f { e with state := 1, pframe := q, hostAddr := 0 }

theorem exec_frameReturn (hx : amGet s.xfers f = some x) (hk : x.kind = .back q) :
    exec (.frameReturn f true) s = .next ((s.returned f q).endXfer f 0 q) := by
  change execFrameReturn f true s = _
  simp only [execFrameReturn, hx, hk, if_true]
  rfl

theorem exec_frameReturn_failed (hx : amGet s.xfers f = some x) (hk : x.kind = .back q) (hn : s.noNotices) :
    exec (.frameReturn f false) s = .next ((s.failWaiting f).endXfer f 5 0) := by
  change execFrameReturn f false s = _
  simp only [execFrameReturn, hx, hk, State.postNotice_of_noNotices hn, Bool.false_eq_true, if_false]

/-- A return that succeeds (21 R447). -/
theorem frameReturn_moves (hx : amGet s.xfers f = some x) (hks : x.slots.Nodup) (hw : s.memCanonical) (hk : x.kind = .back q)
    (hs : s.sound = true) (hq : q < 9437184) :
    let e := s.frameAt f
    ∃ r : State, exec (.frameReturn f true) s = .next r ∧
      r.frameAt f = { e with state := 1, pframe := q, hostAddr := 0, moving := false } ∧ s.xferOver r f ∧ s.answers r x 0 q ∧
      s.movesFrame r x (hostAddr e.hostAddr) (hbmAddr q 0) ∧
      (r.paddockAt e.owner).spare = (s.paddockAt e.owner).spare.filter (· != q) := by
  intro e
  have hcopy := State.copyLines_of_sound (s := s.actAs portUnit 0) hs (hostAddr e.hostAddr) (hbmAddr q 0) 65536
  have hend : s.CanEnd (s.returned f q) f := by
    refine .setFrame _ ?_ ?_ ?_
    all_goals
      rw [hcopy]
      rfl
  have hm : (s.returned f q).mem = memCopy s.mem (hostAddr e.hostAddr) (hbmAddr q 0) 65536 := by
    change (State.copyLines _ _ _ _).mem = _
    rw [hcopy]
    rfl
  refine ⟨_, exec_frameReturn hx hk, ?_, hend.xferOver, hend.answers_of_copy hx hks hw hm (by omega) (by omega),
    hend.movesFrame hx hw hm, ?_⟩
  · rw [State.endXfer_frameAt_self, State.returned, State.frameAt_setFrame_self]
  · rw [State.paddockAt, State.endXfer_paddocks]
    exact congrArg Paddock.spare (State.paddockAt_setPaddock_self ..)

/-- A return that fails leaves the frame offloaded (21 R447). -/
theorem frameReturn_fails (hx : amGet s.xfers f = some x) (hks : x.slots.Nodup) (hw : s.memCanonical) (hn : s.noNotices)
    (hk : x.kind = .back q) :
    ∃ r : State, exec (.frameReturn f false) s = .next r ∧ r.frameAt f = { s.frameAt f with moving := false } ∧ s.xferOver r f ∧
      s.answers r x 5 0 := by
  obtain ⟨ts, ht⟩ := s.failWaiting_eq f
  have hend : s.CanEnd (s.failWaiting f) f := by
    rw [ht]
    exact ⟨rfl, rfl, fun _ _ => rfl⟩
  have hwf : Memory.wf (s.failWaiting f).mem = true := by
    rw [ht]
    exact hw
  refine ⟨_, exec_frameReturn_failed hx hk hn, ?_, hend.xferOver, hend.answers hx hks hwf (by decide) (by decide)⟩
  rw [State.endXfer_frameAt_self, ht]
  rfl

/-- MIGRATION_FLIP: the bytes copied, the frame's old place flushed from the L2. -/
def State.migrated (s : State) (f q : Nat) : State :=
  let e := s.frameAt f
  ((s.copyLines (hbmAddr e.pframe 0) (hbmAddr q 0) 65536).l2Flush e.pframe).setFrame f { e with pframe := q, cnt := 0, noted := false }

theorem exec_migrationFlip (hx : amGet s.xfers f = some x) (hk : x.kind = .migrate q) :
    exec (.migrationFlip f) s = .next ((s.migrated f q).endXfer f 0 0) := by
  change execMigrationFlip f s = _
  simp only [execMigrationFlip, hx, hk]
  rfl

/-- A migration (21 R442). -/
theorem migrationFlip_moves (hx : amGet s.xfers f = some x) (hks : x.slots.Nodup) (hw : s.memCanonical) (hn : s.noNotices)
    (hk : x.kind = .migrate q) (hs : s.sound = true) :
    let e := s.frameAt f
    ∃ r : State, exec (.migrationFlip f) s = .next r ∧
      r.frameAt f = { e with pframe := q, cnt := 0, noted := false, moving := false } ∧ s.xferOver r f ∧ s.answers r x 0 0 ∧
      s.movesFrame r x (hbmAddr e.pframe 0) (hbmAddr q 0) := by
  intro e
  have hcopy := State.copyLines_of_sound hs (hbmAddr e.pframe 0) (hbmAddr q 0) 65536
  have hflush : (s.copyLines (hbmAddr e.pframe 0) (hbmAddr q 0) 65536).Counted
      ((s.copyLines (hbmAddr e.pframe 0) (hbmAddr q 0) 65536).l2Flush e.pframe) := by
    rw [hcopy]
    refine State.counted_l2Flush ?_ ?_ _
    · exact hn
    · simp [State.latent_of_sound hs]
  have hend : s.CanEnd (s.migrated f q) f := by
    refine .setFrame _ (hflush.xfers.trans ?_) (hflush.ctl.trans ?_) (hflush.frames.trans ?_)
    all_goals rw [hcopy]
  have hm : (s.migrated f q).mem = memCopy s.mem (hbmAddr e.pframe 0) (hbmAddr q 0) 65536 := by
    refine hflush.mem.trans ?_
    rw [hcopy]
  refine ⟨_, exec_migrationFlip hx hk, ?_, hend.xferOver, hend.answers_of_copy hx hks hw hm (by decide) (by decide),
    hend.movesFrame hx hw hm⟩
  rw [State.endXfer_frameAt_self, State.migrated, State.frameAt_setFrame_self]

@[simp] theorem State.frameAt_setPaddock (s : State) (p : Nat) (d : Paddock) (f : Nat) : (s.setPaddock p d).frameAt f = s.frameAt f := rfl

/-- The bytes of an offload laid in host memory, the frame's place flushed from the L2. -/
def State.laidOut (s : State) (f h : Nat) : State :=
  let q := (s.frameAt f).pframe
  ({ s.actAs portUnit 0 with mem := memCopy s.mem (hbmAddr q 0) (hostAddr h) 65536 } : State).l2Flush q

/-- OFFLOAD_COMPLETE: the place joins the spare pool, the frame is offloaded. -/
def State.offloaded (s : State) (f h : Nat) : State :=
  let e := s.frameAt f
  let u := s.laidOut f h
  let d := u.paddockAt e.owner
  let v := u.setPaddock e.owner { d with spare := d.spare ++ [e.pframe], poolNoted := false }
  v.setFrame f { v.frameAt f with state := 2, pframe := 0, hostAddr := h, cnt := 0, noted := false }

theorem exec_offloadComplete (hx : amGet s.xfers f = some x) (hk : x.kind = .offload q) (hs : s.sound = true) :
    exec (.offloadComplete f true) s = .next ((s.offloaded f q).endXfer f 0 0) := by
  have hexit (a n : Nat) : (s.actAs portUnit 0).exitLines a n = (s.actAs portUnit 0, false) := if_pos hs
  change execOffloadComplete f true s = _
  simp only [execOffloadComplete, hx, hk, hexit, if_true, Bool.false_eq_true, if_false]
  rfl

theorem exec_offloadComplete_failed (hx : amGet s.xfers f = some x) (hk : x.kind = .offload q) :
    exec (.offloadComplete f false) s = .next (s.endXfer f 5 0) := by
  change execOffloadComplete f false s = _
  simp only [execOffloadComplete, hx, hk, Bool.false_eq_true, if_false]

/-- An offload that succeeds (21 R446). -/
theorem offloadComplete_moves (hx : amGet s.xfers f = some x) (hks : x.slots.Nodup) (hw : s.memCanonical) (hn : s.noNotices)
    (hk : x.kind = .offload q) (hs : s.sound = true) :
    let e := s.frameAt f
    ∃ r : State, exec (.offloadComplete f true) s = .next r ∧
      r.frameAt f = { e with state := 2, pframe := 0, hostAddr := q, cnt := 0, noted := false, moving := false } ∧ s.xferOver r f ∧
      s.answers r x 0 0 ∧ s.movesFrame r x (hbmAddr e.pframe 0) (hostAddr q) ∧
      (r.paddockAt e.owner).spare = (s.paddockAt e.owner).spare ++ [e.pframe] := by
  intro e
  have hflush : ({ s.actAs portUnit 0 with mem := memCopy s.mem (hbmAddr e.pframe 0) (hostAddr q) 65536 } : State).Counted
      (s.laidOut f q) := by
    refine State.counted_l2Flush ?_ ?_ _
    · exact hn
    · exact State.latent_of_sound hs
  have hend : s.CanEnd (s.offloaded f q) f := .setFrame _ hflush.xfers hflush.ctl hflush.frames
  have hm : (s.offloaded f q).mem = memCopy s.mem (hbmAddr e.pframe 0) (hostAddr q) 65536 := hflush.mem
  refine ⟨_, exec_offloadComplete hx hk hs, ?_, hend.xferOver, hend.answers_of_copy hx hks hw hm (by decide) (by decide),
    hend.movesFrame hx hw hm, ?_⟩
  · have hfr : (s.laidOut f q).frameAt f = e := by
      rw [State.frameAt, hflush.frames]
      rfl
    rw [State.endXfer_frameAt_self, State.offloaded, State.frameAt_setFrame_self, State.frameAt_setPaddock, hfr]
  · rw [State.paddockAt, State.endXfer_paddocks]
    change ((State.setPaddock _ e.owner _).paddockAt e.owner).spare = _
    rw [State.paddockAt_setPaddock_self]
    exact congrArg (· ++ [e.pframe]) (hflush.spare e.owner)

/-- An offload that fails leaves the frame resident (21 R446). -/
theorem offloadComplete_fails (hx : amGet s.xfers f = some x) (hks : x.slots.Nodup) (hw : s.memCanonical) (hk : x.kind = .offload q) :
    ∃ r : State, exec (.offloadComplete f false) s = .next r ∧ r.frameAt f = { s.frameAt f with moving := false } ∧ s.xferOver r f ∧
      s.answers r x 5 0 := by
  have hend : s.CanEnd s f := ⟨rfl, rfl, fun _ _ => rfl⟩
  exact ⟨_, exec_offloadComplete_failed hx hk, State.endXfer_frameAt_self .., hend.xferOver,
    hend.answers hx hks hw (by decide) (by decide)⟩

end Transfers

/-! ## Leases (02 R56 to R59; 21 R440) -/

section Leases

variable {s r : State} {p seq f q : Nat} {t : Task}

/-- LEASE_GRANT does what can be done for the first of the tasks that it concerns. -/
theorem exec_leaseGrant (hf : s.findTask p seq (s.grantable p) = some t) (hr : s.grantTo p t = some r) :
    exec (.leaseGrant p seq) s = .next r := by
  obtain ⟨e, he, rfl⟩ := Option.map_eq_some_iff.1 hf
  rw [← List.head?_filter] at he
  obtain ⟨es, hes⟩ := List.head?_eq_some_iff.1 he
  change execLeaseGrant p seq s = _
  simp only [execLeaseGrant, hes, List.findSome?_cons, hr]

/-- Every lease passes the check of a grant where each of its frames does. -/
theorem State.leases_pass_iff {ls : List Lease} : (ls.all fun l => s.leaseOk p l && s.framesOk p l) = true ↔
    (∀ l ∈ ls, s.leaseOk p l = true) ∧
      ∀ f ∈ ls.flatMap (s.leaseFrames p), (s.frameAt f).owner = p ∧ (s.frameAt f).state ∈ [1, 2] := by
  simp only [List.all_eq_true, Bool.and_eq_true, State.framesOk, List.mem_flatMap, Bool.or_eq_true, beq_iff_eq, List.mem_cons,
    List.not_mem_nil, or_false]
  constructor
  · intro h
    refine ⟨fun l hl => (h l hl).1, ?_⟩
    rintro f ⟨l, hl, hf⟩
    exact (h l hl).2 f hf
  · rintro ⟨h1, h2⟩ l hl
    exact ⟨h1 l hl, fun f hf => h2 f ⟨l, hl, hf⟩⟩

theorem State.grantTo_of_fail (h : ¬ (t.leases.all fun l => s.leaseOk p l && s.framesOk p l) = true) :
    s.grantTo p t = some (s.setTask t.tid (t.refused .LS 5)) := by
  rw [Bool.not_eq_true] at h
  simp only [State.grantTo, h, Bool.not_false, if_true]

/-- Nothing is done about a frame that is not offloaded and not under transfer. -/
theorem State.needFrame_of_resident (h1 : (s.frameAt f).state = 1) (hx : amGet s.xfers f = none) : s.needFrame p f = s := by
  simp [State.needFrame, h1, hx]

/-- An offloaded frame is called back to the lowest spare frame. -/
theorem State.needFrame_of_offloaded (h2 : (s.frameAt f).state = 2) (hx : amGet s.xfers f = none) (hq : s.spareFrame p = some q) :
    s.needFrame p f = s.startXfer f ⟨.back q, []⟩ := by
  simp [State.needFrame, h2, hx, hq]

/-- With every frame resident the leases are granted: the task is queued. -/
theorem State.grantTo_of_resident (hok : (t.leases.all fun l => s.leaseOk p l && s.framesOk p l) = true)
    (hfs : ∀ f ∈ t.leases.flatMap (s.leaseFrames p), (s.frameAt f).state = 1 ∧ amGet s.xfers f = none) (hx : t.xform = none) :
    s.grantTo p t = some (s.setTask t.tid { t with state := .queued }) := by
  have hfs : ∀ f ∈ (t.leases.flatMap (s.leaseFrames p)).dedup, (s.frameAt f).state = 1 ∧ amGet s.xfers f = none := fun f hf =>
    hfs f (List.mem_dedup.1 hf)
  have hneed : (t.leases.flatMap (s.leaseFrames p)).dedup.foldl (fun s f => s.needFrame p f) s = s := by
    refine List.foldlRecOn (motive := (· = s)) _ _ rfl fun u hu f hf => ?_
    rw [hu]
    exact State.needFrame_of_resident (hfs f hf).1 (hfs f hf).2
  have hall : ((t.leases.flatMap (s.leaseFrames p)).dedup.all fun f => (s.frameAt f).state == 1) = true := by
    simpa only [List.all_eq_true, beq_iff_eq] using fun f hf => (hfs f hf).1
  simp only [State.grantTo, hok, hneed, hall, hx, Bool.not_true, Bool.false_eq_true, if_false, if_true]

/-- One frame that is offloaded is called back, the task waiting on. -/
theorem State.grantTo_of_offloaded (hok : (t.leases.all fun l => s.leaseOk p l && s.framesOk p l) = true)
    (hfs : t.leases.flatMap (s.leaseFrames p) = [f]) (h2 : (s.frameAt f).state = 2) (hx : amGet s.xfers f = none)
    (hq : s.spareFrame p = some q) : s.grantTo p t = some (s.startXfer f ⟨.back q, []⟩) := by
  have hstate : ((s.startXfer f ⟨.back q, []⟩).frameAt f).state = 2 := by
    rw [State.startXfer, State.frameAt_setFrame_self, h2]
  have hne : s.startXfer f ⟨.back q, []⟩ ≠ s := fun h => by
    have hg : amGet (s.startXfer f ⟨.back q, []⟩).xfers f = some ⟨.back q, []⟩ := amGet_amSet_self ..
    rw [h, hx] at hg
    cases hg
  simp [State.grantTo, hok, hfs, State.needFrame_of_offloaded h2 hx hq, hstate, hne]

end Leases

/-! ## The notification queue (21 R443, R445) -/

theorem exec_nqhead (s : State) (p v : Nat) : exec (.nqhead p v) s =
    .next (s.setPaddock p { s.paddockAt p with nq := { (s.paddockAt p).nq with head := v % 65536 } }) := rfl

/-- NOTICE_OVF_CLEAR where no frame stands at the threshold. -/
theorem exec_noticeOvfClear {s : State} {p : Nat} (h : ∀ e ∈ s.frames, e.2.state = 1 → e.2.owner = p →
      (s.paddockAt p).nq.thresh = 0 ∨ e.2.cnt < (s.paddockAt p).nq.thresh) :
    exec (.noticeOvfClear p) s = .next (s.setPaddock p { s.paddockAt p with nq := { (s.paddockAt p).nq with ovf := false } }) := by
  have hdue : s.frames.filter (fun e => e.2.state == 1 && e.2.owner == p && (s.paddockAt p).nq.thresh != 0 &&
      (s.paddockAt p).nq.thresh ≤ e.2.cnt) = [] := by
    refine List.filter_eq_nil_iff.2 fun e he hc => ?_
    simp only [Bool.and_eq_true, beq_iff_eq, bne_iff_ne, decide_eq_true_eq] at hc
    obtain ⟨⟨⟨h1, h2⟩, h3⟩, h4⟩ := hc
    have := h e he h1 h2
    omega
  change execNoticeOvfClear p s = _
  simp only [execNoticeOvfClear, State.setPaddock_frames, hdue, List.map_nil, List.foldl_nil]

/-- Settles O51: what LEASE_GRANT does is decided by the check of a grant and the frames' residence; a transfer that ends has copied its
64 KiB, and after that only the slots of its commands are written. -/
theorem leaseAndFrameSteps : Obligations.LeaseAndFrameSteps := by
  unfold Obligations.LeaseAndFrameSteps
  refine ⟨?_, ?_, ?_, ?_⟩
  · intro s p seq t hf
    refine ⟨fun hbad => exec_leaseGrant hf (State.grantTo_of_fail ?_), fun hok how => ⟨fun hfs hx => ?_, fun f q hfs h2 hx hq => ?_⟩⟩
    · rw [State.leases_pass_iff]
      rintro ⟨hok, hfs⟩
      obtain ⟨l, hl, hl'⟩ | ⟨f, hf, hf'⟩ := hbad
      · exact absurd (hok l hl) (by simp [hl'])
      · obtain ⟨h1, h2⟩ := hfs f hf
        exact hf'.elim (· h1) (· h2)
    · refine exec_leaseGrant hf (State.grantTo_of_resident (State.leases_pass_iff.2 ⟨hok, fun f hf => ⟨how f hf, ?_⟩⟩) hfs hx)
      simp [(hfs f hf).1]
    · have how : ∀ g ∈ t.leases.flatMap (s.leaseFrames p), (s.frameAt g).owner = p := how
      have hpass : (t.leases.all fun l => s.leaseOk p l && s.framesOk p l) = true :=
        State.leases_pass_iff.2 ⟨hok, fun g hg => ⟨how g hg, by
          obtain rfl := List.mem_singleton.1 (hfs ▸ hg)
          simp [h2]⟩⟩
      exact ⟨_, exec_leaseGrant hf (State.grantTo_of_offloaded hpass hfs h2 hx hq), amGet_amSet_self ..,
        State.frameAt_setFrame_self .., rfl, rfl⟩
  · intro s f q x hx hks hw hn
    exact ⟨fun hk hs hq => frameReturn_moves hx hks hw hk hs hq, fun hk => frameReturn_fails hx hks hw hn hk,
      fun hk hs _ => migrationFlip_moves hx hks hw hn hk hs, fun hk hs => offloadComplete_moves hx hks hw hn hk hs,
      fun hk => offloadComplete_fails hx hks hw hk⟩
  · intro s p v hv
    refine ⟨_, exec_nqhead s p v, ?_, rfl⟩
    rw [State.paddockAt_setPaddock_self]
    exact Nat.mod_eq_of_lt hv
  · intro s p h
    refine ⟨_, exec_noticeOvfClear h, ?_, rfl⟩
    rw [State.paddockAt_setPaddock_self]

end Sys2Proof.Machine
end

section
/-! Element-wise words of class V on the rows of run registers (05 R121 to R124; 10 R255 to R259). -/
namespace Sys2Proof.Machine

/-! ## The elements of a row (05 R115, R121, R124) -/

theorem chain_dropRuns (r : List Run) (n : Nat) : chain (dropRuns r n) = chain r - n := by
  induction r generalizing n with
  | nil => simp [dropRuns, chain]
  | cons q r ih =>
    simp only [dropRuns, chain]
    split
    · simp only [chain]
      omega
    · rw [ih]
      omega

theorem elemAt_dropRuns (r : List Run) (n j : Nat) : elemAt (dropRuns r n) j = elemAt r (n + j) := by
  induction r generalizing n with
  | nil => rfl
  | cons q r ih =>
    by_cases hn : n < q.cnt
    · simp only [dropRuns, elemAt, hn, if_true]
      congr 1
      · simp only [eq_iff_iff]
        omega
      · congr 1
        omega
    · simp only [dropRuns, elemAt, hn, if_false, ih, show ¬n + j < q.cnt by omega]
      congr 1
      omega

theorem length_dropRuns_le (r : List Run) (n : Nat) : (dropRuns r n).length ≤ r.length := by
  induction r generalizing n with
  | nil => exact Nat.le_refl _
  | cons q r ih =>
    simp only [dropRuns]
    split
    · exact Nat.le_refl _
    · exact (ih _).trans (Nat.le_succ _)

theorem chain_mergeRuns (r : List Run) : chain (mergeRuns r) = chain r := by
  induction r with
  | nil => rfl
  | cons q r ih =>
    simp only [mergeRuns, chain, ← ih]
    cases mergeRuns r with
    | nil => rfl
    | cons p ps =>
      dsimp only
      split
      · simp only [chain]
        omega
      · rfl

theorem elemAt_mergeRuns (r : List Run) (j : Nat) : elemAt (mergeRuns r) j = elemAt r j := by
  induction r generalizing j with
  | nil => rfl
  | cons q r ih =>
    simp only [mergeRuns, elemAt, ← ih]
    cases mergeRuns r with
    | nil => rfl
    | cons p ps =>
      dsimp only
      split
      case isTrue hval =>
        by_cases hq : j < q.cnt
        · simp only [elemAt, hq, if_true, show j < q.cnt + p.cnt by omega]
        · simp only [elemAt, hq, if_false, hval, Nat.sub_sub, show j < q.cnt + p.cnt ↔ j - q.cnt < p.cnt by omega]
      case isFalse => rfl

theorem length_mergeRuns_le (r : List Run) : (mergeRuns r).length ≤ r.length := by
  induction r with
  | nil => exact Nat.le_refl _
  | cons q r ih =>
    simp only [mergeRuns]
    revert ih
    cases mergeRuns r with
    | nil => simp
    | cons p ps =>
      dsimp only
      split
      all_goals
        simp only [List.length_cons]
        omega

/-! ## The pieces of rows of equal chainage (05 R121) -/

/-- The counts of a row's runs are those of 05 R115. -/
def countsOk (r : List Run) : Prop := ∀ q ∈ r, 1 ≤ q.cnt ∧ q.cnt ≤ 4096

theorem countsOk_dropRuns {r : List Run} (h : countsOk r) (n : Nat) : countsOk (dropRuns r n) := by
  induction r generalizing n with
  | nil => exact h
  | cons q r ih =>
    obtain ⟨hq, hr⟩ := List.forall_mem_cons.1 h
    simp only [dropRuns]
    split
    · exact List.forall_mem_cons.2 ⟨by dsimp only; omega, hr⟩
    · exact ih hr _

/-- The first run of a row that has one. -/
def headRun (r : List Run) : Run := r.headD ⟨0, 0⟩

theorem filterMap_head? {rs : List (List Run)} (h : ∀ r ∈ rs, r ≠ []) : rs.filterMap List.head? = rs.map headRun := by
  rw [← List.filterMap_eq_map]
  refine List.filterMap_congr fun r hr => ?_
  obtain ⟨q, qs, rfl⟩ := List.exists_cons_of_ne_nil (h r hr)
  rfl

/-- The length of the first piece: the shortest first run. -/
def firstLen (rs : List (List Run)) : Nat := (rs.map headRun).foldl (fun m r => min m r.cnt) 4096

theorem foldl_min_le (l : List Run) (m : Nat) :
    l.foldl (fun m r => min m r.cnt) m ≤ m ∧ ∀ q ∈ l, l.foldl (fun m r => min m r.cnt) m ≤ q.cnt := by
  induction l generalizing m with
  | nil => simp
  | cons p l ih =>
    obtain ⟨h1, h2⟩ := ih (min m p.cnt)
    exact ⟨h1.trans (min_le_left ..), List.forall_mem_cons.2 ⟨h1.trans (min_le_right ..), h2⟩⟩

theorem foldl_min_mem (l : List Run) (m : Nat) :
    l.foldl (fun m r => min m r.cnt) m = m ∨ ∃ q ∈ l, l.foldl (fun m r => min m r.cnt) m = q.cnt := by
  induction l generalizing m with
  | nil => exact .inl rfl
  | cons p l ih =>
    rw [List.foldl_cons]
    obtain h | ⟨q, hq, h⟩ := ih (min m p.cnt)
    · rcases min_choice m p.cnt with hm | hm
      · exact .inl (h.trans hm)
      · exact .inr ⟨p, List.mem_cons_self, h.trans hm⟩
    · exact .inr ⟨q, List.mem_cons_of_mem _ hq, h⟩

theorem firstLen_le {rs : List (List Run)} {r : List Run} (h : r ∈ rs) : firstLen rs ≤ (headRun r).cnt :=
  (foldl_min_le _ _).2 _ (List.mem_map_of_mem h)

/-- Some row's first run is no longer than the first piece. -/
theorem exists_head_le_firstLen {rs : List (List Run)} (hrs : rs ≠ []) (hok : ∀ r ∈ rs, countsOk r) (hne : ∀ r ∈ rs, r ≠ []) :
    ∃ r ∈ rs, (headRun r).cnt ≤ firstLen rs := by
  obtain h | ⟨q, hq, h⟩ := foldl_min_mem (rs.map headRun) 4096
  · obtain ⟨r, hr⟩ := List.exists_mem_of_ne_nil rs hrs
    obtain ⟨q, qs, rfl⟩ := List.exists_cons_of_ne_nil (hne r hr)
    exact ⟨_, hr, (hok _ hr q List.mem_cons_self).2.trans h.ge⟩
  · obtain ⟨r, hr, rfl⟩ := List.mem_map.1 hq
    exact ⟨r, hr, h.ge⟩

theorem headRun_cnt_le_chain (r : List Run) : (headRun r).cnt ≤ chain r := by
  cases r with
  | nil => exact Nat.le_refl _
  | cons q r => exact Nat.le_add_right ..

theorem elemAt_of_lt_headRun {r : List Run} {j : Nat} (h : j < (headRun r).cnt) : elemAt r j = (headRun r).val := by
  cases r with
  | nil => cases h
  | cons q r => exact if_pos h

theorem length_dropRuns_lt {r : List Run} {n : Nat} (hr : r ≠ []) (h : (headRun r).cnt ≤ n) : (dropRuns r n).length < r.length := by
  obtain ⟨q, qs, rfl⟩ := List.exists_cons_of_ne_nil hr
  rw [dropRuns, if_neg (Nat.not_lt.2 h : ¬n < q.cnt)]
  exact Nat.lt_succ_of_le (length_dropRuns_le ..)

/-- The runs that the rows hold together: what the fuel of `pieces` counts. -/
def runCount (rs : List (List Run)) : Nat := (rs.map List.length).sum

theorem runCount_dropRuns_lt {rs : List (List Run)} {n : Nat} (hne : ∀ r ∈ rs, r ≠ []) (h : ∃ r ∈ rs, (headRun r).cnt ≤ n) :
    runCount (rs.map (dropRuns · n)) < runCount rs := by
  obtain ⟨r, hr, hn⟩ := h
  rw [runCount, List.map_map]
  exact List.sum_lt_sum _ _ (fun _ _ => length_dropRuns_le ..) ⟨r, hr, length_dropRuns_lt (hne r hr) hn⟩

theorem runCount_lt_pieceFuel (rs : List (List Run)) : runCount rs < pieceFuel rs := by
  have h (m : Nat) : rs.foldl (fun a r => a + r.length) m = m + runCount rs := by
    induction rs generalizing m with
    | nil => rfl
    | cons r rs ih => simp only [List.foldl_cons, ih, runCount, List.map_cons, List.sum_cons, Nat.add_assoc]
  rw [pieceFuel, h]
  omega

/-- The first piece and those after it, where every row has a run. -/
theorem pieces_succ {rs : List (List Run)} (fuel : Nat) (hne : ∀ r ∈ rs, r ≠ []) :
    pieces (fuel + 1) rs =
      (rs.map fun r => (headRun r).val, firstLen rs) :: pieces fuel (rs.map (dropRuns · (firstLen rs))) := by
  have hany : rs.any List.isEmpty = false := by simpa using hne
  rw [pieces, filterMap_head? hne, hany, if_neg Bool.false_ne_true]
  simp only [List.map_map]
  rfl

/-- A row with a run for each piece: `f` of the rows' values on it. -/
def mapPieces (f : List Half → Half) (ps : List (List Half × Nat)) : List Run := ps.map fun p => ⟨f p.1, p.2⟩

theorem mapPieces_cons (f : List Half → Half) (vs : List Half) (n : Nat) (ps : List (List Half × Nat)) :
    mapPieces f ((vs, n) :: ps) = ⟨f vs, n⟩ :: mapPieces f ps := rfl

/-- Rows of one chainage `h`: their pieces cover it, and at each element `f` has been applied to the elements there. -/
theorem pieces_spec (f : List Half → Half) {fuel : Nat} {rs : List (List Run)} {h : Nat} (hrs : rs ≠ [])
    (hok : ∀ r ∈ rs, countsOk r) (hch : ∀ r ∈ rs, chain r = h) (hfuel : runCount rs < fuel) :
    chain (mapPieces f (pieces fuel rs)) = h ∧
      ∀ j < h, elemAt (mapPieces f (pieces fuel rs)) j = f (rs.map (elemAt · j)) := by
  induction fuel generalizing rs h with
  | zero => cases hfuel
  | succ fuel ih =>
    by_cases hne : ∀ r ∈ rs, r ≠ []
    case neg =>
      have hany : rs.any List.isEmpty = true := by simpa using hne
      have h0 : h = 0 := by
        push Not at hne
        obtain ⟨r, hr, rfl⟩ := hne
        exact (hch _ hr).symm
      rw [pieces, if_pos hany, h0]
      exact ⟨rfl, nofun⟩
    case pos =>
      have hshort := exists_head_le_firstLen hrs hok hne
      have hle : firstLen rs ≤ h := by
        obtain ⟨r, hr⟩ := List.exists_mem_of_ne_nil rs hrs
        exact hch r hr ▸ (firstLen_le hr).trans (headRun_cnt_le_chain r)
      obtain ⟨ihc, ihe⟩ := ih (rs := rs.map (dropRuns · (firstLen rs))) (h := h - firstLen rs) (by simpa using hrs)
        (List.forall_mem_map.2 fun r hr => countsOk_dropRuns (hok r hr) _)
        (List.forall_mem_map.2 fun r hr => by rw [chain_dropRuns, hch r hr])
        (by have := runCount_dropRuns_lt hne hshort; omega)
      rw [pieces_succ fuel hne, mapPieces_cons]
      refine ⟨by simp only [chain, ihc]; omega, fun j hj => ?_⟩
      simp only [elemAt]
      split
      case isTrue hlt =>
        refine congrArg f (List.map_congr_left fun r hr => ?_)
        exact (elemAt_of_lt_headRun (hlt.trans_le (firstLen_le hr))).symm
      case isFalse hge =>
        rw [ihe _ (by omega), List.map_map]
        refine congrArg f (List.map_congr_left fun r _ => ?_)
        rw [Function.comp_apply, elemAt_dropRuns, Nat.add_sub_of_le (Nat.not_lt.1 hge)]

/-! ## The rows of a result (05 R121 to R124) -/

/-- The row that an element-wise word makes of operand rows: a run for each piece, merged where the word coalesces. -/
def laneRow (coal : Bool) (f : List Half → Half) (rs : List (List Run)) : List Run :=
  (if coal then mergeRuns else id) (mapPieces f (allPieces rs))

section LaneRow

variable (coal : Bool) (f : List Half → Half) {rs : List (List Run)} {h : Nat}

theorem length_laneRow_le : (laneRow coal f rs).length ≤ (allPieces rs).length := by
  have hlen : (mapPieces f (allPieces rs)).length = (allPieces rs).length := List.length_map ..
  cases coal with
  | false => exact hlen.le
  | true => exact (length_mergeRuns_le _).trans hlen.le

theorem chain_laneRow (hrs : rs ≠ []) (hok : ∀ r ∈ rs, countsOk r) (hch : ∀ r ∈ rs, chain r = h) :
    chain (laneRow coal f rs) = h := by
  have hp := (pieces_spec f hrs hok hch (runCount_lt_pieceFuel rs)).1
  cases coal with
  | false => exact hp
  | true => exact (chain_mergeRuns _).trans hp

theorem elemAt_laneRow (hrs : rs ≠ []) (hok : ∀ r ∈ rs, countsOk r) (hch : ∀ r ∈ rs, chain r = h) {j : Nat} (hj : j < h) :
    elemAt (laneRow coal f rs) j = f (rs.map (elemAt · j)) := by
  have hp := (pieces_spec f hrs hok hch (runCount_lt_pieceFuel rs)).2 j hj
  cases coal with
  | false => exact hp
  | true => exact (elemAt_mergeRuns _ _).trans hp

end LaneRow

/-! ## Element-wise words on their operands (05 R121 to R124, R127) -/

theorem lt16_of_mem_rows16 {l : Nat} (h : l ∈ rows16) : l < 16 := List.mem_range.1 h

/-- An operand's chainage differs from a's in row `l`. -/
def rowDiffers (a : VReg) (others : List (Nat × VReg)) (l : Nat) : Bool := others.any fun o => chain (o.2.row l) != chain (a.row l)

theorem isSome_find_chain_ne (a : VReg) (others : List (Nat × VReg)) (l : Nat) :
    ((others.find? fun o => chain (o.2.row l) != chain (a.row l)).map fun o => (o.1, chain (o.2.row l))).isSome =
      rowDiffers a others l := by
  rw [Option.isSome_map, List.isSome_find?, rowDiffers]

theorem checkChains_ok {a : VReg} {others : List (Nat × VReg)}
    (h : ∀ l < 16, ∀ o ∈ others, chain (o.2.row l) = chain (a.row l)) : checkChains a others = .ok () := by
  have hls : rows16.filter (rowDiffers a others) = [] :=
    List.filter_eq_nil_iff.2 fun l hl => by simpa [rowDiffers] using h l (lt16_of_mem_rows16 hl)
  simp only [checkChains, isSome_find_chain_ne, hls]

/-- RN-02 where an operand's chainage differs from a's in a row (05 R122). -/
theorem checkChains_fault {a : VReg} {others : List (Nat × VReg)}
    (h : ∃ l < 16, ∃ o ∈ others, chain (o.2.row l) ≠ chain (a.row l)) :
    ∃ f : FaultRec, f.cls = .RN ∧ f.num = 2 ∧ checkChains a others = .error (.fault f) := by
  obtain ⟨l, hl, o, ho, hne⟩ := h
  have hmem : l ∈ rows16.filter (rowDiffers a others) :=
    List.mem_filter.2 ⟨List.mem_range.2 hl, List.any_eq_true.2 ⟨o, ho, bne_iff_ne.2 hne⟩⟩
  obtain ⟨k, ks, hks⟩ := List.exists_cons_of_ne_nil (List.ne_nil_of_mem hmem)
  simp only [checkChains, isSome_find_chain_ne, hks]
  exact ⟨_, rfl, rfl, rfl⟩

theorem checkRuns_ok (ca : Nat → Nat) {rows : List (List Run)} (h : ∀ l < 16, (rows.getD l []).length ≤ 64) :
    checkRuns ca rows = .ok () := by
  have hls : rows16.filter (fun l => 64 < (rows.getD l []).length) = [] :=
    List.filter_eq_nil_iff.2 fun l hl => by simpa using h l (lt16_of_mem_rows16 hl)
  simp only [checkRuns, hls]

theorem withDraws_nil {α : Type} (xs : List α) : withDraws xs [] = xs.map (·, 0) := by
  induction xs with
  | nil => rfl
  | cons x xs ih => simp [withDraws, ih]

theorem pieceRuns_withDraws_nil (f : PieceFn) (ps : List (List Half × Nat)) :
    pieceRuns f (withDraws ps []) = mapPieces (f · 0) ps := by
  simp only [pieceRuns, withDraws_nil, List.map_map, mapPieces]
  rfl

theorem splitAs_nil {α : Type} (ns : List Nat) : splitAs ns ([] : List α) = ns.map fun _ => [] := by
  induction ns with
  | nil => rfl
  | cons n ns ih => simp [splitAs, ih]

/-- Rows made of pieces where nothing has been drawn. -/
theorem zipWith_pieceRuns_nil (f : PieceFn) (pss : List (List (List Half × Nat))) :
    List.zipWith (fun ps u => pieceRuns f (withDraws ps u)) pss (splitAs (pss.map List.length) []) = pss.map (mapPieces (f · 0)) := by
  simp only [splitAs_nil, List.map_map, List.zipWith_map_right, List.zipWith_self, Function.comp_apply, pieceRuns_withDraws_nil]

/-- The registers that an element-wise word reads, a first. -/
def operands (a : VReg) (others : List (Nat × VReg)) : List VReg := a :: others.map (·.2)

/-- The rows of registers at one row number. -/
def rowsAt (vs : List VReg) (l : Nat) : List (List Run) := vs.map (·.row l)

/-- The sixteen rows that an element-wise word makes of the registers it reads, without draws. -/
def laneRows (coal : Bool) (f : List Half → Half) (vs : List VReg) : List (List Run) :=
  rows16.map fun l => laneRow coal f (rowsAt vs l)

theorem length_laneRows (coal : Bool) (f : List Half → Half) (vs : List VReg) : (laneRows coal f vs).length = 16 := by
  rw [laneRows, List.length_map]
  rfl

theorem getD_map_rows16 (g : Nat → List Run) {l : Nat} (h : l < 16) : (rows16.map g).getD l [] = g l := by
  simp [rows16, List.getD, h]

/-- An element-wise word whose operands agree in chainage and need no more than 64 pieces a row. -/
theorem elementwise_ok {L d : Nat} (coal : Bool) {tag : VTag} {a : VReg} {others : List (Nat × VReg)} (f : PieceFn) {s : State}
    (hch : ∀ l < 16, ∀ o ∈ others, chain (o.2.row l) = chain (a.row l))
    (hlen : ∀ l < 16, (allPieces (rowsAt (operands a others) l)).length ≤ 64) :
    elementwise L d coal false tag a others f s =
      .ok (s.wv L d tag (laneRows coal (f · 0) (operands a others))) := by
  have hruns (c : Bool) : checkRuns (fun l => chain (a.row l)) (laneRows c (f · 0) (operands a others)) = .ok () := by
    refine checkRuns_ok _ fun l hl => ?_
    rw [laneRows, getD_map_rows16 _ hl]
    exact (length_laneRow_le ..).trans (hlen l hl)
  have hrow (l : Nat) : a.row l :: others.map (·.2.row l) = rowsAt (operands a others) l := by
    simp [operands, rowsAt, Function.comp_def]
  have hplain : (rows16.map fun l => allPieces (rowsAt (operands a others) l)).map (mapPieces (f · 0)) =
      laneRows false (f · 0) (operands a others) := List.map_map ..
  have hmerged : (laneRows false (f · 0) (operands a others)).map mergeRuns = laneRows true (f · 0) (operands a others) :=
    List.map_map ..
  cases coal with
  | false =>
    simp [-List.map_map, elementwise, checkChains_ok hch, hrow, pieceRuns_withDraws_nil, zipWith_pieceRuns_nil, hplain, hruns,
      bind, Except.bind, pure, Except.pure]
  | true =>
    simp [-List.map_map, -List.map_zipWith, elementwise, checkChains_ok hch, hrow, zipWith_pieceRuns_nil, hplain, hmerged, hruns,
      bind, Except.bind, pure, Except.pure]

theorem elementwise_fault {L d : Nat} {coal draw : Bool} {tag : VTag} {a : VReg} {others : List (Nat × VReg)} {f : PieceFn} {s : State}
    (h : ∃ l < 16, ∃ o ∈ others, chain (o.2.row l) ≠ chain (a.row l)) :
    ∃ r : FaultRec, r.cls = .RN ∧ r.num = 2 ∧ elementwise L d coal draw tag a others f s = .error (.fault r) := by
  obtain ⟨r, hcls, hnum, hr⟩ := checkChains_fault h
  refine ⟨r, hcls, hnum, ?_⟩
  rw [elementwise, hr]
  rfl

/-! ## What the element-wise words do with their operands (10 R255 to R259) -/

/-- Operand b of a word whose scalar, where it has one, can be read. -/
def State.bLane (s : State) (o : VOps) : BSrc :=
  if o.s = 1 then .scalar ((s.xval o.b).setWidth 32) else .reg (s.ctx.vAt o.b)

theorem State.bSource_eq {s : State} {o : VOps} (h : o.s = 1 → s.readable o.b) : s.bSource o = .ok (s.bLane o) := by
  unfold State.bSource State.bLane
  split
  case isTrue hs =>
    rw [State.rx_of_readable (h hs)]
    rfl
  case isFalse => rfl

theorem State.bLane_tag (s : State) (o : VOps) (t : VTag) :
    (s.bLane o).tag t = if o.s = 1 then t else (s.ctx.vAt o.b).tag := by
  unfold State.bLane
  split
  all_goals rfl

/-- The word takes its operands' tags. -/
def State.laneTags (s : State) (o : VOps) (w : LaneWord) : Bool :=
  w.tags (s.ctx.vAt o.a).tag (if o.s = 1 then (s.ctx.vAt o.a).tag else (s.ctx.vAt o.b).tag) (s.ctx.vAt (vThird o)).tag

/-- The value of a result's element, from the elements `e` of the run registers there. -/
def State.laneValue (s : State) (i : Instr) (o : VOps) (w : LaneWord) (e : Nat → Half) : Half :=
  let y := if o.s = 1 then (s.xval o.b).setWidth 32 else e o.b
  let on := match laneMask i o with
    | some m => e m != 0
    | none => true
  if on then w.fn (s.ctx.vAt o.a).tag (e o.a) y (e (vThird o)) else w.off (e o.a) y

/-- The word draws: it rounds FP32 under RSTO. -/
def State.laneDraws (s : State) (o : VOps) (w : LaneWord) : Bool := w.rounds && o.rnd == 1 && !(s.ctx.vAt o.a).tag.isInt

theorem State.laneDraws_eq_false {s : State} {o : VOps} {w : LaneWord}
    (h : w.rounds = false ∨ o.rnd ≠ 1 ∨ (s.ctx.vAt o.a).tag.isInt = true) : s.laneDraws o w = false := by
  rcases h with h | h | h
  all_goals simp [State.laneDraws, h]

/-- `body` is what the word with operands `o` and meaning `w` does in `s`: FM-11 for tags that it does not take, else an element-wise
operation on a and the registers that it names, which gives `laneValue` where it draws nothing. -/
structure LaneBody (s : State) (i : Instr) (o : VOps) (w : LaneWord) (body : Except Stop State) : Prop where
  refuses : s.laneTags o w = false → body = .error (flt .FM 11)
  computes : s.laneTags o w = true → ∃ (others : List (Nat × VReg)) (f : PieceFn),
    others.map (·.2) = (laneRegs i o w).map s.ctx.vAt ∧
    (∀ e : Nat → Half, f ((o.a :: laneRegs i o w).map e) 0 = s.laneValue i o w e) ∧
    body = elementwise 4 o.d (o.c == 1) (s.laneDraws o w) (w.res (s.ctx.vAt o.a).tag) (s.ctx.vAt o.a) others f s

/-- The meaning that the arguments of `binaryBody` state; it takes the tags `tags`. -/
def binaryLane (tags : VTag → VTag → VTag → Bool) (third rounds : Bool) (res : VTag → VTag)
    (f : VTag → Half → Half → Half → Nat → Half) (off : Half → Half) : LaneWord where
  tags := tags
  reads := true
  third := third
  rounds := rounds
  res := res
  fn t x y z := f t x y (if third then z else 0) 0
  off x _ := off x

section Bodies

variable {s : State} {i : Instr} {o : VOps}

/-- A word whose body is `binaryBody` and whose meaning its arguments state; the tags are those that the body checks. -/
theorem laneBody_binary {w : LaneWord} (hb : o.s = 1 → s.readable o.b) (hm : laneMask i o = vMask o) {ok : VTag → VTag → Bool}
    {third rounds : Bool} {res : VTag → VTag} {f : VTag → Half → Half → Half → Nat → Half} {off : Half → Half}
    (hw : w = binaryLane w.tags third rounds res f off) (htags : ∀ a b c, w.tags a b c = (ok a b && (!third || c == a))) :
    LaneBody s i o w (binaryBody o ok third rounds res f off s) := by
  have hcheck : (ok (s.ctx.vAt o.a).tag ((s.bLane o).tag (s.ctx.vAt o.a).tag) &&
      (!third || (s.ctx.vAt (vThird o)).tag == (s.ctx.vAt o.a).tag)) = s.laneTags o w := by
    rw [State.bLane_tag]
    exact (htags ..).symm
  refine ⟨fun ht => ?_, fun ht => ?_⟩
  · simp [binaryBody, State.bSource_eq hb, hcheck, ht, needTag, need, bind, Except.bind]
  · simp only [binaryBody, State.bSource_eq hb, hcheck, ht, needTag, need, bind, Except.bind, if_true]
    rw [hw]
    refine ⟨_, _, ?_, fun e => ?_, rfl⟩
    -- b, c and the mask are each there or not, in both lists alike.
    all_goals by_cases hs : o.s = 1
    all_goals cases third
    all_goals cases hv : vMask o
    all_goals simp [laneRegs, binaryLane, State.laneValue, State.bLane, maskOn, hs, hm, hv]

/-- VSEL's meaning: the mask selects, and is there always. -/
def selectLane : LaneWord :=
  { laneCompare (fun _ _ _ => false) with res := id, fn := fun _ x _ _ => x, off := fun _ y => y }

theorem laneBody_select {g : Nat} (hb : o.s = 1 → s.readable o.b) : LaneBody s (.vsel g o) o selectLane (vselBody o s) := by
  have hcheck : ((s.ctx.vAt o.a).tag == (s.bLane o).tag (s.ctx.vAt o.a).tag) = s.laneTags o selectLane := by
    rw [State.bLane_tag]
    rfl
  refine ⟨fun ht => ?_, fun ht => ?_⟩
  · simp [vselBody, State.bSource_eq hb, hcheck, ht, needTag, need, bind, Except.bind]
  · simp only [vselBody, State.bSource_eq hb, hcheck, ht, needTag, need, bind, Except.bind, if_true]
    refine ⟨_, _, ?_, fun e => ?_, rfl⟩
    all_goals by_cases hs : o.s = 1
    all_goals simp [laneRegs, laneMask, selectLane, laneCompare, State.laneValue, State.bLane, maskOn, hs]

theorem VTag.int_of_ne_uint32 {t : VTag} (h : t ≠ .uint32) (x : Half) : t.int x = x.toInt := by
  cases t with
  | int32 => rfl
  | uint32 => exact absurd rfl h
  | fp32 => rfl

theorem laneBody_unary (hm : laneMask i o = vMask o) (fi : Int → Int) (ff : Half → Half) :
    LaneBody s i o (laneUnary o fi ff) (unaryBody o fi ff s) := by
  have hcheck : ((s.ctx.vAt o.a).tag != .uint32) = s.laneTags o (laneUnary o fi ff) := by
    unfold State.laneTags laneUnary
    cases (s.ctx.vAt o.a).tag
    all_goals rfl
  refine ⟨fun ht => ?_, fun ht => ?_⟩
  · simp [unaryBody, hcheck, ht, needTag, need, bind, Except.bind]
  · have hint := VTag.int_of_ne_uint32 (bne_iff_ne.1 (hcheck.trans ht))
    simp only [unaryBody, hcheck, ht, needTag, need, bind, Except.bind, if_true]
    refine ⟨_, _, ?_, fun e => ?_, rfl⟩
    all_goals cases hv : vMask o
    all_goals cases hi : (s.ctx.vAt o.a).tag.isInt
    all_goals simp [laneRegs, laneUnary, State.laneValue, maskOn, hint, VTag.isNan, canonNan, hm, hv, hi]

end Bodies

/-! ## The families of words -/

theorem sameTag_lane (third : Bool) (a b c : VTag) : (a == b && (!third || a == c)) = (sameTag a b && (!third || c == a)) := by
  rw [Bool.beq_comm (a := a) (b := c), sameTag]

theorem sameInt_lane (a b : VTag) : (a.isInt && b.isInt && a == b) = sameInt a b := by
  cases a
  all_goals cases b
  all_goals rfl

/-- The word does what one of the three bodies does, which is what `laneWord` says of it. -/
theorem exec_laneWord {i : Instr} {g : Nat} {o : VOps} {w : LaneWord} (h : laneWord i = some (g, o, w)) :
    ∃ body : State → Except Stop State, (∀ s, exec i s = runWord .vector (vLen o) g body s) ∧
      ∀ s : State, (w.reads = true → o.s = 1 → s.readable o.b) → LaneBody s i o w (body s) := by
  unfold laneWord at h
  split at h
  case h_21 => cases h
  all_goals
    obtain ⟨rfl, rfl, rfl⟩ := h
    refine ⟨_, fun _ => rfl, fun s hb => ?_⟩
  -- VADD, VSUB, VMUL, VFMA, VDIV
  case h_1 | h_2 | h_3 | h_4 | h_5 => exact laneBody_binary (hb rfl) (by rfl) (by rfl) (sameTag_lane _)
  -- VMIN, VMAX, the compares
  case h_6 | h_7 | h_15 | h_16 | h_17 | h_18 =>
    exact laneBody_binary (hb rfl) (by rfl) (by rfl) fun _ _ _ => (Bool.and_true _).symm
  -- VAND, VOR, VXOR
  case h_8 | h_9 | h_10 =>
    exact laneBody_binary (hb rfl) (by rfl) (by rfl) fun a b _ => (sameInt_lane a b).trans (Bool.and_true _).symm
  -- VSHL, VSHR, VSAR
  case h_11 | h_12 | h_13 => exact laneBody_binary (hb rfl) (by rfl) (by rfl) fun _ _ _ => rfl
  case h_14 => exact laneBody_select (hb rfl)
  case h_19 | h_20 => exact laneBody_unary rfl _ _

/-! ## The result of an element-wise word, or its fault (05 R121 to R124) -/

theorem VReg.wf.countsOk_row {v : VReg} (h : v.wf) {l : Nat} (hl : l < 16) : countsOk (v.row l) := by
  obtain ⟨hlen, hrows⟩ := h
  have hmem : v.row l ∈ v.rows := by
    rw [VReg.row, List.getD_eq_getElem _ _ (hlen ▸ hl)]
    exact List.getElem_mem _
  obtain ⟨-, -, hcnt⟩ := hrows _ hmem
  exact hcnt

section Outcomes

variable {s : State} {i : Instr} {o : VOps} {w : LaneWord} {body : Except Stop State}

/-- Operands of one chainage that need no more than 64 pieces a row: the result at every element (05 R121 to R124). -/
theorem LaneBody.writes (hbody : LaneBody s i o w body) (ht : s.laneTags o w = true) (hdraw : s.laneDraws o w = false)
    (hwf : ∀ r ∈ o.a :: laneRegs i o w, (s.ctx.vAt r).wf)
    (hch : ∀ l < 16, ∀ r ∈ laneRegs i o w, chain ((s.ctx.vAt r).row l) = chain ((s.ctx.vAt o.a).row l))
    (hlen : ∀ l < 16, (allPieces ((o.a :: laneRegs i o w).map fun r => (s.ctx.vAt r).row l)).length ≤ 64) :
    ∃ rows : List (List Run), body = .ok (s.wv 4 o.d (w.res (s.ctx.vAt o.a).tag) rows) ∧ rows.length = 16 ∧
      ∀ l < 16, chain (rows.getD l []) = chain ((s.ctx.vAt o.a).row l) ∧ ∀ j < chain ((s.ctx.vAt o.a).row l),
        elemAt (rows.getD l []) j = s.laneValue i o w fun r => elemAt ((s.ctx.vAt r).row l) j := by
  obtain ⟨others, f, hothers, hf, rfl⟩ := hbody.computes ht
  have hregs : operands (s.ctx.vAt o.a) others = (o.a :: laneRegs i o w).map s.ctx.vAt := by rw [operands, hothers, List.map_cons]
  have hrows (l : Nat) : rowsAt (operands (s.ctx.vAt o.a) others) l = (o.a :: laneRegs i o w).map fun r => (s.ctx.vAt r).row l := by
    rw [hregs, rowsAt, List.map_map]
    rfl
  have hagree : ∀ l < 16, ∀ v ∈ others, chain (v.2.row l) = chain ((s.ctx.vAt o.a).row l) := fun l hl v hv => by
    obtain ⟨r, hr, hrv⟩ := List.mem_map.1 (hothers ▸ List.mem_map_of_mem (f := fun p : Nat × VReg => p.2) hv)
    rw [← hrv]
    exact hch l hl r hr
  rw [hdraw, elementwise_ok _ f hagree fun l hl => hrows l ▸ hlen l hl]
  refine ⟨_, rfl, length_laneRows .., fun l hl => ?_⟩
  have hok : ∀ r ∈ (o.a :: laneRegs i o w).map fun r => (s.ctx.vAt r).row l, countsOk r :=
    List.forall_mem_map.2 fun r hr => (hwf r hr).countsOk_row hl
  have hchain : ∀ r ∈ (o.a :: laneRegs i o w).map fun r => (s.ctx.vAt r).row l, chain r = chain ((s.ctx.vAt o.a).row l) :=
    List.forall_mem_map.2 <| List.forall_mem_cons.2 ⟨rfl, hch l hl⟩
  rw [laneRows, getD_map_rows16 _ hl, hrows]
  refine ⟨chain_laneRow _ _ (by simp) hok hchain, fun j hj => ?_⟩
  rw [elemAt_laneRow _ _ (by simp) hok hchain hj, List.map_map]
  exact hf _

/-- Operands whose chainages differ in a row: RN-02 (05 R122). -/
theorem LaneBody.differs (hbody : LaneBody s i o w body) (ht : s.laneTags o w = true)
    (hch : ∃ l < 16, ∃ r ∈ laneRegs i o w, chain ((s.ctx.vAt r).row l) ≠ chain ((s.ctx.vAt o.a).row l)) :
    ∃ r : FaultRec, r.cls = .RN ∧ r.num = 2 ∧ body = .error (.fault r) := by
  obtain ⟨others, f, hothers, -, rfl⟩ := hbody.computes ht
  obtain ⟨l, hl, r, hr, hne⟩ := hch
  obtain ⟨v, hv, hrv⟩ := List.mem_map.1 (hothers ▸ List.mem_map_of_mem (f := s.ctx.vAt) hr)
  exact elementwise_fault ⟨l, hl, v, hv, hrv ▸ hne⟩

end Outcomes

/-- Settles O23: each word runs an element-wise operation on its registers (`exec_laneWord`), whose pieces cover the rows and carry the
elements' values (`pieces_spec`). -/
theorem laneWords : Obligations.LaneWords := by
  unfold Obligations.LaneWords
  constructor
  · intro s i g o w hi hrun hb a tb rs ha hrs ht hround hch hlen
    obtain ⟨body, hexec, hbody⟩ := exec_laneWord hi
    have hwf : ∀ r ∈ o.a :: rs, (s.ctx.vAt r).wf := List.forall_mem_cons.2 ⟨ha, hrs⟩
    obtain ⟨rows, hok, hrows⟩ := (hbody s hb).writes ht (State.laneDraws_eq_false hround) hwf hch hlen
    exact ⟨rows, (hexec s).trans (runWord_ok hrun hok), hrows⟩
  · intro s i g o w hi hrun hb a tb
    obtain ⟨body, hexec, hbody⟩ := exec_laneWord hi
    refine ⟨fun ht => (hexec s).trans (runWord_stop hrun ((hbody s hb).refuses ht)), fun ht hch => ?_⟩
    obtain ⟨r, hcls, hnum, hr⟩ := (hbody s hb).differs ht hch
    exact ⟨r, hcls, hnum, (hexec s).trans (runWord_stop hrun hr)⟩

end Sys2Proof.Machine
end

section
/-! A matrix command whose check fails after its replay (06 R148; 23 R477): its event of KIND 7 is written into host memory (23 R478). -/
namespace Sys2Proof.Machine

/-! ## An event of the error log (23 R478) -/

@[simp] theorem State.interrupt_mem (s : State) (fn vec : Nat) : (s.interrupt fn vec).mem = s.mem := rfl

/-- An event for which the ring has room writes an entry at its tail, the low byte of KIND first. -/
theorem State.logEvent_mem {s : State} (kind place p src seq origin : Nat) (hen : s.elog.en = true)
    (hroom : (s.elog.tail + 1) % 2 ^ s.elog.log ≠ s.elog.head) : ∃ bs, bs.head? = some (BitVec.ofNat 8 kind) ∧
      (s.logEvent kind place p src seq origin).mem = memWrite s.mem (hostAddr (s.elog.base.toNat + 32 * s.elog.tail)) bs := by
  simp only [State.logEvent, hen, hroom, Bool.not_true, Bool.false_eq_true, if_false, apply_ite State.mem, State.interrupt_mem, ite_self]
  exact ⟨_, by simp [natLe], rfl⟩

theorem State.memGet_logEvent {s : State} (kind place p src seq origin : Nat) (hen : s.elog.en = true)
    (hroom : (s.elog.tail + 1) % 2 ^ s.elog.log ≠ s.elog.head) (hwf : s.memCanonical) :
    memGet (s.logEvent kind place p src seq origin).mem (hostAddr (s.elog.base.toNat + 32 * s.elog.tail)) = BitVec.ofNat 8 kind := by
  obtain ⟨bs, hhead, hmem⟩ := State.logEvent_mem kind place p src seq origin hen hroom
  obtain ⟨bs, rfl⟩ := List.head?_eq_some_iff.1 hhead
  rw [hmem, memGet_memWrite _ _ _ hwf, if_pos ⟨le_rfl, by simp⟩, Nat.sub_self, List.getD_cons_zero]

/-! ## The end of an operation writes no memory (02 R63; 06 R140) -/

theorem State.dropLines_mem (s : State) (ms : List Mark) : (s.dropLines ms).mem = s.mem := by
  refine List.foldlRecOn (motive := fun t : State => t.mem = s.mem) ms _ rfl fun t ht m _ => ?_
  dsimp only
  split
  · split <;> exact ht
  · exact ht

theorem State.keepDone_mem (s : State) (o : Op) : (s.keepDone o).mem = s.mem := by
  unfold State.keepDone
  split
  · rfl
  · split <;> rfl

theorem State.finishOp_mem (s : State) (o : Op) : (s.finishOp o).mem = s.mem := by
  have h : ((s.dropLines o.marks).keepDone o).mem = s.mem := (State.keepDone_mem _ o).trans (s.dropLines_mem o.marks)
  unfold State.finishOp
  split <;> exact h

theorem State.endMatrix_mem (s : State) (o : Op) (f : Option FaultRec) : (s.endMatrix o f).mem = s.mem := by
  cases f <;> exact State.finishOp_mem _ o

/-! ## A drain whose check fails again (06 R148; 23 R477) -/

/-- The check that an MDRAIN of the core's array meets fails. -/
def State.drainFails (s : State) (core : Nat) : Bool :=
  let a := (s.coreAt core).arr
  (checkRows a.accInt (flipAcc a.acc a.flips) a.accSat a.chk).1

/-- The drain ends; where the error log has room, KIND 7 stands in host memory. -/
theorem State.memGet_drainLeft_failed {s : State} {o : Op} {d : DrainSpec} {g : MProg} (hfails : s.drainFails o.core = true)
    (hretried : g.retried = true) (hen : s.elog.en = true) (hroom : (s.elog.tail + 1) % 2 ^ s.elog.log ≠ s.elog.head)
    (hwf : s.memCanonical) :
    memGet (s.drainLeft o d g).mem (hostAddr (s.elog.base.toNat + 32 * s.elog.tail)) = 7 := by
  unfold State.drainFails at hfails
  simp only [State.drainLeft, State.afterCheck, hfails, hretried, Bool.not_true, Bool.and_false, Bool.false_eq_true, if_false, if_true,
    State.endMatrix_mem]
  exact State.memGet_logEvent (s := { s.countError 7 _ with freeCtr := _ }) 7 _ _ _ _ _ hen hroom hwf

/-- A drain to queue 7 in FP32. -/
def toQueueSeven : DrainSpec := ⟨7, 9, 0, 0, []⟩

/-- A command whose chunk has been replayed. -/
def onceReplayed : MProg := ⟨0, false, [], none, true⟩

/-- The MDRAIN that is checked again. -/
def drainAgain : Op := ⟨3, 1, 32, 0, some 5, 0, .matrix (.mdrain toQueueSeven) onceReplayed, true, false, [], [], []⟩

/-- An accumulator of 1 whose check results are 0, left to the drain; the error log's ring of sixteen entries is enabled and empty. -/
def wrongDrain : State :=
  { State.reset with
    cores := [(0, { CoreSt.empty with
      arr := { ArrayState.empty with acc := [[1]], accInt := true, accSat := [[false]], chk := [(0, 0)], mq := [3] } })]
    ops := [drainAgain]
    tasks := [(1, { Task.blank with tid := 1, state := .running, cores := [0] })]
    elog := { ErrLog.reset with en := true, log := 4 } }

/-- Once the chunk ends, KIND 7 stands at the ring's base. -/
theorem exec_wrongDrain :
    ∃ r : State, exec (.mmulChunkEnd 0) wrongDrain = .next r ∧ memGet r.mem (hostAddr 0) = 7 :=
  ⟨(wrongDrain.actFor drainAgain).drainLeft drainAgain toQueueSeven onceReplayed, rfl,
    State.memGet_drainLeft_failed (s := wrongDrain.actFor drainAgain) (by decide) rfl rfl (by decide) rfl⟩

/-- Refutes O52: a drain that fails its check again leaves memory, in the statement, as it was; where the error log is enabled and has room,
the entry of its event is written into host memory (23 R478). -/
theorem not_matrixArraySteps : ¬ Obligations.MatrixArraySteps := by
  unfold Obligations.MatrixArraySteps
  intro h
  obtain ⟨-, -, -, -, -, hdrain, -⟩ := h wrongDrain 0 3 [] drainAgain (.mdrain toQueueSeven) onceReplayed rfl rfl rfl rfl rfl
  obtain ⟨hfailed, -⟩ := hdrain toQueueSeven rfl rfl rfl (by decide) (by decide) (by decide)
  have hfails : wrongDrain.drainFails 0 = true := by decide
  obtain ⟨r, hr, ⟨-, hmem⟩, -⟩ := hfailed hfails rfl rfl
  obtain ⟨r', hr', hlogged⟩ := exec_wrongDrain
  have hsame : r' = r := by injection hr'.symm.trans hr
  rw [hsame, hmem] at hlogged
  exact absurd hlogged (by decide)

end Sys2Proof.Machine
end

section
/-! The scales that a prune of a PRUNED tile leaves (12 R316). -/
namespace Sys2Proof.Machine

/-- Elements of one block have one scale (03 R80 to R82). -/
theorem TLay.scale_eq_of_blockAt_eq {t : TLay} {i i' : List Nat} (h : t.blockAt i = t.blockAt i') (m : Memory) (base : Nat) :
    t.scale m base i = t.scale m base i' := by
  rw [TLay.scale, TLay.scale, h]

/-- What `TileCmd.holds` says of the scales of a prune: an element has that of the group of eight it comes from. -/
theorem TileCmd.holds.prune_scale {c : TileCmd} {e cid : Nat} {m m' : Memory} (h : c.holds cid m m') (hc : c.form = .prune e)
    {i j u : Nat} (hi : i < (layOf c.twA).ext.getD 0 0) (hj : j < (layOf c.twA).ext.getD 1 0 / 8) (hu : u < 4) :
    (layOf c.twD).scale m' (tileAddr cid c.d 0) [i, 4 * j + u] = (layOf c.twA).scale m (tileAddr cid c.a 0) [i, 8 * j] := by
  simp only [TileCmd.holds, hc] at h
  obtain ⟨ks, -, -, -, -, hkept, -⟩ := h i hi j hj
  exact (hkept u hu).2

/-- TCMPR of tile 1, PRUNED itself, to tiles 2 and 3: 1 by 32 elements of INT8 with GEOM 1, in two blocks of 16. The types of its results
are those that TCMPR derives; the 16 elements of tile 2 are one block. -/
def pruneOfPruned : TileCmd where
  form := .prune 3
  d := 2
  a := 1
  twD := mkType 2 2 0 1 16 [1, 16]
  twA := mkType 2 2 0 1 16 [1, 32]
  twE := mkType 2 0x10 0 0 0 [1, 4]
  draws := []

theorem pruneOfPruned_typed : pruneOfPruned.typed where
  source := by decide
  target := by decide
  form := ⟨by decide, by decide, by decide, by decide, 1, 32, by decide⟩

/-- The prune as an operation that has started. -/
def pruneAgain : Op := ⟨3, 1, 32, 0, some 5, 0, .tile pruneOfPruned, true, false, [], [], []⟩

/-- The first scale block of tile 1 has the code 1, the second the code 0. -/
def unevenScales : State :=
  { State.reset with
    mem := [(tileAddr 32 1 64, 1)]
    ops := [pruneAgain]
    tasks := [(1, { Task.blank with tid := 1, state := .running, cores := [0] })] }

/-- No memory holds what `TileCmd.holds` asks of this prune: elements 0 and 8 of tile 2 share a scale, positions 0 and 16 of tile 1, which
they come from, do not. -/
theorem not_holds_pruneOfPruned (m' : Memory) : ¬ pruneOfPruned.holds 32 unevenScales.mem m' := by
  intro h
  have first := h.prune_scale (i := 0) (j := 0) (u := 0) rfl (by decide) (by decide) (by decide)
  have third := h.prune_scale (i := 0) (j := 2) (u := 0) rfl (by decide) (by decide) (by decide)
  have same : (layOf pruneOfPruned.twD).blockAt [0, 4 * 2 + 0] = (layOf pruneOfPruned.twD).blockAt [0, 4 * 0 + 0] := by decide
  rw [TLay.scale_eq_of_blockAt_eq same] at third
  exact absurd (first.symm.trans third) (by decide)

/-- Refutes O53: R316 admits a PRUNED source, whose scale blocks are of 16 positions; a prune of one has fewer scales than its groups of
eight come with, so that its elements cannot each have the scale of their group. -/
theorem not_engineSteps : ¬ Obligations.EngineSteps := by
  unfold Obligations.EngineSteps
  rintro ⟨-, hcompletes, -⟩
  obtain ⟨htile, -⟩ := hcompletes unevenScales 3 pruneAgain rfl rfl rfl rfl rfl rfl fun _ => rfl
  obtain ⟨r, -, -, heffect⟩ := htile pruneOfPruned rfl
  exact not_holds_pruneOfPruned r.mem ((heffect pruneOfPruned_typed).2 rfl)

end Sys2Proof.Machine
end

section
/-! The fields of a word (08 R191, R194): a field read from fields placed side by side, X words. -/
namespace Sys2Proof

/-- The values placed by `fs` lie below the bounds that `bs` has at the same bits. -/
inductive Bounded : List (Nat × Nat) → List (Nat × Nat) → Prop
  | nil : Bounded [] []
  | cons {v b lo : Nat} {fs bs : List (Nat × Nat)} : v < b → Bounded fs bs → Bounded ((v, lo) :: fs) ((b, lo) :: bs)

/-- The value placed at bit `lo`, 0 where none is. -/
def valueAt : List (Nat × Nat) → Nat → Nat
  | [], _ => 0
  | (v, l) :: fs, lo => if l = lo then v + valueAt fs lo else valueAt fs lo

/-- The fields placed below bit `lo`. -/
def placeBelow : List (Nat × Nat) → Nat → Nat
  | [], _ => 0
  | (v, l) :: fs, lo => if l < lo then v * 2 ^ l + placeBelow fs lo else placeBelow fs lo

/-- The greatest values under the bounds `bs`. -/
def greatest (bs : List (Nat × Nat)) : List (Nat × Nat) := bs.map fun b => (b.1 - 1, b.2)

/-- Under the bounds `bs` nothing lies across bit `n`. -/
def fitsBelow (bs : List (Nat × Nat)) (n : Nat) : Bool := decide (placeBelow (greatest bs) n < 2 ^ n)

/-- Under the bounds `bs` the `k` bits from `lo` hold the value placed at `lo` and nothing else: what lies below does not reach them, the
value is no longer than they are, and what lies above begins past them. -/
def isolates (bs : List (Nat × Nat)) (lo k : Nat) : Bool :=
  fitsBelow bs lo && decide (valueAt (greatest bs) lo < 2 ^ k) && bs.all fun b => b.2 ≤ lo || lo + k ≤ b.2

namespace Bounded

variable {fs bs : List (Nat × Nat)}

theorem placeBelow_le (h : Bounded fs bs) (lo : Nat) : placeBelow fs lo ≤ placeBelow (greatest bs) lo := by
  induction h with
  | nil => exact le_rfl
  | @cons v b l fs bs hv h ih =>
    have hm : v * 2 ^ l ≤ (b - 1) * 2 ^ l := Nat.mul_le_mul_right _ (by omega)
    simp only [placeBelow, greatest, List.map_cons]
    split
    · exact Nat.add_le_add hm ih
    · exact ih

theorem valueAt_le (h : Bounded fs bs) (lo : Nat) : valueAt fs lo ≤ valueAt (greatest bs) lo := by
  induction h with
  | nil => exact le_rfl
  | @cons v b l fs bs hv h ih =>
    simp only [valueAt, greatest, List.map_cons]
    split
    · exact Nat.add_le_add (by omega) ih
    · exact ih

/-- The fields below bit `lo`, the one at it, and those that begin past it and `k` bits more. -/
theorem place_eq (h : Bounded fs bs) {lo k : Nat} (ha : (bs.all fun b => b.2 ≤ lo || lo + k ≤ b.2) = true) :
    ∃ m, place fs = placeBelow fs lo + 2 ^ lo * (valueAt fs lo + 2 ^ k * m) := by
  induction h with
  | nil => exact ⟨0, by simp [place, placeBelow, valueAt]⟩
  | @cons v b l fs bs hv h ih =>
    simp only [List.all_cons, Bool.and_eq_true, Bool.or_eq_true, decide_eq_true_eq] at ha
    obtain ⟨hl, ha⟩ := ha
    obtain ⟨m, hm⟩ := ih ha
    simp only [place, placeBelow, valueAt, hm]
    rcases Nat.lt_trichotomy l lo with hlt | rfl | hgt
    · exact ⟨m, by rw [if_pos hlt, if_neg hlt.ne]; ring⟩
    · exact ⟨m, by rw [if_neg (lt_irrefl _), if_pos rfl]; ring⟩
    · obtain ⟨n, rfl⟩ := Nat.exists_eq_add_of_le (hl.resolve_left (by omega))
      exact ⟨m + v * 2 ^ n, by rw [if_neg (by omega), if_neg (by omega), pow_add, pow_add]; ring⟩

/-- A field that the bounds isolate is read as it was placed. -/
theorem fld_place (h : Bounded fs bs) {lo k : Nat} (hi : isolates bs lo k = true) : fld (place fs) lo k = valueAt fs lo := by
  simp only [isolates, fitsBelow, Bool.and_eq_true, decide_eq_true_eq] at hi
  obtain ⟨⟨hb, hv⟩, ha⟩ := hi
  obtain ⟨m, hm⟩ := h.place_eq ha
  rw [fld, hm, Nat.add_mul_div_left _ _ (by positivity), Nat.div_eq_of_lt ((h.placeBelow_le lo).trans_lt hb), Nat.zero_add,
    Nat.add_mul_mod_self_left, Nat.mod_eq_of_lt ((h.valueAt_le lo).trans_lt hv)]

theorem place_eq_placeBelow {n : Nat} (h : Bounded fs bs) (ha : (bs.all fun b => b.2 < n) = true) : place fs = placeBelow fs n := by
  induction h with
  | nil => rfl
  | cons hv h ih =>
    simp only [List.all_cons, Bool.and_eq_true, decide_eq_true_eq] at ha
    obtain ⟨hl, ha⟩ := ha
    rw [place, placeBelow, if_pos hl, ih ha]

theorem place_lt {n : Nat} (h : Bounded fs bs) (hb : fitsBelow bs n = true) (ha : (bs.all fun b => b.2 < n) = true) : place fs < 2 ^ n :=
  (h.place_eq_placeBelow ha).trans_lt ((h.placeBelow_le n).trans_lt (of_decide_eq_true hb))

end Bounded

/-! ## X words (08 R194) -/

theorem isX_mkX {p : Nat} (h : p < 2 ^ 28) : isX (mkX p) = true := by
  simp only [isX, mkX, fld, beq_iff_eq]
  omega

theorem mkX_lt {p : Nat} (h : p < 2 ^ 28) : mkX p < 2 ^ 31 := by
  simp only [mkX]
  omega

/-- The payloads of X words are those they were made of. -/
theorem xPayloads_map_mkX {ps : List Nat} (h : ∀ p ∈ ps, p < 2 ^ 28) : xPayloads (ps.map mkX) = ps := by
  induction ps with
  | nil => rfl
  | cons p ps ih =>
    obtain ⟨hp, hps⟩ := List.forall_mem_cons.1 h
    have hfld : fld (mkX p) 0 28 = p := by simp only [mkX, fld]; omega
    rw [List.map_cons, xPayloads, isX_mkX hp, if_pos rfl, hfld, ih hps]

end Sys2Proof
end

section
/-! An instruction and its words: the encoder's fields read back by the decoder (08 R191, R194). -/
namespace Sys2Proof

/-- Under the bounds `bs`, and apart from the opcode and what lies above it, the field can be read. -/
def readable (bs : List (Nat × Nat)) (lo k : Nat) : Bool := isolates bs lo k && decide (lo + k ≤ 22)

/-- A word of class `cls` and opcode `op`, with the fields `fs` below the opcode, under the bounds `bs`. -/
structure WordOf (cls op : Nat) (fs bs : List (Nat × Nat)) (w : Nat) : Prop where
  cls : fld w 28 3 = cls
  op : fld w 22 6 = op
  low : ∀ lo k, readable bs lo k = true → fld w lo k = valueAt fs lo

/-- The word put together is such a word, with either value of B. -/
theorem wordOf_mkWord {cls op g n : Nat} {fs bs : List (Nat × Nat)} (hc : cls < 8) (ho : op < 64) (hb : Bounded ((g, 0) :: fs) bs)
    (hr : place ((g, 0) :: fs) < 2 ^ 22) :
    WordOf cls op ((g, 0) :: fs) bs (mkWord cls op fs g + n * 2 ^ 31) := by
  have hw : mkWord cls op fs g + n * 2 ^ 31 = 2 ^ 22 * (n * 2 ^ 9 + cls * 2 ^ 6 + op) + place ((g, 0) :: fs) := by
    simp only [mkWord, place]; omega
  rw [hw]
  refine ⟨by simp only [fld]; omega, by simp only [fld]; omega, fun lo k h => ?_⟩
  simp only [readable, Bool.and_eq_true, decide_eq_true_eq] at h
  obtain ⟨hi, hlk⟩ := h
  obtain ⟨m, hm⟩ := Nat.exists_eq_add_of_le hlk
  rw [← hb.fld_place hi, fld, fld, hm, pow_add, pow_add, Nat.mul_assoc, Nat.mul_assoc, Nat.mul_add_div (by positivity), Nat.mul_add_mod]

/-- The words of an instruction: the first has the class, the others are X words, and with either value of B they decode to
the instruction. -/
structure CodedAs (i : Instr) (cls w : Nat) (xs : List Nat) : Prop where
  words : encode i = w :: xs
  class_eq : classOf w = cls
  lt : w < 2 ^ 31
  payloads : ∀ x ∈ xs, isX x = true ∧ x < 2 ^ 31
  reads : ∀ n, decodeWords ((w + n * 2 ^ 31) :: xs) = .ok i

/-- The class and the opcode are such, and the fields under the bounds `bs` leave the opcode alone, with the guard below them. -/
def placed (cls op : Nat) (bs : List (Nat × Nat)) : Bool :=
  decide (cls < 7) && decide (op < 64) && (bs.all fun b => decide (b.2 < 22)) && fitsBelow ((16, 0) :: bs) 22

/-- An instruction is coded as the encoder has it where the decoder reads it back from its fields. -/
theorem CodedAs.of {i : Instr} {cls op g : Nat} {fs bs : List (Nat × Nat)} (ps : List Nat)
    (words : encode i = mkWord cls op fs g :: ps.map mkX) (payloads : ∀ p ∈ ps, p < 2 ^ 28)
    (reads : ∀ w, WordOf cls op ((g, 0) :: fs) ((16, 0) :: bs) w → decodeWord w ps = .ok i)
    (guard : g < 16 := by assumption) (bounded : Bounded fs bs := by apply_rules [Bounded.cons, Bounded.nil])
    (hplaced : placed cls op bs = true := by decide) : CodedAs i cls (mkWord cls op fs g) (ps.map mkX) := by
  simp only [placed, Bool.and_eq_true, decide_eq_true_eq] at hplaced
  obtain ⟨⟨⟨hc, ho⟩, hf⟩, hb⟩ := hplaced
  have hall : Bounded ((g, 0) :: fs) ((16, 0) :: bs) := .cons guard bounded
  have hr := hall.place_lt hb (by simpa using hf)
  have hw : ∀ n, WordOf cls op ((g, 0) :: fs) ((16, 0) :: bs) (mkWord cls op fs g + n * 2 ^ 31) :=
    fun n => wordOf_mkWord (by omega) ho hall hr
  refine ⟨words, ?_, ?_, fun x hx => ?_, fun n => ?_⟩
  · have := (hw 0).cls
    rwa [Nat.zero_mul, Nat.add_zero] at this
  · simp only [mkWord, place] at hr ⊢
    omega
  · obtain ⟨p, hm, rfl⟩ := List.mem_map.1 hx
    exact ⟨isX_mkX (payloads p hm), mkX_lt (payloads p hm)⟩
  · rw [decodeWords, xPayloads_map_mkX payloads]
    exact reads _ (hw n)

/-- What the bits of an immediate say of its parts. -/
theorem Imm.bounds_of_wf {width n : Nat} {m : Imm} (h : m.wf width n = true) :
    m.field < 2 ^ width ∧ m.xs.length ≤ n ∧ ∀ p ∈ m.xs, p < 2 ^ 28 := by
  simp only [Imm.wf, Bool.and_eq_true, decide_eq_true_eq, List.all_eq_true] at h
  obtain ⟨⟨⟨hf, hl⟩, hp⟩, -⟩ := h
  exact ⟨hf, hl, hp⟩

/-- An instruction with one X word is coded as the encoder has it where the decoder reads it back from its fields and the payload's. -/
theorem CodedAs.ofX {i : Instr} {cls op g : Nat} {fs bs qs cs : List (Nat × Nat)}
    (words : encode i = mkWord cls op fs g :: [mkX (place qs)])
    (reads : ∀ w x, WordOf cls op ((g, 0) :: fs) ((16, 0) :: bs) w → (∀ lo k, isolates cs lo k = true → fld x lo k = valueAt qs lo) →
      decodeWord w [x] = .ok i)
    (guard : g < 16 := by assumption) (bounded : Bounded fs bs := by apply_rules [Bounded.cons, Bounded.nil])
    (hplaced : placed cls op bs = true := by decide) (payload : Bounded qs cs := by apply_rules [Bounded.cons, Bounded.nil])
    (hpayload : (fitsBelow cs 28 && cs.all fun c => decide (c.2 < 28)) = true := by decide) :
    CodedAs i cls (mkWord cls op fs g) [mkX (place qs)] := by
  obtain ⟨hb, ha⟩ := Bool.and_eq_true_iff.1 hpayload
  exact .of [place qs] words (by simpa using payload.place_lt hb ha) (fun w hw => reads w _ hw fun _ _ => payload.fld_place)
    guard bounded hplaced

theorem if_if_pos {c d : Prop} [Decidable c] [Decidable d] {α : Type} {a b e : α} (hc : c) (hd : d) :
    (if c then if d then a else b else e) = a := (if_pos hc).trans (if_pos hd)

end Sys2Proof
end

section
/-! Words with an optional X word (08 R194): class V words in the common layout (10 R251, R252), sizes, masks. -/
namespace Sys2Proof

/-- The optional operand `m` is the payload `bits` of an X word that leaves the unused bits 0 and is read back from it. -/
structure InPayload {α : Type} (m : Option α) (bits : α → Nat) (zeros : Nat → Bool) (read : Nat → α) : Prop where
  lt : ∀ v ∈ m, bits v < 2 ^ 28
  unused : ∀ v ∈ m, zeros (bits v) = true
  read_bits : ∀ v ∈ m, read (bits v) = v

section
variable {α : Type} {m : Option α} {bits : α → Nat} {zeros : Nat → Bool} {read : Nat → α} {mk : Option α → Instr}

/-- A form that may have one X word is read back from its operand's payload. -/
theorem InPayload.optX_eq_ok (h : InPayload m bits zeros read) (hw : (mk m).wf = true) :
    optX (m.toList.map bits) zeros (fun x => mk (x.map read)) = .ok (mk m) := by
  cases m with
  | none => exact if_pos hw
  | some v =>
    simp only [Option.toList_some, List.map_cons, List.map_nil, optX, Option.map_some, h.unused v rfl, h.read_bits v rfl, hw,
      Bool.and_self, if_true]

/-- An instruction with such an operand is coded as the encoder has it where the decoder comes to such a form. -/
theorem CodedAs.opt {cls op g : Nat} {fs bs : List (Nat × Nat)} (h : InPayload m bits zeros read) (hw : (mk m).wf = true)
    (words : encode (mk m) = mkWord cls op fs g :: m.toList.map fun v => mkX (bits v))
    (leaf : ∀ w, WordOf cls op ((g, 0) :: fs) ((16, 0) :: bs) w →
      decodeWord w (m.toList.map bits) = optX (m.toList.map bits) zeros fun x => mk (x.map read))
    (guard : g < 16 := by assumption) (bounded : Bounded fs bs := by apply_rules [Bounded.cons, Bounded.nil])
    (hplaced : placed cls op bs = true := by decide) :
    CodedAs (mk m) cls (mkWord cls op fs g) ((m.toList.map bits).map mkX) := by
  refine .of (m.toList.map bits) (by rw [words, List.map_map]; rfl) ?_ (fun w h' => (leaf w h').trans (h.optX_eq_ok hw)) guard bounded
    hplaced
  simpa using h.lt

end

/-! ## Sizes and masks -/

/-- The size of an atomic word (11 R283). -/
theorem inPayload_size {size : Option Nat} (h : (size == none || size == some 0 || size == some 1) = true) :
    InPayload size id (fun x => fld x 1 27 == 0) (fld · 0 1) := by
  simp only [Bool.or_eq_true, beq_iff_eq, or_assoc] at h
  obtain rfl | rfl | rfl := h
  · exact ⟨nofun, nofun, nofun⟩
  all_goals constructor <;> simp [fld]

/-- The saturation bit of VCVT (10 R258). -/
theorem inPayload_sat {sat : Option Nat} (h : (sat == none || sat == some 0 || sat == some 1) = true) :
    InPayload sat (· * 2 ^ 10) (fun x => fld x 0 10 == 0 && fld x 11 17 == 0) (fld · 10 1) := by
  simp only [Bool.or_eq_true, beq_iff_eq, or_assoc] at h
  obtain rfl | rfl | rfl := h
  · exact ⟨nofun, nofun, nofun⟩
  all_goals constructor <;> simp [fld]

/-- A mask or SKIP operand with its presence bit above its register. -/
theorem inPayload_mask {mask : Option (Option Nat)} {lo on : Nat} {zeros : Nat → Bool} (h : maskWf mask = true)
    (hn : zeros 0 = true ∧ optReg lo on 0 = none)
    (hs : ∀ r < 16, optRegBits lo on (some r) < 2 ^ 28 ∧ zeros (optRegBits lo on (some r)) = true ∧
      optReg lo on (optRegBits lo on (some r)) = some r) : InPayload mask (optRegBits lo on) zeros (optReg lo on) := by
  rcases mask with _ | _ | r
  · exact ⟨nofun, nofun, nofun⟩
  · constructor <;> rintro _ ⟨⟩
    exacts [Nat.two_pow_pos 28, hn.1, hn.2]
  · obtain ⟨hlt, hz, hr⟩ := hs r (of_decide_eq_true h)
    constructor <;> rintro _ ⟨⟩
    exacts [hlt, hz, hr]

/-! ## Class V words in the common layout -/

theorem vxWord_eq_place (v : VX) : vxWord v = place [(v.vc, 0), (v.cv, 4), (v.vm, 5), (v.mv, 9), (v.sat, 10)] := by
  simp only [vxWord, place]
  omega

theorem inPayload_vx {al : VAllow} {o : VOps} (h : o.wf al = true) : InPayload o.x vxWord (fun x => fld x 11 17 == 0) vxOf := by
  have hb : ∀ v ∈ o.x, Bounded [(v.vc, 0), (v.cv, 4), (v.vm, 5), (v.mv, 9), (v.sat, 10)] [(16, 0), (2, 4), (16, 5), (2, 9), (2, 10)] := by
    intro v hv
    simp only [VOps.wf, Option.mem_def.1 hv, VX.wf, Bool.and_eq_true, decide_eq_true_eq] at h
    casesm* _ ∧ _
    apply_rules [Bounded.cons, Bounded.nil]
  constructor
  all_goals
    intro v hv
    have hx {lo k : Nat} (hi : isolates [(16, 0), (2, 4), (16, 5), (2, 9), (2, 10)] lo k = true) := (hb v hv).fld_place hi
    rw [vxWord_eq_place]
  · exact (hb v hv).place_lt (by decide) (by decide)
  · exact beq_iff_eq.2 (hx (by decide))
  · simp (disch := decide) only [vxOf, hx]
    rfl

theorem VOps.bounded_of_wf {al : VAllow} {o : VOps} (h : o.wf al = true) :
    Bounded (vFields o) [(2, 21), (2, 20), (16, 16), (3, 14), (16, 10), (64, 4)] := by
  simp only [VOps.wf, Bool.and_eq_true, decide_eq_true_eq] at h
  rw [vFields]
  casesm* _ ∧ _
  apply_rules [Bounded.cons, Bounded.nil]

/-- An entry that asks for a third operand or a mask has its X word. -/
theorem VOps.x_of_required {al : VAllow} {o : VOps} (h : o.wf al = true) (ha : (!al.third && !al.needMask) = false) :
    ∃ v, o.x = some v := by
  cases hx : o.x with
  | none => simp [VOps.wf, hx, ha] at h
  | some v => exact ⟨v, rfl⟩

/-- A word in the common layout is coded as the encoder has it where the decoder takes it for one. -/
theorem CodedAs.vops {al : VAllow} {o : VOps} {g op : Nat} {mk : Nat → VOps → Instr} (ho : o.wf al = true) (hg : g < 16)
    (hi : (mk g o).wf = true)
    (words : encode (mk g o) = mkWord 2 op (vFields o) g :: o.x.toList.map fun x => mkX (vxWord x))
    (leaf : ∀ w, fld w 28 3 = 2 → fld w 22 6 = op →
      decodeWord w (o.x.toList.map vxWord) = vWord w (o.x.toList.map vxWord) (mk (fld w 0 4)))
    (hplaced : placed 2 op [(2, 21), (2, 20), (16, 16), (3, 14), (16, 10), (64, 4)] = true := by decide) :
    CodedAs (mk g o) 2 (mkWord 2 op (vFields o) g) ((o.x.toList.map vxWord).map mkX) := by
  refine .opt (mk := fun x => mk g { o with x }) (inPayload_vx ho) hi words ?_ hg (VOps.bounded_of_wf ho) hplaced
  rintro w ⟨h28, h22, hr⟩
  rw [leaf w h28 h22]
  simp (disch := decide) only [vWord, hr]
  rfl

end Sys2Proof
end

section
/-! Every well-formed instruction, class by class (08 R209 to R214): its words and what the decoder reads from them. -/
namespace Sys2Proof

/-- The instructions of the places `lo` to before `hi` in the order of `Instr`, in which the words of a class stand together: S
to 36, C to 73, V to 113, F to 125, MA to 152, MB to 181, E to 229, then the device steps. -/
def Instr.among (lo hi : Nat) (i : Instr) : Bool := lo.ble i.ctorIdx && i.ctorIdx.blt hi

theorem codedAs_S (i : Instr) (hw : i.wf = true) (h : i.among 0 37 = true) : ∃ w xs, CodedAs i 0 w xs := by
  cases i
  all_goals cases h
  all_goals
    have hb := hw
    simp only [Instr.wf, Bool.and_eq_true, decide_eq_true_eq] at hb
    casesm* _ ∧ _
  case addi | movi | andi | ori | xori =>
    obtain ⟨hf, hl, hp⟩ := Imm.bounds_of_wf ‹_›
    refine ⟨_, _, .of ‹Imm›.xs rfl hp ?_⟩
    rintro w ⟨h28, h22, hr⟩
    simp (disch := decide) only [decodeWord, decodeS, h28, h22, hr, withImm]
    exact if_if_pos hl hw
  case cmpeqi | cmplti =>
    obtain ⟨hf, hl, hp⟩ := Imm.bounds_of_wf ‹_›
    refine ⟨_, _, .of ‹Imm›.xs rfl hp ?_⟩
    rintro w ⟨h28, h22, hr⟩
    simp (disch := decide) only [decodeWord, decodeS, h28, h22, hr, withImm, zeroed]
    exact (if_pos rfl).trans (if_if_pos hl hw)
  case sel =>
    refine ⟨_, _, .ofX rfl ?_⟩
    rintro w x ⟨h28, h22, hr⟩ hx
    simp (disch := decide) only [decodeWord, decodeS, h28, h22, hr, hx, oneX]
    exact if_pos hw
  all_goals
    refine ⟨_, _, .of [] rfl (by simp) ?_⟩
    rintro w ⟨h28, h22, hr⟩
    simp (disch := decide) only [decodeWord, decodeS, h28, h22, hr, plain, zeroed]
  case cmpeq | cmpne | cmplt | cmpltu | cmple | cmpleu | clz | popc => exact if_if_pos rfl hw
  all_goals exact if_pos hw

theorem codedAs_C (i : Instr) (hw : i.wf = true) (h : i.among 37 74 = true) : ∃ w xs, CodedAs i 1 w xs := by
  cases i
  all_goals cases h
  all_goals
    have hb := hw
    simp only [Instr.wf, Bool.and_eq_true, decide_eq_true_eq] at hb
    try casesm* _ ∧ _
  case br | call | lclose =>
    obtain ⟨hf, hl, hp⟩ := Imm.bounds_of_wf ‹_›
    refine ⟨_, _, .of ‹Imm›.xs rfl hp ?_⟩
    rintro w ⟨h28, h22, hr⟩
    simp (disch := decide) only [decodeWord, decodeC, h28, h22, hr, withImm]
    exact if_if_pos hl hw
  case loopt =>
    refine ⟨_, _, .ofX rfl ?_⟩
    rintro w x ⟨h28, h22, hr⟩ hx
    simp (disch := decide) only [decodeWord, decodeC, h28, h22, hr, hx, oneX]
    exact if_pos hw
  all_goals
    refine ⟨_, _, .of [] rfl (by simp) ?_⟩
    rintro w ⟨h28, h22, hr⟩
    simp (disch := decide) only [decodeWord, decodeC, h28, h22, hr, plain, zeroed]
  case nop | loop | loopi | csrr | csrw | csrs | csrc => exact if_pos hw
  all_goals exact if_if_pos rfl hw

theorem codedAs_V (i : Instr) (hw : i.wf = true) (h : i.among 74 114 = true) : ∃ w xs, CodedAs i 2 w xs := by
  cases i
  all_goals cases h
  all_goals
    have hb := hw
    simp only [Instr.wf, Bool.and_eq_true, decide_eq_true_eq] at hb
    casesm* _ ∧ _
    have hone : 1 < 2 := Nat.one_lt_two
  case vfma | vsel =>
    refine ⟨_, _, .vops ‹_› ‹_› hw rfl fun w h28 h22 => ?_⟩
    obtain ⟨v, hv⟩ := VOps.x_of_required ‹_› (by decide)
    simp only [decodeWord, decodeV, h28, h22, hv]
    rfl
  case vcvt =>
    refine ⟨_, _, .opt (inPayload_sat ‹_›) hw rfl ?_⟩
    rintro w ⟨h28, h22, hr⟩
    simp (disch := decide) only [decodeWord, decodeV, h28, h22, hr, zeroed]
    exact if_pos rfl
  case vred =>
    refine ⟨_, _, .opt (inPayload_mask (zeros := fun x => fld x 0 5 == 0 && fld x 10 18 == 0 && (fld x 9 1 == 1 || fld x 5 4 == 0))
      ‹_› (by decide) (by decide)) hw rfl ?_⟩
    rintro w ⟨h28, h22, hr⟩
    simp (disch := decide) only [decodeWord, decodeV, h28, h22, hr, zeroed]
    exact if_pos rfl
  case vsplat | vopt =>
    refine ⟨_, _, .of [] rfl (by simp) ?_⟩
    rintro w ⟨h28, h22, hr⟩
    simp (disch := decide) only [decodeWord, decodeV, h28, h22, hr, plain]
    exact if_pos hw
  case vadd | vsub | vmul | vdiv | vmin | vmax | vneg | vabs | vand | vor | vxor | vshl | vshr | vsar | vcmpeq | vcmpne | vcmplt |
      vcmple =>
    refine ⟨_, _, .vops ‹_› ‹_› hw rfl fun w h28 h22 => ?_⟩
    simp only [decodeWord, decodeV, h28, h22]
  all_goals
    refine ⟨_, _, .of [] rfl (by simp) ?_⟩
    rintro w ⟨h28, h22, hr⟩
    simp (disch := decide) only [decodeWord, decodeV, h28, h22, hr, plain, zeroed]
    exact if_if_pos rfl hw

theorem codedAs_F (i : Instr) (hw : i.wf = true) (h : i.among 114 126 = true) : ∃ w xs, CodedAs i 3 w xs := by
  cases i
  all_goals cases h
  all_goals
    have hb := hw
    simp only [Instr.wf, Bool.and_eq_true, decide_eq_true_eq] at hb
    casesm* _ ∧ _
    refine ⟨_, _, .of [] rfl (by simp) ?_⟩
    rintro w ⟨h28, h22, hr⟩
    simp (disch := decide) only [decodeWord, decodeF, h28, h22, hr, plain, zeroed]
    exact if_if_pos rfl hw

theorem codedAs_MA (i : Instr) (hw : i.wf = true) (h : i.among 126 153 = true) : ∃ w xs, CodedAs i 4 w xs := by
  cases i
  all_goals cases h
  all_goals
    have hb := hw
    simp only [Instr.wf, Bool.and_eq_true, decide_eq_true_eq] at hb
    casesm* _ ∧ _
  case aadd | aswp | acas | amin | amax | aminu | amaxu =>
    refine ⟨_, _, .opt (inPayload_size ‹_›) hw (by rfl) ?_⟩
    rintro w ⟨h28, h22, hr⟩
    simp (disch := decide) only [decodeWord, decodeMA, h28, h22, hr]
    rfl
  case qpops =>
    refine ⟨_, _, .opt (inPayload_mask (zeros := fun x => fld x 5 23 == 0 && (fld x 4 1 == 1 || fld x 0 4 == 0)) ‹_› (by decide)
      (by decide)) hw rfl ?_⟩
    rintro w ⟨h28, h22, hr⟩
    simp (disch := decide) only [decodeWord, decodeMA, h28, h22, hr, zeroed]
    exact if_pos rfl
  case vldr | vstx =>
    refine ⟨_, _, .ofX rfl ?_⟩
    rintro w x ⟨h28, h22, hr⟩ hx
    simp (disch := decide) only [decodeWord, decodeMA, h28, h22, hr, hx, oneX, zeroed]
    exact if_if_pos rfl hw
  case tlds | tsts | vpack | vunpack =>
    refine ⟨_, _, .of [] rfl (by simp) ?_⟩
    rintro w ⟨h28, h22, hr⟩
    simp (disch := decide) only [decodeWord, decodeMA, h28, h22, hr, plain, zeroed]
    exact if_if_pos rfl hw
  all_goals
    obtain ⟨hf, hl, hp⟩ := Imm.bounds_of_wf ‹_›
    refine ⟨_, _, .of ‹Imm›.xs rfl hp ?_⟩
    rintro w ⟨h28, h22, hr⟩
    simp (disch := decide) only [decodeWord, decodeMA, h28, h22, hr, withImm]
    exact if_if_pos hl hw

theorem codedAs_MB (i : Instr) (hw : i.wf = true) (h : i.among 153 182 = true) : ∃ w xs, CodedAs i 5 w xs := by
  cases i
  all_goals cases h
  all_goals
    have hb := hw
    simp only [Instr.wf, Bool.and_eq_true, decide_eq_true_eq] at hb
    casesm* _ ∧ _
  case aaddCm | aswpCm | acasCm | aminCm | amaxCm | aminuCm | amaxuCm =>
    refine ⟨_, _, .opt (inPayload_size ‹_›) hw (by rfl) ?_⟩
    rintro w ⟨h28, h22, hr⟩
    simp (disch := decide) only [decodeWord, decodeMB, h28, h22, hr]
    rfl
  case qpopsCm =>
    refine ⟨_, _, .opt (inPayload_mask (zeros := fun x => fld x 5 23 == 0 && (fld x 4 1 == 1 || fld x 0 4 == 0)) ‹_› (by decide)
      (by decide)) hw rfl ?_⟩
    rintro w ⟨h28, h22, hr⟩
    simp (disch := decide) only [decodeWord, decodeMB, h28, h22, hr, zeroed]
    exact if_pos rfl
  case cadd | cswp | ccas | cmin | cmax =>
    refine ⟨_, _, .ofX rfl ?_⟩
    rintro w x ⟨h28, h22, hr⟩ hx
    simp (disch := decide) only [decodeWord, decodeMB, h28, h22, hr, hx, oneX]
    exact if_pos hw
  case cld =>
    refine ⟨_, _, .ofX rfl ?_⟩
    rintro w x ⟨h28, h22, hr⟩ hx
    simp (disch := decide) only [decodeWord, decodeMB, h28, h22, hr, hx, oneX, zeroed]
    exact if_if_pos rfl hw
  case tldsCm | tstsCm =>
    refine ⟨_, _, .of [] rfl (by simp) ?_⟩
    rintro w ⟨h28, h22, hr⟩
    simp (disch := decide) only [decodeWord, decodeMB, h28, h22, hr, plain, zeroed]
    exact if_if_pos rfl hw
  all_goals
    obtain ⟨hf, hl, hp⟩ := Imm.bounds_of_wf ‹_›
    refine ⟨_, _, .of ‹Imm›.xs rfl hp ?_⟩
    rintro w ⟨h28, h22, hr⟩
    simp (disch := decide) only [decodeWord, decodeMB, h28, h22, hr, withImm]
    exact if_if_pos hl hw

theorem codedAs_E (i : Instr) (hw : i.wf = true) (h : i.among 182 230 = true) : ∃ w xs, CodedAs i 6 w xs := by
  cases i
  all_goals cases h
  all_goals
    have hb := hw
    simp only [Instr.wf, Bool.and_eq_true, decide_eq_true_eq] at hb
    try casesm* _ ∧ _
  case copy | tspawn | gdec | ldedup =>
    refine ⟨_, _, .of [] rfl (by simp) ?_⟩
    rintro w ⟨h28, h22, hr⟩
    simp (disch := decide) only [decodeWord, decodeE, h28, h22, hr, plain]
    exact if_pos hw
  case cewi =>
    obtain ⟨hf, hl, hp⟩ := Imm.bounds_of_wf ‹_›
    refine ⟨_, _, .of ‹Imm›.xs rfl hp ?_⟩
    rintro w ⟨h28, h22, hr⟩
    simp (disch := decide) only [decodeWord, decodeE, h28, h22, hr, withImm, zeroed]
    exact (if_pos rfl).trans (if_if_pos hl hw)
  case tsett | tgett | dbind | drebind | dclr | dget | tflag | tzero | tmov | mswap | mxw | mxr | cew | cer | cerst | ystat | gread |
      dflush =>
    refine ⟨_, _, .of [] rfl (by simp) ?_⟩
    rintro w ⟨h28, h22, hr⟩
    simp (disch := decide) only [decodeWord, decodeE, h28, h22, hr, plain, zeroed]
    exact if_if_pos rfl hw
  all_goals
    refine ⟨_, _, .ofX rfl ?_⟩
    rintro w x ⟨h28, h22, hr⟩ hx
    simp (disch := decide) only [decodeWord, decodeE, h28, h22, hr, hx, oneX, zeroed]
    exact if_if_pos rfl hw


/-! ## The classes together -/

/-- A device step has no words. -/
theorem encode_eq_nil (i : Instr) (h : (230).ble i.ctorIdx = true) : encode i = [] := by
  cases i
  all_goals cases h
  all_goals rfl

/-- The instructions that have words, by their classes. -/
theorem among_of_encode_ne_nil {i : Instr} (hne : encode i ≠ []) :
    i.among 0 37 = true ∨ i.among 37 74 = true ∨ i.among 74 114 = true ∨ i.among 114 126 = true ∨ i.among 126 153 = true ∨
      i.among 153 182 = true ∨ i.among 182 230 = true := by
  have hlt : ¬ 230 ≤ i.ctorIdx := fun h => hne (encode_eq_nil i (Nat.ble_eq_true_of_le h))
  simp only [Instr.among, Bool.and_eq_true, Nat.ble_eq, Nat.blt_eq]
  omega

/-- Every well-formed instruction that has words is coded as its class has it. -/
theorem codedAs_of_wf {i : Instr} (hw : i.wf = true) (hne : encode i ≠ []) : ∃ cls < 7, ∃ w xs, CodedAs i cls w xs := by
  obtain h | h | h | h | h | h | h := among_of_encode_ne_nil hne
  · exact ⟨0, by decide, codedAs_S i hw h⟩
  · exact ⟨1, by decide, codedAs_C i hw h⟩
  · exact ⟨2, by decide, codedAs_V i hw h⟩
  · exact ⟨3, by decide, codedAs_F i hw h⟩
  · exact ⟨4, by decide, codedAs_MA i hw h⟩
  · exact ⟨5, by decide, codedAs_MB i hw h⟩
  · exact ⟨6, by decide, codedAs_E i hw h⟩

end Sys2Proof

namespace Sys2Proof.Machine

/-- Settles O2: the words of a well-formed instruction are coded as its class has it, and so read back with either value of B. -/
theorem encodeDecodeAgree : Obligations.EncodeDecodeAgree := by
  intro i w xs hw he
  obtain ⟨cls, hlt, w', xs', h⟩ := codedAs_of_wf hw (by rw [he]; exact List.cons_ne_nil _ _)
  obtain ⟨rfl, rfl⟩ := List.cons_eq_cons.1 (he.symm.trans h.words)
  have h0 := h.reads 0
  have h1 := h.reads 1
  rw [Nat.zero_mul, Nat.add_zero] at h0
  rw [Nat.one_mul] at h1
  exact ⟨h0, h1, h.lt, isX_eq_false_of_class_lt (h.class_eq.trans_lt hlt), h.payloads⟩

end Sys2Proof.Machine
end

section
/-! The sample words (08 R191 to R214). -/
namespace Sys2Proof.Machine

/-- Settles O1: each sample is decoded. -/
theorem decodeSampleWords : Obligations.DecodeSampleWords := by
  unfold Obligations.DecodeSampleWords
  refine ⟨?_, ?_, ?_, ?_, ?_, ?_, ?_, ?_, ?_, ?_, ?_, ?_, ?_, ?_, ?_⟩
  all_goals decide

end Sys2Proof.Machine
end

section
/-! How a word is issued (08 R192, R196 to R200): of which kind it is, its guard, what the guard does not govern. -/
namespace Sys2Proof.Machine

/-- What a word does for its bundle whether or not its guard holds (08 R192, R200): the target its offset fixes is checked, NOP's weight
counts. -/
def State.prepareWord (s : State) (i : Instr) : State :=
  { s with bun := { s.bun with targets := s.bun.targets ++ offsetTarget s.bun.addr i, weight := weightAfter s.bun.weight i } }

theorem State.prepareWord_of_no_target {s : State} {i : Instr} {n : Nat} (hoff : offsetTarget s.bun.addr i = [])
    (hweight : weightAfter s.bun.weight i = n) : s.prepareWord i = { s with bun := { s.bun with weight := n } } := by
  rw [State.prepareWord, hoff, hweight, List.append_nil]

/-- The instruction is issued as a word of kind `k` and guard `g`, with the part `pre` that the guard does not govern. -/
structure IssuedAs (i : Instr) (k : WordKind) (len g : Nat) (pre : State → State) (body : State → Except Stop State) : Prop where
  exec_eq : ∀ s, exec i s = runWordPre k len g pre body s
  guard_eq : ∀ w, (encode i).head? = some w → w % 16 = g
  decoded : ∀ lookup, decodedOn lookup i = true → k.decoded lookup = true
  pre_eq : ∀ s : State, csrMissing (decide (384 ≤ s.ctx.core)) i = false → pre s = s.prepareWord i

/-! ## The guard and the core of a word -/

/-- The guard is the lowest four bits: no field lies there. -/
theorem place_mod_guard {fs : List (Nat × Nat)} (hf : (fs.all fun f => 4 ≤ f.2) = true) : place fs % 16 = 0 := by
  induction fs with
  | nil => rfl
  | cons f fs ih =>
    simp only [List.all_cons, Bool.and_eq_true, decide_eq_true_eq] at hf
    obtain ⟨hl, hf⟩ := hf
    obtain ⟨m, hm⟩ := Nat.exists_eq_add_of_le hl
    rw [place, hm, pow_add, Nat.mul_left_comm]
    exact (Nat.mul_add_mod (2 ^ 4) _ _).trans (ih hf)

theorem mod_guard_of_head {cls op g w : Nat} {fs : List (Nat × Nat)} {xs : List Nat} (hg : g < 16)
    (hf : (fs.all fun f => 4 ≤ f.2) = true) (h : (mkWord cls op fs g :: xs).head? = some w) : w % 16 = g := by
  obtain rfl : mkWord cls op fs g = w := Option.some.inj h
  have hz : place ((cls, 28) :: (op, 22) :: fs) % 16 = 0 := place_mod_guard (by simpa using hf)
  rw [mkWord, Nat.add_mod, hz, Nat.zero_add, Nat.mod_mod, Nat.mod_eq_of_lt hg]

/-- Whether a core decodes words by their class alone: classes S, C and MA on both kinds of core. -/
def decodedByClass (lookup : Bool) : List Nat → Bool
  | w :: _ => !lookup || classOf w == 0 || classOf w == 1 || classOf w == 4
  | [] => false

/-- Words of the other classes, save those named, are decoded on main cores only. -/
theorem main_of_decodedOn {i : Instr} {cls : Nat} (hi : ∃ w xs, CodedAs i cls w xs) (hc : (cls == 0 || cls == 1 || cls == 4) = false)
    (hd : ∀ lookup, decodedOn lookup i = decodedByClass lookup (encode i)) (lookup : Bool) (h : decodedOn lookup i = true) :
    (!lookup) = true := by
  obtain ⟨w, xs, hi⟩ := hi
  cases lookup with
  | false => rfl
  | true =>
    rw [hd, hi.words, decodedByClass, hi.class_eq, Bool.not_true, Bool.false_or, hc] at h
    exact h

section
variable {i : Instr} {k : WordKind} {len g cls op : Nat} {fs : List (Nat × Nat)} {xs : List Nat} {pre : State → State}
  {body : State → Except Stop State}

/-- A word with a part that the guard does not govern. -/
theorem IssuedAs.wordPre (exec_eq : ∀ s, exec i s = runWordPre k len g pre body s) (words : encode i = mkWord cls op fs g :: xs)
    (hf : (fs.all fun f => 4 ≤ f.2) = true) (decoded : ∀ lookup, decodedOn lookup i = true → k.decoded lookup = true)
    (pre_eq : ∀ s : State, csrMissing (decide (384 ≤ s.ctx.core)) i = false → pre s = s.prepareWord i)
    (guard : g < 16 := by assumption) : IssuedAs i k len g pre body :=
  ⟨exec_eq, fun _ h => mod_guard_of_head guard hf (words ▸ h), decoded, pre_eq⟩

/-- A word that the guard governs wholly. -/
theorem IssuedAs.word (exec_eq : ∀ s, exec i s = runWord k len g body s) (words : encode i = mkWord cls op fs g :: xs)
    (hf : (fs.all fun f => 4 ≤ f.2) = true) (decoded : ∀ lookup, decodedOn lookup i = true → k.decoded lookup = true)
    (hoff : ∀ a, offsetTarget a i = []) (hweight : ∀ n, weightAfter n i = n) (guard : g < 16 := by assumption) :
    IssuedAs i k len g id body := by
  refine .wordPre (fun s => ?_) words hf decoded (fun s _ => ?_) guard
  · rw [exec_eq, runWord]
  · exact (State.prepareWord_of_no_target (hoff _) (hweight _)).symm

end

/-! ## The words, class by class -/

theorem issuedAs_S (i : Instr) (hw : i.wf = true) (h : i.among 0 37 = true) : ∃ k len g pre body, IssuedAs i k len g pre body := by
  cases i
  all_goals cases h
  all_goals
    simp only [Instr.wf, Bool.and_eq_true, decide_eq_true_eq] at hw
    casesm* _ ∧ _
    exact ⟨_, _, _, _, _, .word (fun _ => rfl) rfl rfl (fun _ _ => rfl) (fun _ => rfl) fun _ => rfl⟩

/-- Where the core has the CSR, its words have no part but that under their guard. -/
theorem csrPre_eq {csr : Nat} {s : State} (h : (decide (384 ≤ s.ctx.core) && !csrOnLookup csr) = false) : csrPre csr s = s := by
  rw [csrPre, h]
  exact if_neg Bool.false_ne_true

theorem issuedAs_C (i : Instr) (hw : i.wf = true) (h : i.among 37 74 = true) : ∃ k len g pre body, IssuedAs i k len g pre body := by
  cases i
  all_goals cases h
  all_goals
    simp only [Instr.wf, Bool.and_eq_true, decide_eq_true_eq] at hw
    try casesm* _ ∧ _
  case nop =>
    refine ⟨_, _, _, _, _, .wordPre (fun _ => rfl) rfl rfl (fun _ _ => rfl) fun s _ => ?_⟩
    rw [State.prepareWord_of_no_target rfl rfl]
    rfl
  case br | call | lclose | loop | loopi | loopt =>
    exact ⟨_, _, _, _, _, .wordPre (fun _ => rfl) rfl rfl (fun _ _ => rfl) fun _ _ => rfl⟩
  case csrr | csrw | csrs | csrc =>
    refine ⟨_, _, _, _, _, .wordPre (fun _ => rfl) rfl rfl (fun _ _ => rfl) fun s hs => ?_⟩
    rw [csrPre_eq hs, State.prepareWord_of_no_target rfl rfl]
    rfl
  case bara | barw => exact ⟨_, _, _, _, _, .word (fun _ => rfl) rfl rfl (fun _ h => h) (fun _ => rfl) fun _ => rfl⟩
  all_goals exact ⟨_, _, _, _, _, .word (fun _ => rfl) rfl rfl (fun _ _ => rfl) (fun _ => rfl) fun _ => rfl⟩

theorem issuedAs_V (i : Instr) (hw : i.wf = true) (h : i.among 74 114 = true) : ∃ k len g pre body, IssuedAs i k len g pre body := by
  have hmain := main_of_decodedOn (codedAs_V i hw h) rfl
  cases i
  all_goals cases h
  all_goals
    simp only [Instr.wf, Bool.and_eq_true, decide_eq_true_eq] at hw
    casesm* _ ∧ _
    exact ⟨_, _, _, _, _, .word (fun _ => rfl) rfl rfl (hmain fun _ => rfl) (fun _ => rfl) fun _ => rfl⟩

theorem issuedAs_F (i : Instr) (hw : i.wf = true) (h : i.among 114 126 = true) : ∃ k len g pre body, IssuedAs i k len g pre body := by
  have hmain := main_of_decodedOn (codedAs_F i hw h) rfl
  cases i
  all_goals cases h
  all_goals
    simp only [Instr.wf, Bool.and_eq_true, decide_eq_true_eq] at hw
    casesm* _ ∧ _
    exact ⟨_, _, _, _, _, .word (fun _ => rfl) rfl rfl (hmain fun _ => rfl) (fun _ => rfl) fun _ => rfl⟩

theorem issuedAs_MA (i : Instr) (hw : i.wf = true) (h : i.among 126 153 = true) : ∃ k len g pre body, IssuedAs i k len g pre body := by
  cases i
  all_goals cases h
  all_goals
    simp only [Instr.wf, Bool.and_eq_true, decide_eq_true_eq] at hw
    casesm* _ ∧ _
  case qpops | tlds | tsts | vldr | vstx | vpack | vunpack =>
    exact ⟨_, _, _, _, _, .word (fun _ => rfl) rfl rfl (fun _ h => h) (fun _ => rfl) fun _ => rfl⟩
  all_goals exact ⟨_, _, _, _, _, .word (fun _ => rfl) rfl rfl (fun _ _ => rfl) (fun _ => rfl) fun _ => rfl⟩

theorem issuedAs_MB (i : Instr) (hw : i.wf = true) (h : i.among 153 182 = true) : ∃ k len g pre body, IssuedAs i k len g pre body := by
  have hmain := main_of_decodedOn (codedAs_MB i hw h) rfl
  cases i
  all_goals cases h
  all_goals
    simp only [Instr.wf, Bool.and_eq_true, decide_eq_true_eq] at hw
    casesm* _ ∧ _
    exact ⟨_, _, _, _, _, .word (fun _ => rfl) rfl rfl (hmain fun _ => rfl) (fun _ => rfl) fun _ => rfl⟩

theorem issuedAs_E (i : Instr) (hw : i.wf = true) (h : i.among 182 230 = true) : ∃ k len g pre body, IssuedAs i k len g pre body := by
  have hmain := main_of_decodedOn (codedAs_E i hw h) rfl
  cases i
  all_goals cases h
  all_goals
    simp only [Instr.wf, Bool.and_eq_true, decide_eq_true_eq] at hw
    try casesm* _ ∧ _
  case lgath | ldedup | lpool | lhand =>
    exact ⟨_, _, _, _, _, .word (fun _ => rfl) rfl rfl (fun _ h => h) (fun _ => rfl) fun _ => rfl⟩
  case cew | cewi | cer | cerst | copy =>
    exact ⟨_, _, _, _, _, .word (fun _ => rfl) rfl rfl (fun _ _ => rfl) (fun _ => rfl) fun _ => rfl⟩
  all_goals exact ⟨_, _, _, _, _, .word (fun _ => rfl) rfl rfl (hmain fun _ => rfl) (fun _ => rfl) fun _ => rfl⟩

theorem issuedAs_of_wf {i : Instr} (hw : i.wf = true) (hne : encode i ≠ []) : ∃ k len g pre body, IssuedAs i k len g pre body := by
  obtain h | h | h | h | h | h | h := among_of_encode_ne_nil hne
  exacts [issuedAs_S i hw h, issuedAs_C i hw h, issuedAs_V i hw h, issuedAs_F i hw h, issuedAs_MA i hw h, issuedAs_MB i hw h,
    issuedAs_E i hw h]

/-! ## A squashed word -/

/-- A word whose guard is 0 does no more than it does for its bundle anyway (08 R192). -/
theorem IssuedAs.exec_squashed {i : Instr} {k : WordKind} {len g w : Nat} {pre : State → State} {body : State → Except Stop State}
    {s : State} (hi : IssuedAs i k len g pre body) (h : s.squashes i w) : exec i s = .next (s.prepareWord i) := by
  have hopen : s.bun.isOpen = true := h.isOpen
  have hgoing : (s.prepareWord i).bun.stop = none := h.going
  have hacq : (s.prepareWord i).acquiring = false := h.acquired
  have hguard : (s.prepareWord i).ctx.pAt g = false := hi.guard_eq w h.first ▸ h.guard
  simp [hi.exec_eq, runWordPre, runPart, hopen, h.going, hi.decoded _ h.decoded, hi.pre_eq s h.csr, hgoing, hacq, hguard]

/-- Settles O7: the word is issued as its class has it, and a word so issued does nothing more where its guard is 0. -/
theorem squashedWords : Obligations.SquashedWords := by
  intro s i w hw h
  have hne : encode i ≠ [] := fun he => by simpa [he] using h.first
  obtain ⟨k, len, g, pre, body, hi⟩ := issuedAs_of_wf hw hne
  exact hi.exec_squashed h

end Sys2Proof.Machine
end

section
/-! A word alone (08 R196, R197, R204): every word runs as its part of a bundle, and the bundle is opened over the results that are due. -/
namespace Sys2Proof.Machine

/-! ## What a bundle finds as it opens (08 R205) -/

theorem Ctx.setCsr_pc (c : Ctx) (n : Nat) (w : Word) : (c.setCsr n w).pc = c.pc := by
  unfold Ctx.setCsr
  split <;> rfl

/-- A result goes to its register, the PC is none. -/
theorem Ctx.apply_pc (c : Ctx) (r : Result) : (c.apply r).pc = c.pc := by
  cases r
  case csr n w =>
    simp only [Ctx.apply, Ctx.mend, apply_ite Ctx.pc, Ctx.setCsr_pc, ite_self]
  all_goals simp only [Ctx.apply, Ctx.mend, apply_ite Ctx.pc, ite_self]

theorem retireList_pc (upto : Nat) (fs : List InFlight) (c : Ctx) : (retireList upto fs c).pc = c.pc := by
  induction fs generalizing c with
  | nil => rfl
  | cons f fs ih =>
    rw [retireList]
    split
    · rw [ih, Ctx.apply_pc]
    · rfl

theorem Ctx.retire_pc (c : Ctx) (upto : Nat) : (c.retire upto).pc = c.pc := retireList_pc upto c.inflight c

/-! ## The words of an instruction, counted -/

theorem length_words_imm (w : Nat) (imm : Imm) : (w :: imm.xs.map mkX).length = immLen imm := by
  rw [immLen, List.length_cons, List.length_map, Nat.add_comm]

theorem length_words_opt {α : Type} (w : Nat) (m : Option α) (f : α → Nat) : (w :: m.toList.map f).length = optLen m := by
  cases m <;> rfl

theorem exec_eq_runWordPre_of_length {i : Instr} {k : WordKind} {len g : Nat} {pre : State → State} {body : State → Except Stop State}
    (hexec : ∀ s, exec i s = runWordPre k len g pre body s) (hlen : (encode i).length = len) (s : State) :
    exec i s = runWordPre k (encode i).length g pre body s := by
  rw [hlen, hexec]

/-- Every instruction that has words runs as a word of that length. -/
theorem exec_eq_runWordPre {i : Instr} (h : i.ctorIdx.blt 230 = true) : ∃ k g pre body, ∀ s,
    exec i s = runWordPre k (encode i).length g pre body s := by
  cases i
  all_goals cases h
  case addi | movi | andi | ori | xori | cmpeqi | cmplti | br | call | lclose | cewi | ldb | ldbu | ldh | ldhu | ldw | ldwu | ldd | lda |
      stb | sth | stw | std | strl | ldbCm | ldbuCm | ldhCm | ldhuCm | ldwCm | ldwuCm | lddCm | ldaCm | stbCm | sthCm | stwCm | stdCm |
      strlCm =>
    exact ⟨_, _, _, _, exec_eq_runWordPre_of_length (fun _ => rfl) (length_words_imm _ _)⟩
  case vadd | vsub | vmul | vfma | vdiv | vmin | vmax | vneg | vabs | vand | vor | vxor | vshl | vshr | vsar | vsel | vcmpeq | vcmpne |
      vcmplt | vcmple | vcvt | vred | aadd | aswp | acas | amin | amax | aminu | amaxu | qpops | aaddCm | aswpCm | acasCm | aminCm |
      amaxCm | aminuCm | amaxuCm | qpopsCm =>
    exact ⟨_, _, _, _, exec_eq_runWordPre_of_length (fun _ => rfl) (length_words_opt _ _ _)⟩
  all_goals exact ⟨_, _, _, _, exec_eq_runWordPre_of_length (fun _ => rfl) rfl⟩

/-- Settles O4: the bundle opens at the PC, and the word's part, run there, is closed. -/
theorem loneWordIsABundle : Obligations.LoneWordIsABundle := by
  intro s t i hopen hctx hne
  have hlt : i.ctorIdx.blt 230 = true := by
    by_contra h
    exact hne (encode_eq_nil i (by simpa using h))
  refine ⟨⟨rfl, rfl, Ctx.retire_pc s.ctx s.ctx.bidx, rfl, State.ctx_putCtx s _, rfl, rfl, rfl⟩, fun h => ?_⟩
  obtain ⟨k, g, pre, body, hexec⟩ := exec_eq_runWordPre hlt
  rw [hexec, runWordPre_alone hopen hctx]
  rw [hexec] at h
  exact congrArg (fun u => Host.Outcome.next (closeBundle s u)) (Host.Outcome.next.inj h)

end Sys2Proof.Machine
end

section
/-! Rows of runs cut, joined and lengthened, and the words of class V that move, count or rebuild rows (05 R125, R131; 10 R259, R261 to
R263). -/
namespace Sys2Proof.Machine

/-! ## The elements of rows joined and cut (05 R115) -/

theorem chain_append (r r' : List Run) : chain (r ++ r') = chain r + chain r' := by
  induction r with
  | nil => simp [chain]
  | cons q r ih => simp only [List.cons_append, chain, ih, Nat.add_assoc]

theorem elemAt_append (r r' : List Run) (j : Nat) : elemAt (r ++ r') j = if j < chain r then elemAt r j else elemAt r' (j - chain r) := by
  induction r generalizing j with
  | nil => simp [chain]
  | cons q r ih =>
    simp only [List.cons_append, elemAt, ih, chain, Nat.sub_sub]
    by_cases hq : j < q.cnt
    · simp only [hq, if_true, show j < q.cnt + chain r by omega]
    · simp only [hq, if_false, show j - q.cnt < chain r ↔ j < q.cnt + chain r by omega]

theorem chain_takeRuns (r : List Run) (n : Nat) : chain (takeRuns r n) = min n (chain r) := by
  induction r generalizing n with
  | nil => simp [takeRuns, chain]
  | cons q r ih =>
    simp only [takeRuns]
    split_ifs
    all_goals
      simp only [chain, ih]
      omega

theorem elemAt_takeRuns {n j : Nat} (r : List Run) (h : j < n) : elemAt (takeRuns r n) j = elemAt r j := by
  induction r generalizing n j with
  | nil => rfl
  | cons q r ih =>
    rw [takeRuns, if_neg (show n ≠ 0 by omega)]
    split
    case isTrue hn => simp only [elemAt, if_pos h, if_pos (show j < q.cnt by omega)]
    case isFalse hn =>
      simp only [elemAt]
      split
      case isTrue => rfl
      case isFalse hj => exact ih (by omega)

/-- A row rotated keeps its chainage, and each element stands `k` places on (10 R262). -/
theorem rotateRow_spec (k : Int) (r : List Run) : chain (rotateRow k r) = chain r ∧
    ∀ j < chain r, elemAt (rotateRow k r) (((j : Int) + k) % chain r).toNat = elemAt r j := by
  by_cases h0 : chain r = 0
  · simp [rotateRow, h0, chain]
  · -- `m` places modulo the chainage: the last `m` elements come first.
    obtain ⟨m, hm⟩ := Int.eq_ofNat_of_zero_le (Int.emod_nonneg k (b := (chain r : Int)) (by omega))
    have hlt : m < chain r := by
      have := Int.emod_lt_of_pos k (b := (chain r : Int)) (by omega)
      omega
    have hrow : rotateRow k r = dropRuns r (chain r - m) ++ takeRuns r (chain r - m) := by
      rw [rotateRow, if_neg h0, hm]
      rfl
    have hdrop : chain (dropRuns r (chain r - m)) = m := by
      rw [chain_dropRuns]
      omega
    refine ⟨by rw [hrow, chain_append, hdrop, chain_takeRuns]; omega, fun j hj => ?_⟩
    have hplace : (((j : Int) + k) % chain r).toNat = (j + m) % chain r := by
      rw [← Int.add_emod_emod, hm]
      rfl
    rw [hplace, hrow, elemAt_append, hdrop]
    by_cases hjm : j + m < chain r
    · rw [Nat.mod_eq_of_lt hjm, if_neg (by omega), elemAt_takeRuns _ (by omega), Nat.add_sub_cancel]
    · rw [Nat.mod_eq_sub_mod (by omega), Nat.mod_eq_of_lt (by omega), if_pos (by omega), elemAt_dropRuns]
      congr 1
      omega

/-- A row set to chainage `n` keeps its elements up to there and repeats its last one, or bits 0 (05 R131). -/
theorem setChain_spec {r : List Run} (hok : countsOk r) (n : Nat) : chain (setChain n r) = n ∧
    ∀ j < n, elemAt (setChain n r) j =
      if j < chain r then elemAt r j else if chain r = 0 then 0 else elemAt r (chain r - 1) := by
  by_cases hn : n ≤ chain r
  · rw [setChain, if_pos hn]
    refine ⟨by rw [chain_takeRuns]; omega, fun j hj => ?_⟩
    rw [elemAt_takeRuns r hj, if_pos (by omega)]
  · rw [setChain, if_neg hn]
    rcases List.eq_nil_or_concat r with rfl | ⟨r, q, rfl⟩
    · refine ⟨rfl, fun j hj => ?_⟩
      simp [elemAt, chain, hj]
    · have hq : 1 ≤ q.cnt := (hok q (by simp)).1
      simp only [List.concat_eq_append, List.getLast?_append, List.getLast?_singleton, Option.some_or, List.dropLast_concat,
        chain_append, chain, elemAt_append, elemAt, Nat.add_zero] at hn ⊢
      refine ⟨by omega, fun j hj => ?_⟩
      by_cases hjr : j < chain r
      · simp only [hjr, if_true, show j < chain r + q.cnt by omega]
      · have hlast : ¬chain r + q.cnt - 1 < chain r := by omega
        simp only [hjr, hlast, if_false, show chain r + q.cnt ≠ 0 by omega, show chain r + q.cnt - 1 - chain r < q.cnt by omega,
          show j - chain r < q.cnt + (n - (chain r + q.cnt)) by omega,
          show j - chain r < q.cnt ↔ j < chain r + q.cnt by omega, if_true]
        split
        all_goals rfl

/-- A row of a result made row by row. -/
theorem VReg.wf.getD_map_rows {v : VReg} (h : v.wf) (f : List Run → List Run) {l : Nat} (hl : l < 16) :
    (v.rows.map f).getD l [] = f (v.row l) := by
  have hlen : l < v.rows.length := h.1 ▸ hl
  simp [VReg.row, List.getD, hlen]

/-! ## The words (10 R259, R261 to R263) -/

section RowWords

variable {s : State} {g : Nat}

/-- A word of class V or F in its bundle does what its body does. -/
theorem exec_vector {i : Instr} {len : Nat} {body : State → Except Stop State} {t : State}
    (hexec : exec i s = runWord .vector len g body s) (hrun : s.canRun .vector g) (hb : body s = .ok t) : exec i s = .next t :=
  hexec.trans (runWord_ok hrun hb)

/-- A word of class V or F in its bundle stops where its body stops. -/
theorem exec_vector_stop {i : Instr} {len : Nat} {body : State → Except Stop State} {e : Stop}
    (hexec : exec i s = runWord .vector len g body s) (hrun : s.canRun .vector g) (hb : body s = .error e) :
    exec i s = .next (s.stopAt e) :=
  hexec.trans (runWord_stop hrun hb)

variable (hrun : s.canRun .vector g) {a b : Nat} (d : Nat)

include hrun

theorem exec_vsplat (ha : s.readable a) (hb : s.readable b) (tag : Nat) (hn : (s.xval b).toNat ≤ 4096) :
    exec (.vsplat g tag d a b) s = .next (s.wv 4 d (tagField tag)
      (List.replicate 16 (if s.xval b = 0 then [] else [⟨(s.xval a).setWidth 32, (s.xval b).toNat⟩]))) := by
  refine exec_vector rfl hrun ?_
  simp [State.rx_of_readable ha, State.rx_of_readable hb, need, hn, bind, Except.bind, pure, Except.pure]

theorem exec_vsplat_stop (ha : s.readable a) (hb : s.readable b) (tag : Nat) (hn : 4096 < (s.xval b).toNat) :
    exec (.vsplat g tag d a b) s = .next (s.stopAt (rnFault 3 0 0xFFFF 0 (s.xval b).toNat (s.xval b).toNat 0)) := by
  refine exec_vector_stop rfl hrun ?_
  simp [State.rx_of_readable ha, State.rx_of_readable hb, need, countFault, Nat.not_le.2 hn, bind, Except.bind]

theorem exec_vbcst (hb : s.readable b)
    (hj : ∀ l < 16, chain ((s.ctx.vAt a).row l) = 0 ∨ (s.xval b).toNat < chain ((s.ctx.vAt a).row l)) :
    exec (.vbcst g d a b) s = .next (s.wv 4 d (s.ctx.vAt a).tag
      ((s.ctx.vAt a).rows.map fun r => if chain r = 0 then [] else [⟨elemAt r (s.xval b).toNat, chain r⟩])) := by
  have hls : (rows16.filter fun l => decide (0 < chain ((s.ctx.vAt a).row l)) &&
      decide (chain ((s.ctx.vAt a).row l) ≤ (s.xval b).toNat)) = [] :=
    List.filter_eq_nil_iff.2 fun l hl => by
      have := hj l (lt16_of_mem_rows16 hl)
      simp only [Bool.and_eq_true, decide_eq_true_eq]
      omega
  refine exec_vector rfl hrun ?_
  simp only [State.rx_of_readable hb, bind, Except.bind, hls, checkPos, pure, Except.pure]

theorem exec_vsetch (hb : s.readable b) (hn : (s.xval b).toNat ≤ 4096) :
    exec (.vsetch g d a b) s = .next (s.wv 4 d (s.ctx.vAt a).tag ((s.ctx.vAt a).rows.map (setChain (s.xval b).toNat))) := by
  refine exec_vector rfl hrun ?_
  simp [State.rx_of_readable hb, need, hn, bind, Except.bind, pure, Except.pure]

theorem exec_vsetch_stop (hb : s.readable b) (hn : 4096 < (s.xval b).toNat) :
    exec (.vsetch g d a b) s =
      .next (s.stopAt (rnFault 3 0 0xFFFF 0 (chain ((s.ctx.vAt a).row 0)) (s.xval b).toNat 0)) := by
  refine exec_vector_stop rfl hrun ?_
  simp [State.rx_of_readable hb, need, countFault, Nat.not_le.2 hn, bind, Except.bind]

theorem exec_vextr (hb : s.readable b)
    (hj : (s.xval b).toNat % 4096 < chain ((s.ctx.vAt a).row ((s.xval b).toNat / 4096 % 16))) :
    exec (.vextr g d a b) s = .next (s.wx 6 d
      (let e := elemAt ((s.ctx.vAt a).row ((s.xval b).toNat / 4096 % 16)) ((s.xval b).toNat % 4096)
        if (s.ctx.vAt a).tag = .int32 then e.signExtend 64 else e.setWidth 64)) := by
  refine exec_vector rfl hrun ?_
  simp [State.rx_of_readable hb, hj, checkPos, bind, Except.bind, pure, Except.pure]

theorem exec_vrot (hb : s.readable b) (hwf : (s.ctx.vAt a).wf) (c : Nat)
    (hlen : ∀ l < 16, ((if c = 1 then mergeRuns else id) (rotateRow (s.xval b).toInt ((s.ctx.vAt a).row l))).length ≤ 64) :
    exec (.vrot g c d a b) s = .next (s.wv 4 d (s.ctx.vAt a).tag
      ((s.ctx.vAt a).rows.map fun r => (if c = 1 then mergeRuns else id) (rotateRow (s.xval b).toInt r))) := by
  have hruns := checkRuns_ok (fun l => chain ((s.ctx.vAt a).row l))
    (rows := (s.ctx.vAt a).rows.map fun r => (if c = 1 then mergeRuns else id) (rotateRow (s.xval b).toInt r))
    fun l hl => by rw [hwf.getD_map_rows _ hl]; exact hlen l hl
  refine exec_vector rfl hrun ?_
  by_cases hc : c = 1
  all_goals
    simp only [hc, if_true, if_false, id] at hruns ⊢
    simp [State.rx_of_readable hb, hruns, Function.comp_def, bind, Except.bind, pure, Except.pure]

end RowWords

/-- Settles O24: each word writes the rows of its body, which `setChain_spec` and `rotateRow_spec` describe. -/
theorem rowWordResults : Obligations.RowWordResults := by
  unfold Obligations.RowWordResults
  intro s g c d a b tag hrun ha hb v hwf
  refine ⟨exec_vector rfl hrun rfl, exec_vector rfl hrun rfl, exec_vector rfl hrun rfl, exec_vsplat hrun d ha hb tag,
    exec_vsplat_stop hrun d ha hb tag, exec_vbcst hrun d hb, fun hn => ?_, exec_vsetch_stop hrun d hb,
    exec_vextr hrun d hb, fun hlen => ?_⟩
  · refine ⟨_, exec_vsetch hrun d hb hn, by rw [List.length_map, hwf.1], fun l hl => ?_⟩
    rw [hwf.getD_map_rows _ hl]
    exact setChain_spec (hwf.countsOk_row hl) _
  · refine ⟨_, exec_vrot hrun d hb hwf c hlen, by rw [List.length_map, hwf.1], fun l hl => ?_⟩
    obtain ⟨hchain, helem⟩ := rotateRow_spec (s.xval b).toInt (v.row l)
    rw [hwf.getD_map_rows _ hl]
    split
    · exact ⟨(chain_mergeRuns _).trans hchain, fun j hj => (elemAt_mergeRuns _ _).trans (helem j hj)⟩
    · exact ⟨hchain, helem⟩

end Sys2Proof.Machine
end

section
/-! Conversion, reductions, scans, expansion and the words across rows (05 R126, R129 to R132; 10 R260, R262, R264). -/
namespace Sys2Proof.Machine

/-! ## The elements of a row one by one -/

theorem expandRow_eq_map_elemAt (r : List Run) : expandRow r = (List.range (chain r)).map (elemAt r) := by
  induction r with
  | nil => rfl
  | cons q r ih =>
    have hfirst : (List.range q.cnt).map (elemAt (q :: r)) = List.replicate q.cnt q.val := by
      rw [← List.length_range (n := q.cnt), ← List.map_const', List.length_range]
      exact List.map_congr_left fun j hj => if_pos (List.mem_range.1 hj)
    have hrest : (List.range (chain r)).map (elemAt (q :: r) ∘ (q.cnt + ·)) = (List.range (chain r)).map (elemAt r) :=
      List.map_congr_left fun j _ => by simp [elemAt]
    rw [chain, List.range_add, List.map_append, List.map_map, hfirst, hrest, ← ih]
    rfl

theorem length_expandRow (r : List Run) : (expandRow r).length = chain r := by
  rw [expandRow_eq_map_elemAt, List.length_map, List.length_range]

/-- Rows of one chainage with the same elements expand alike. -/
theorem expandRow_congr {r r' : List Run} (hc : chain r = chain r') (he : ∀ j < chain r', elemAt r j = elemAt r' j) :
    expandRow r = expandRow r' := by
  rw [expandRow_eq_map_elemAt, expandRow_eq_map_elemAt, hc]
  exact List.map_congr_left fun j hj => he j (List.mem_range.1 hj)

theorem expandRow_mergeRuns (r : List Run) : expandRow (mergeRuns r) = expandRow r :=
  expandRow_congr (chain_mergeRuns r) fun j _ => elemAt_mergeRuns r j

theorem expandRow_mapPieces (f : List Half → Half) {rs : List (List Run)} {h : Nat} (hrs : rs ≠ []) (hok : ∀ r ∈ rs, countsOk r)
    (hch : ∀ r ∈ rs, chain r = h) :
    expandRow (mapPieces f (allPieces rs)) = (List.range h).map fun j => f (rs.map (elemAt · j)) := by
  obtain ⟨hchain, helem⟩ := pieces_spec f hrs hok hch (runCount_lt_pieceFuel rs)
  rw [expandRow_eq_map_elemAt]
  exact hchain ▸ List.map_congr_left fun j hj => helem j (hchain ▸ List.mem_range.1 hj)

/-! ## The pieces of one row (05 R121): its runs -/

theorem dropRuns_zero {r : List Run} (hok : countsOk r) : dropRuns r 0 = r := by
  cases r with
  | nil => rfl
  | cons q r => exact if_pos (hok q List.mem_cons_self).1

theorem pieces_single {r : List Run} (hok : countsOk r) {fuel : Nat} (hfuel : r.length < fuel) :
    pieces fuel [r] = r.map fun q => ([q.val], q.cnt) := by
  induction r generalizing fuel with
  | nil =>
    obtain ⟨fuel, rfl⟩ := Nat.exists_eq_succ_of_ne_zero (Nat.ne_of_gt hfuel)
    rfl
  | cons q r ih =>
    obtain ⟨fuel, rfl⟩ := Nat.exists_eq_succ_of_ne_zero (Nat.ne_of_gt (Nat.zero_lt_of_lt hfuel))
    obtain ⟨hq, hr⟩ := List.forall_mem_cons.1 hok
    have hlen : firstLen [q :: r] = q.cnt := min_eq_right hq.2
    have hdrop : dropRuns (q :: r) q.cnt = r := by
      rw [dropRuns, if_neg (Nat.lt_irrefl _), Nat.sub_self, dropRuns_zero hr]
    rw [pieces_succ fuel (by simp), hlen, List.map_singleton, List.map_singleton, hdrop, ih hr (Nat.lt_of_succ_lt_succ hfuel)]
    rfl

theorem allPieces_single {r : List Run} (hok : countsOk r) : allPieces [r] = r.map fun q => ([q.val], q.cnt) :=
  pieces_single hok (by simp [pieceFuel])

/-! ## Results without draws -/

/-- Rows made of what stands in `xs`, where nothing has been drawn. -/
theorem zipWith_splitAs_nil {α β γ : Type} (f : α → List β → γ) (len : α → Nat) (xs : List α) :
    List.zipWith f xs (splitAs (xs.map len) []) = xs.map (f · []) := by
  rw [splitAs_nil, List.map_map, List.zipWith_map_right, List.zipWith_self]
  rfl

theorem getD_replicate_16 {α : Type} (x : α) {y : α} {l : Nat} (hl : l < 16) : (List.replicate 16 x).getD l y = x := by
  rw [List.getD_eq_getElem?_getD, List.getElem?_replicate, if_pos hl, Option.getD_some]

/-- A row of the result of a word that coalesces where its C is 1 (05 R124). -/
def coalesce (c : Nat) : List Run → List Run := if c = 1 then mergeRuns else id

theorem coalesce_eq_or (c : Nat) (r : List Run) : coalesce c r = mergeRuns r ∨ coalesce c r = r := by
  unfold coalesce
  split
  · exact .inl rfl
  · exact .inr rfl

theorem chain_coalesce (c : Nat) (r : List Run) : chain (coalesce c r) = chain r := by
  rcases coalesce_eq_or c r with h | h
  · rw [h, chain_mergeRuns]
  · rw [h]

theorem expandRow_coalesce (c : Nat) (r : List Run) : expandRow (coalesce c r) = expandRow r := by
  rcases coalesce_eq_or c r with h | h
  · rw [h, expandRow_mergeRuns]
  · rw [h]

theorem length_coalesce_le (c : Nat) (r : List Run) : (coalesce c r).length ≤ r.length := by
  rcases coalesce_eq_or c r with h | h
  · exact h ▸ length_mergeRuns_le r
  · rw [h]

theorem coalesced_eq_map (c : Nat) (rows : List (List Run)) :
    (if c = 1 then rows.map mergeRuns else rows) = rows.map (coalesce c) := by
  unfold coalesce
  split
  · rfl
  · rw [List.map_id]

theorem getD_splitAs_nil {α : Type} (ns : List Nat) (l : Nat) : (splitAs ns ([] : List α)).getD l [] = [] := by
  rw [splitAs_nil]
  induction ns generalizing l with
  | nil => rfl
  | cons n ns ih => cases l with
    | zero => rfl
    | succ l => exact ih l

/-! ## Conversion (10 R260) -/

section Words

variable {s : State} {g a b : Nat} (hrun : s.canRun .vector g) (hwf : (s.ctx.vAt a).wf) (d : Nat)

theorem VReg.wf.length_row {v : VReg} (h : v.wf) {l : Nat} (hl : l < 16) : (v.row l).length ≤ 64 := by
  obtain ⟨hlen, hrows⟩ := h
  have hmem : v.row l ∈ v.rows := by
    rw [VReg.row, List.getD_eq_getElem _ _ (hlen ▸ hl)]
    exact List.getElem_mem _
  exact (hrows _ hmem).1

/-- The row that VRED makes of one. -/
def reducedRow (t : VTag) (op rnd : Nat) (r : List Run) : List Run :=
  if chain r = 0 then [] else
    [⟨if op = 3 then BitVec.ofNat 32 (chain r) else reduceTerms t op rnd 0 (r.map fun q => (q.val, q.cnt)), chain r⟩]

theorem foldl_counts (r : List Run) : (r.map fun q => (q.val, q.cnt)).foldl (fun n p => n + p.2) 0 = chain r := by
  have h (n : Nat) : (r.map fun q => (q.val, q.cnt)).foldl (fun n p => n + p.2) n = n + chain r := by
    induction r generalizing n with
    | nil => rfl
    | cons q r ih => simp only [List.map_cons, List.foldl_cons, ih, chain, Nat.add_assoc]
  rw [h, Nat.zero_add]

/-- A running sum for each run that the scan writes. -/
theorem length_scanSums (t : VTag) (acc : Option Num) (r : List Run) : (scanSums t acc r).length =
    (r.flatMap fun q => if scanFlat t q.val then [q] else List.replicate q.cnt ⟨0, 1⟩).length := by
  induction r generalizing acc with
  | nil => rfl
  | cons q r ih =>
    simp only [scanSums, List.flatMap_cons, List.length_append, ih]
    split
    all_goals simp

/-- The value that VCVT makes of one of tag `t`. -/
def convert (t t' : VTag) (raw rnd : Nat) (sat : Option Nat) (x : Half) : Half :=
  if raw = 1 ∨ t' = t then x else t'.ofNum rnd (sat == some 1) 0 (t.num x)

include hrun hwf

theorem exec_vcvt (c raw tag : Nat) {rnd : Nat} (sat : Option Nat) (hrnd : rnd ≠ 1) :
    exec (.vcvt g c d rnd a raw tag sat) s = .next (s.wv 4 d (tagField tag)
      (laneRows (c == 1) (fun vs => convert (s.ctx.vAt a).tag (tagField tag) raw rnd sat (vs.headD 0)) [s.ctx.vAt a])) := by
  refine exec_vector rfl hrun ?_
  have hdraw : (rnd == 1 && raw != 1) = false := by simp [hrnd]
  have hlen : ∀ l < 16, (allPieces (rowsAt (operands (s.ctx.vAt a) []) l)).length ≤ 64 := fun l hl => by
    simpa [operands, rowsAt, allPieces_single (hwf.countsOk_row hl)] using hwf.length_row hl
  simp only [hdraw]
  rw [elementwise_ok _ _ (by simp) hlen]
  simp [operands, convert]

/-! ## Reductions and scans along a row (10 R262, 05 R129 to R131) -/

theorem exec_vred (op : Nat) {rnd : Nat} (hrnd : rnd ≠ 1) :
    exec (.vred g d rnd a op none) s = .next (s.wv 6 d (if op = 3 then .uint32 else (s.ctx.vAt a).tag)
      (rows16.map fun l => reducedRow (s.ctx.vAt a).tag op rnd ((s.ctx.vAt a).row l))) := by
  refine exec_vector rfl hrun ?_
  have hdraw : (decide (rnd = 1) && decide (op = 0) && !(s.ctx.vAt a).tag.isInt) = false := by simp [hrnd]
  simp only [Option.getD_none, checkChains_ok (others := []) (by simp), hdraw, Bool.false_eq_true, if_false, bind, Except.bind, pure,
    Except.pure, List.map_nil, List.isEmpty_nil, Bool.true_or, List.filter_true, getD_splitAs_nil]
  refine congrArg (fun rows => Except.ok (s.wv 6 d _ rows)) (List.map_congr_left fun l hl => ?_)
  rw [allPieces_single (hwf.countsOk_row (lt16_of_mem_rows16 hl)), List.map_map]
  simp only [reducedRow, Function.comp_def, List.headD_cons, List.headD_nil, foldl_counts]

theorem exec_vscan {rnd : Nat} (hrnd : rnd ≠ 1)
    (hlen : ∀ l < 16, (scanSums (s.ctx.vAt a).tag none ((s.ctx.vAt a).row l)).length ≤ 64) :
    exec (.vscan g 0 d rnd a) s = .next (s.wv 4 d (s.ctx.vAt a).tag ((s.ctx.vAt a).rows.map fun r =>
      (scanSums (s.ctx.vAt a).tag none r).map fun p => ⟨(s.ctx.vAt a).tag.ofNum rnd false 0 p.1, p.2⟩)) := by
  refine exec_vector rfl hrun ?_
  have hdraw : (decide (rnd = 1) && !(s.ctx.vAt a).tag.isInt) = false := by simp [hrnd]
  have hruns (f : List Run → List Run) (hf : ∀ r, (f r).length = (scanSums (s.ctx.vAt a).tag none r).length) :
      checkRuns (fun l => chain ((s.ctx.vAt a).row l)) ((s.ctx.vAt a).rows.map f) = .ok () :=
    checkRuns_ok _ fun l hl => by rw [hwf.getD_map_rows f hl, hf]; exact hlen l hl
  simp only [hdraw, Bool.false_eq_true, if_false, bind, Except.bind, pure, Except.pure, ne_eq, zero_ne_one,
    not_false_eq_true, if_true, hruns _ fun r => (length_scanSums ..).symm, List.map_map, zipWith_splitAs_nil, withDraws_nil]
  rw [hruns _ fun r => by simp]
  rfl

end Words

/-! ## Expansion (10 R262) -/

/-- Each piece of two rows, the first's value as often as the second's says. -/
def repeatPieces (ps : List (List Half × Nat)) : List Run :=
  ps.filterMap fun p => if (p.1.getD 1 0).toNat = 0 then none else some ⟨p.1.headD 0, p.2 * (p.1.getD 1 0).toNat⟩

theorem expandRow_repeatPieces (ps : List (List Half × Nat)) : expandRow (repeatPieces ps) =
    (List.zip (expandRow (mapPieces (·.headD 0) ps)) (expandRow (mapPieces (·.getD 1 0) ps))).flatMap fun p =>
      List.replicate p.2.toNat p.1 := by
  induction ps with
  | nil => rfl
  | cons p ps ih =>
    have hcons (q : Run) (r : List Run) : expandRow (q :: r) = List.replicate q.cnt q.val ++ expandRow r := rfl
    have hfirst : expandRow (repeatPieces (p :: ps)) =
        List.replicate (p.2 * (p.1.getD 1 0).toNat) (p.1.headD 0) ++ expandRow (repeatPieces ps) := by
      rw [repeatPieces, List.filterMap_cons]
      split
      case h_1 h =>
        have hk : (p.1.getD 1 0).toNat = 0 := by
          by_contra hk
          rw [if_neg hk] at h
          cases h
        rw [hk]
        rfl
      case h_2 h =>
        split at h
        case isTrue => cases h
        case isFalse =>
          cases h
          rfl
    rw [hfirst, mapPieces_cons, mapPieces_cons, hcons, hcons, List.zip_append (by simp), List.zip_replicate', List.flatMap_append, ← ih,
      List.flatMap_replicate, List.flatten_replicate_replicate]

/-- Two rows of one chainage, the first's elements as often as the second's say. -/
theorem expandRow_repeated {r r' : List Run} (hr : countsOk r) (hr' : countsOk r') (hch : chain r' = chain r) :
    expandRow (repeatPieces (allPieces [r, r'])) =
      (List.zip (expandRow r) (expandRow r')).flatMap fun p => List.replicate p.2.toNat p.1 := by
  have hpieces (f : List Half → Half) : expandRow (mapPieces f (allPieces [r, r'])) =
      (List.range (chain r)).map fun j => f [elemAt r j, elemAt r' j] :=
    expandRow_mapPieces f (by simp) (by simpa using ⟨hr, hr'⟩) (by simpa using hch)
  rw [expandRow_repeatPieces, hpieces, hpieces, expandRow_eq_map_elemAt r, expandRow_eq_map_elemAt r', hch]
  rfl

theorem length_repeated {xs ys : List Half} (h : xs.length = ys.length) :
    ((List.zip xs ys).flatMap fun p => List.replicate p.2.toNat p.1).length = (ys.map BitVec.toNat).sum := by
  simp only [List.length_flatMap, List.length_replicate]
  conv_rhs => rw [← List.map_snd_zip (l₁ := xs) (l₂ := ys) h.ge, List.map_map]
  rfl

theorem checkChainMax_ok {a : VReg} {rows : List (List Run)} (h : ∀ l < 16, chain (rows.getD l []) ≤ 4096) :
    checkChainMax a rows = .ok () := by
  have hls : rows16.filter (fun l => 4096 < chain (rows.getD l [])) = [] :=
    List.filter_eq_nil_iff.2 fun l hl => by simpa using h l (lt16_of_mem_rows16 hl)
  simp only [checkChainMax, hls]

theorem exec_vexpd {s : State} {g a b : Nat} (hrun : s.canRun .vector g) (ha : (s.ctx.vAt a).wf) (hb : (s.ctx.vAt b).wf) (d c : Nat)
    (hint : (s.ctx.vAt b).tag.isInt = true) (hch : ∀ l < 16, chain ((s.ctx.vAt b).row l) = chain ((s.ctx.vAt a).row l))
    (hlen : ∀ l < 16, ((expandRow ((s.ctx.vAt b).row l)).map BitVec.toNat).sum ≤ 4096 ∧
      (allPieces [(s.ctx.vAt a).row l, (s.ctx.vAt b).row l]).length ≤ 64) : 
    exec (.vexpd g c d a b) s = .next (s.wv 4 d (s.ctx.vAt a).tag (rows16.map fun l => 
      coalesce c (repeatPieces (allPieces [(s.ctx.vAt a).row l, (s.ctx.vAt b).row l])))) := by
  have hsum : ∀ l < 16, chain (repeatPieces (allPieces [(s.ctx.vAt a).row l, (s.ctx.vAt b).row l])) ≤ 4096 := fun l hl => by
    rw [← length_expandRow, expandRow_repeated (ha.countsOk_row hl) (hb.countsOk_row hl) (hch l hl), length_repeated]
    · exact (hlen l hl).1
    · rw [length_expandRow, length_expandRow, hch l hl]
  have hmax : checkChainMax (s.ctx.vAt a) ((rows16.map fun l =>
      repeatPieces (allPieces [(s.ctx.vAt a).row l, (s.ctx.vAt b).row l])).map (coalesce c)) = .ok () :=
    checkChainMax_ok fun l hl => by
      rw [List.map_map, getD_map_rows16 _ hl]
      exact (chain_coalesce ..).trans_le (hsum l hl)
  have hruns : checkRuns (fun l => chain ((s.ctx.vAt a).row l)) ((rows16.map fun l =>
      repeatPieces (allPieces [(s.ctx.vAt a).row l, (s.ctx.vAt b).row l])).map (coalesce c)) = .ok () :=
    checkRuns_ok _ fun l hl => by
      rw [List.map_map, getD_map_rows16 _ hl]
      exact (length_coalesce_le ..).trans ((List.length_filterMap_le ..).trans (hlen l hl).2)
  refine exec_vector rfl hrun ?_
  unfold repeatPieces at hmax hruns
  simp only [needTag, need, hint, if_true, checkChains_ok (others := [(2, s.ctx.vAt b)]) (by simpa using hch), bind, Except.bind, pure,
    Except.pure, coalesced_eq_map, hmax, hruns]
  rw [List.map_map]
  rfl

/-! ## Across rows (10 R264, 05 R132) -/

/-- The reduction of the elements of a column. -/
def columnValue (t : VTag) (op rnd : Nat) (vs : List Half) : Half := reduceTerms t op rnd 0 (vs.map fun x => (x, 1))

/-- The rows that VCRED and VCSCAN make of sixteen: the one row of all sixteen everywhere, or to each row that of the rows up to it. -/
def columnRows (scan coal : Bool) (f : List Half → Half) (rs : List (List Run)) : List (List Run) :=
  if scan then rows16.map fun l => laneRow coal (fun vs => f (vs.take (l + 1))) rs else List.replicate 16 (laneRow coal f rs)

theorem columnBody_ok {s : State} {a rnd op : Nat} (scan : Bool) (c d : Nat) (hrnd : rnd ≠ 1)
    (hch : ∀ l < 16, chain ((s.ctx.vAt a).row l) = chain ((s.ctx.vAt a).row 0)) (hlen : (allPieces (s.ctx.vAt a).rows).length ≤ 64) :
    columnBody scan c d rnd a op s = .ok (s.wv 14 d (s.ctx.vAt a).tag
      (columnRows scan (c == 1) (columnValue (s.ctx.vAt a).tag op rnd) (s.ctx.vAt a).rows)) := by
  have hdraw : (decide (rnd = 1) && decide (op = 0) && !(s.ctx.vAt a).tag.isInt) = false := by simp [hrnd]
  have hcols : checkColumns (s.ctx.vAt a) = .ok () := by
    have hls : rows16.filter (fun l => chain ((s.ctx.vAt a).row l) != chain ((s.ctx.vAt a).row 0)) = [] :=
      List.filter_eq_nil_iff.2 fun l hl => by simpa using hch l (lt16_of_mem_rows16 hl)
    simp only [checkColumns, hls]
  have hcounts : checkRuns (fun l => chain ((s.ctx.vAt a).row l))
      (List.replicate 16 ((allPieces (s.ctx.vAt a).rows).map fun p => Run.mk 0 p.2)) = .ok () :=
    checkRuns_ok _ fun l hl => by rw [getD_replicate_16 _ hl, List.length_map]; exact hlen
  have hruns : checkRuns (fun l => chain ((s.ctx.vAt a).row l))
      (columnRows scan (c == 1) (columnValue (s.ctx.vAt a).tag op rnd) (s.ctx.vAt a).rows) = .ok () := by
    refine checkRuns_ok _ fun l hl => ?_
    cases scan with
    | false => exact (getD_replicate_16 _ hl).symm ▸ (length_laneRow_le ..).trans hlen
    | true =>
      rw [columnRows, if_pos rfl, getD_map_rows16 _ hl]
      exact (length_laneRow_le ..).trans hlen
  have hrow (l : Nat) : ((withDraws (allPieces (s.ctx.vAt a).rows) []).map fun p => Run.mk (reduceTerms (s.ctx.vAt a).tag op rnd p.2
      ((if scan then p.1.1.take (l + 1) else p.1.1).map fun x => (x, 1))) p.1.2) =
        mapPieces (fun vs => columnValue (s.ctx.vAt a).tag op rnd (if scan then vs.take (l + 1) else vs))
          (allPieces (s.ctx.vAt a).rows) := by
    rw [withDraws_nil, List.map_map]
    rfl
  simp only [columnBody, hcols, hdraw, Bool.false_eq_true, if_false, hcounts, bind, Except.bind, pure, Except.pure, List.drop_nil,
    List.take_nil, hrow, coalesced_eq_map]
  have hrows : (if scan = true then ((List.range (if scan = true then 16 else 1)).map fun l =>
      mapPieces (fun vs => columnValue (s.ctx.vAt a).tag op rnd (if scan = true then vs.take (l + 1) else vs))
        (allPieces (s.ctx.vAt a).rows)).map (coalesce c)
      else List.replicate 16 ((((List.range (if scan = true then 16 else 1)).map fun l =>
      mapPieces (fun vs => columnValue (s.ctx.vAt a).tag op rnd (if scan = true then vs.take (l + 1) else vs))
        (allPieces (s.ctx.vAt a).rows)).map (coalesce c)).headD [])) =
      columnRows scan (c == 1) (columnValue (s.ctx.vAt a).tag op rnd) (s.ctx.vAt a).rows := by
    cases scan with
    | false => simp [columnRows, laneRow, coalesce]
    | true => simp [columnRows, laneRow, rows16, coalesce]
  simp only [hrows, hruns, ite_self]

theorem VReg.rows_eq_map_row {v : VReg} (h : v.rows.length = 16) : v.rows = rows16.map v.row := by
  refine List.ext_getElem (by rw [List.length_map, h]; rfl) fun l hl hl' => ?_
  simp [rows16, VReg.row, List.getD, hl]

theorem VReg.wf.forall_mem_rows {v : VReg} (h : v.wf) {p : List Run → Prop} (hp : ∀ l < 16, p (v.row l)) : ∀ r ∈ v.rows, p r := by
  rw [VReg.rows_eq_map_row h.1]
  exact List.forall_mem_map.2 fun l hl => hp l (lt16_of_mem_rows16 hl)

/-- Settles O25: the words along a row by the lemmas on their rows, those across rows by the pieces of all sixteen (`pieces_spec`). -/
theorem reductionAndColumnResults : Obligations.ReductionAndColumnResults := by
  unfold Obligations.ReductionAndColumnResults
  intro s g c d rnd a b op raw tag sat hrun hb hrnd v w k hv hw
  refine ⟨⟨_, exec_vcvt hrun hv d c raw tag sat hrnd, length_laneRows .., fun l hl => ?_⟩,
    ⟨_, exec_vred hrun hv d op hrnd, fun l hl => ?_⟩,
    exec_vscan hrun hv d hrnd, fun hint hch hlen => ⟨_, exec_vexpd hrun hv hw d c hint hch hlen, fun l hl => ?_⟩, ?_, ?_,
    fun hch hlen => ?_⟩
  · have hok : ∀ r ∈ rowsAt [v] l, countsOk r := by simpa [rowsAt] using hv.countsOk_row hl
    have hch : ∀ r ∈ rowsAt [v] l, chain r = chain (v.row l) := by simp [rowsAt]
    rw [laneRows, getD_map_rows16 _ hl]
    exact ⟨chain_laneRow _ _ (by simp [rowsAt]) hok hch, fun j hj => elemAt_laneRow _ _ (by simp [rowsAt]) hok hch hj⟩
  · rw [getD_map_rows16 _ hl]
    rfl
  · rw [getD_map_rows16 _ hl, expandRow_coalesce]
    exact expandRow_repeated (hv.countsOk_row hl) (hw.countsOk_row hl) (hch l hl)
  · exact exec_vector rfl hrun (by simp only [State.rx_of_readable hb, bind, Except.bind, pure, Except.pure]; rfl)
  · exact exec_vector rfl hrun (by simp only [State.rx_of_readable hb, bind, Except.bind, pure, Except.pure]; rfl)
  · have hne : v.rows ≠ [] := List.ne_nil_of_length_pos (hv.1 ▸ by decide)
    have hok : ∀ r ∈ v.rows, countsOk r := hv.forall_mem_rows fun l hl => hv.countsOk_row hl
    have hrows : ∀ r ∈ v.rows, chain r = chain (v.row 0) := hv.forall_mem_rows hch
    refine ⟨⟨_, exec_vector rfl hrun (columnBody_ok false c d hrnd hch hlen), chain_laneRow _ _ hne hok hrows, fun j hj => ?_⟩,
      _, exec_vector rfl hrun (columnBody_ok true c d hrnd hch hlen), fun l hl => ?_⟩
    · rw [elemAt_laneRow _ _ hne hok hrows hj, columnValue, List.map_map]
      rfl
    · rw [columnRows, if_pos rfl, getD_map_rows16 _ hl]
      refine ⟨chain_laneRow _ _ hne hok hrows, fun j hj => ?_⟩
      rw [elemAt_laneRow _ _ hne hok hrows hj, columnValue, ← List.map_take, List.map_map]
      rfl

end Sys2Proof.Machine
end

section
/-! Memory and the core's accesses where nothing is wrong with any line (02 R42; 07 R171, R183; 23 R473 to R476): reads, stores, the commit
order. -/
namespace Sys2Proof.Machine

/-! ## Several stretches written one after another -/

section Stretches

variable {α : Type} (place : α → Nat) (bytes : α → List Byte)

/-- The memory with the bytes of each of `xs` at its place. -/
def memWriteAll (m : Memory) (xs : List α) : Memory := xs.foldl (fun m x => memWrite m (place x) (bytes x)) m

theorem memWriteAll_wf {m : Memory} (h : Memory.wf m = true) (xs : List α) : Memory.wf (memWriteAll place bytes m xs) = true := by
  induction xs generalizing m with
  | nil => exact h
  | cons x xs ih => exact ih (memWrite_wf _ _ h)

theorem memGet_memWriteAll_outside {m : Memory} (h : Memory.wf m = true) {xs : List α} {c : Nat}
    (hc : ∀ x ∈ xs, c < place x ∨ place x + (bytes x).length ≤ c) : memGet (memWriteAll place bytes m xs) c = memGet m c := by
  induction xs generalizing m with
  | nil => rfl
  | cons x xs ih =>
    obtain ⟨hx, hxs⟩ := List.forall_mem_cons.1 hc
    exact (ih (memWrite_wf _ _ h) hxs).trans (memGet_memWrite_outside _ h hx)

/-- Each stretch is read as written, where no two meet. -/
theorem memRead_memWriteAll {m : Memory} (h : Memory.wf m = true) {xs : List α}
    (hxs : xs.Pairwise fun x y => place x + (bytes x).length ≤ place y ∨ place y + (bytes y).length ≤ place x) {x : α}
    (hx : x ∈ xs) :
    memRead (memWriteAll place bytes m xs) (place x) (bytes x).length = bytes x := by
  induction xs generalizing m with
  | nil => cases hx
  | cons y xs ih =>
    obtain ⟨hy, hxs⟩ := List.pairwise_cons.1 hxs
    rcases List.mem_cons.1 hx with rfl | hx
    · refine (memRead_congr fun c hlo hhi => ?_).trans (memRead_memWrite (bytes x) (place x) h)
      refine memGet_memWriteAll_outside place bytes (memWrite_wf _ _ h) fun z hz => ?_
      have := hy z hz
      omega
    · exact ih (memWrite_wf _ _ h) hxs hx

end Stretches

/-! ## A core's accesses where nothing is wrong with any line -/

/-- `s` with other memory and another list of who sealed the lines. -/
def State.rewritten (s : State) (m : Memory) (z : AMap Nat) : State := { s with mem := m, sealer := z }

section Sound

variable {s : State} (h : s.sound = true)

include h

theorem State.readCheck_of_sound (a n : Nat) : s.readCheck a n = .ok s := by
  rw [State.readCheck, if_pos h]

theorem State.foldlM_readCheck_of_sound {α : Type} (place : State → α → Nat) (len : α → Nat) (xs : List α) :
    xs.foldlM (fun s x => s.readCheck (place s x) (len x)) s = .ok s := by
  induction xs with
  | nil => rfl
  | cons x xs ih =>
    rw [List.foldlM_cons, State.readCheck_of_sound h]
    exact ih

theorem State.store_of_sound (a : Nat) (bs : List Byte) : ∃ z, s.store a bs = s.rewritten (memWrite s.mem a bs) z := by
  refine ⟨(s.sealLines (linesOf a bs.length)).sealer, ?_⟩
  simp only [State.store, State.reseal, h, if_true]
  rfl

/-- Stores one after another, at places that do not depend on what has been stored. -/
theorem State.foldl_store_of_sound {α : Type} {place : State → α → Nat} (bytes : α → List Byte)
    (hplace : ∀ m z x, place (s.rewritten m z) x = place s x) (xs : List α) :
    ∃ z, xs.foldl (fun s x => s.store (place s x) (bytes x)) s = s.rewritten (memWriteAll (place s) bytes s.mem xs) z := by
  have hfold (m : Memory) (z : AMap Nat) : ∃ z', xs.foldl (fun s x => s.store (place s x) (bytes x)) (s.rewritten m z) =
      s.rewritten (memWriteAll (place s) bytes m xs) z' := by
    induction xs generalizing m z with
    | nil => exact ⟨z, rfl⟩
    | cons x xs ih =>
      obtain ⟨z', hz⟩ := State.store_of_sound (s := s.rewritten m z) h (place (s.rewritten m z) x) (bytes x)
      rw [List.foldl_cons, hz, hplace]
      exact ih _ z'
  exact hfold s.mem s.sealer

end Sound

/-! ## The place in the commit order (07 R171, R183) -/

theorem State.onlyOrders_refl (s : State) : s.onlyOrders s := ⟨rfl, rfl, rfl, rfl, rfl, fun _ _ => rfl, rfl, fun _ _ => rfl⟩

theorem State.onlyOrders_putBefore (s : State) (bt bc : List Nat) :
    s.onlyOrders ((s.putTask { s.task with before := bt }).putCtx { s.ctx with before := bc }) := by
  have hctx : ((s.putTask { s.task with before := bt }).putCtx { s.ctx with before := bc }).ctx = { s.ctx with before := bc } :=
    State.ctx_putCtx ..
  have htask : ((s.putTask { s.task with before := bt }).putCtx { s.ctx with before := bc }).task = { s.task with before := bt } := by
    rw [State.task, hctx]
    exact State.taskAt_setTask_self ..
  refine ⟨rfl, rfl, rfl, rfl, by rw [hctx], fun cid hne => ?_, by rw [htask], fun tid hne => ?_⟩
  · exact State.ctxAt_setCtx_of_ne (s.putTask _) _ hne
  · exact State.taskAt_setTask_of_ne s _ hne

theorem State.onlyOrders_commitOrder (s : State) : s.onlyOrders s.commitOrder := by
  simp only [State.commitOrder]
  split
  · exact s.onlyOrders_refl
  · exact s.onlyOrders_putBefore _ _

theorem State.commitOrder_mem (s : State) : s.commitOrder.mem = s.mem := by
  simp only [State.commitOrder]
  split
  all_goals rfl

theorem State.commitOrder_freeCtr (s : State) : s.commitOrder.freeCtr = s.freeCtr := by
  simp only [State.commitOrder]
  split
  all_goals rfl

end Sys2Proof.Machine
end

section
/-! Queue pops and lane slices (10 R265 to R267; 06 R146). -/
namespace Sys2Proof.Machine

section Words

variable {s : State} {g : Nat} (hrun : s.canRun .vector g)

/-! ## Queue pops -/

@[simp] theorem State.dropSlabs_ctx (s : State) (q n : Nat) : (s.dropSlabs q n).ctx = s.ctx := rfl

@[simp] theorem State.dropSlabs_mem (s : State) (q n : Nat) : (s.dropSlabs q n).mem = s.mem := rfl

theorem State.dropSlabs_slabs (s : State) {q : Nat} (n : Nat) (hq : q < (s.coreAt s.ctx.core).arr.queues.length) :
    (((s.dropSlabs q n).coreAt s.ctx.core).arr.queues.getD q .empty).slabs =
      ((s.coreAt s.ctx.core).arr.queues.getD q .empty).slabs.drop n := by
  have hcore : (s.dropSlabs q n).coreAt s.ctx.core = (s.modArr s.ctx.core fun a =>
    let r := a.queues.getD q .empty
    { a with queues := a.queues.set q { r with slabs := r.slabs.drop n } }).coreAt s.ctx.core := rfl
  rw [hcore, State.modArr, State.coreAt_setCore_self]
  simp [List.getD, hq]

section Pops

variable {d q : Nat}

include hrun

theorem exec_vpopq {sl : Slab} {rest : List Slab} (hs : ((s.coreAt s.ctx.core).arr.queues.getD q .empty).slabs = sl :: rest)
    (hbad : sl.bad = false) : exec (.vpopq g d q) s = .next ((s.dropSlabs q 1).wv 4 d (widenTag sl.fmt)
      (rows16.map fun l => if l < sl.nr then runsOf ((sl.vals.getD l []).map (widen sl.fmt)) else [])) := by
  refine exec_vector rfl hrun ?_
  simp only [State.headSlab, hs, poisonedSlabs, need, List.any_cons, hbad, List.any_nil, Bool.or_false, Bool.not_false, if_true, bind,
    Except.bind, pure, Except.pure]

theorem exec_vpopq_poisoned {sl : Slab} {rest : List Slab} (hs : ((s.coreAt s.ctx.core).arr.queues.getD q .empty).slabs = sl :: rest)
    (hbad : sl.bad = true) : exec (.vpopq g d q) s = .next (s.stopAt (flt .AC 2)) := by
  refine exec_vector_stop rfl hrun ?_
  simp only [State.headSlab, hs, poisonedSlabs, need, List.any_cons, hbad, Bool.true_or, Bool.not_true, Bool.false_eq_true, if_false,
    bind, Except.bind]

theorem exec_vpopq_empty (hs : ((s.coreAt s.ctx.core).arr.queues.getD q .empty).slabs = []) :
    exec (.vpopq g d q) s = .next (s.stopAt
      (if s.draining s.ctx.core q then .block (.pop q (s.popped q + 1)) else flt .QU 2)) := by
  refine exec_vector_stop rfl hrun ?_
  cases hd : s.draining s.ctx.core q
  all_goals simp only [State.headSlab, hs, hd, Bool.false_eq_true, if_true, if_false, bind, Except.bind]

end Pops

/-! ## Lane slices -/

/-- Where row `l` of a register says that its words lie in the context's part of the lane slices. -/
def laneOffset (v : VReg) (l : Nat) : Nat := (elemAt (v.row l) 0).toNat

/-- The rows of a register that are not empty. -/
def liveRows (v : VReg) : List Nat := rows16.filter fun l => chain (v.row l) != 0

theorem mem_liveRows {v : VReg} {l : Nat} : l ∈ liveRows v ↔ l < 16 ∧ chain (v.row l) ≠ 0 := by
  simp [liveRows, rows16]

section Lanes

variable {a b : Nat} (hsound : s.sound = true)

include hrun hsound

theorem exec_vldl (tag d : Nat) (hb : s.readable b) (hint : (s.ctx.vAt a).tag.isInt = true) (hn : 1 ≤ (s.xval b).toNat)
    (hin : ∀ l < 16, chain ((s.ctx.vAt a).row l) ≠ 0 → laneOffset (s.ctx.vAt a) l % 4 = 0 ∧
      laneOffset (s.ctx.vAt a) l + 4 * (s.xval b).toNat ≤ s.ctx.sliceSize)
    (hlen : ∀ l < 16, (runsOf (readWords s.mem (s.laneAt l (laneOffset (s.ctx.vAt a) l)) (s.xval b).toNat)).length ≤ 64) :
    exec (.vldl g tag d a b) s = .next (s.wv 6 d (tagField tag) (rows16.map fun l => if chain ((s.ctx.vAt a).row l) = 0 then [] else
      runsOf (readWords s.mem (s.laneAt l (laneOffset (s.ctx.vAt a) l)) (s.xval b).toNat))) := by
  have hn0 : s.xval b ≠ 0 := fun h => by simp [h] at hn
  have halign : ((liveRows (s.ctx.vAt a)).all fun l => laneOffset (s.ctx.vAt a) l % 4 == 0) = true :=
    List.all_eq_true.2 fun l hl => beq_iff_eq.2 (hin l (mem_liveRows.1 hl).1 (mem_liveRows.1 hl).2).1
  have hsize : ((liveRows (s.ctx.vAt a)).all fun l =>
      decide (laneOffset (s.ctx.vAt a) l + 4 * (s.xval b).toNat ≤ s.ctx.sliceSize)) = true :=
    List.all_eq_true.2 fun l hl => decide_eq_true (hin l (mem_liveRows.1 hl).1 (mem_liveRows.1 hl).2).2
  have hrows : (rows16.map fun l => if (liveRows (s.ctx.vAt a)).contains l = true then
      runsOf (readWords s.mem (s.laneAt l (laneOffset (s.ctx.vAt a) l)) (s.xval b).toNat) else []) =
      rows16.map fun l => if chain ((s.ctx.vAt a).row l) = 0 then [] else
        runsOf (readWords s.mem (s.laneAt l (laneOffset (s.ctx.vAt a) l)) (s.xval b).toNat) := by
    refine List.map_congr_left fun l hl => ?_
    simp only [List.contains_iff_mem, mem_liveRows, lt16_of_mem_rows16 hl, true_and, ne_eq, ite_not]
  have hruns : checkRuns (fun l => chain ((s.ctx.vAt a).row l)) (rows16.map fun l => if chain ((s.ctx.vAt a).row l) = 0 then [] else
      runsOf (readWords s.mem (s.laneAt l (laneOffset (s.ctx.vAt a) l)) (s.xval b).toNat)) = .ok () := by
    refine checkRuns_ok _ fun l hl => ?_
    rw [getD_map_rows16 _ hl]
    split
    · exact Nat.zero_le _
    · exact hlen l hl
  have hread := State.foldlM_readCheck_of_sound hsound (fun s' l => s'.laneAt l (laneOffset (s.ctx.vAt a) l))
    (fun _ => 4 * (s.xval b).toNat) (liveRows (s.ctx.vAt a))
  unfold laneOffset liveRows at *
  refine exec_vector rfl hrun ?_
  simp only [State.rx_of_readable hb, needTag, need, hint, if_true, hn0, if_false, halign, hsize,
    hread, hrows, hruns, bind, Except.bind, pure, Except.pure]

theorem exec_vstl
    (hin : ∀ l < 16, chain ((s.ctx.vAt a).row l) ≠ 0 → chain ((s.ctx.vAt b).row l) ≠ 0 ∧ laneOffset (s.ctx.vAt b) l % 4 = 0 ∧
      laneOffset (s.ctx.vAt b) l + 4 * chain ((s.ctx.vAt a).row l) ≤ s.ctx.sliceSize) :
    ∃ z, exec (.vstl g a b) s = .next (s.rewritten (memWriteAll (fun l => s.laneAt l (laneOffset (s.ctx.vAt b) l))
      (fun l => (expandRow ((s.ctx.vAt a).row l)).flatMap fun x => natLe 4 x.toNat) s.mem (liveRows (s.ctx.vAt a))) z) := by
  have hlive : ∀ l ∈ liveRows (s.ctx.vAt a), chain ((s.ctx.vAt b).row l) ≠ 0 ∧ laneOffset (s.ctx.vAt b) l % 4 = 0 ∧
      laneOffset (s.ctx.vAt b) l + 4 * chain ((s.ctx.vAt a).row l) ≤ s.ctx.sliceSize := fun l hl =>
    hin l (mem_liveRows.1 hl).1 (mem_liveRows.1 hl).2
  have hhave : (liveRows (s.ctx.vAt a)).filter (fun l => chain ((s.ctx.vAt b).row l) != 0) = liveRows (s.ctx.vAt a) :=
    List.filter_eq_self.2 fun l hl => bne_iff_ne.2 (hlive l hl).1
  have hempty : (liveRows (s.ctx.vAt a)).filter (fun l => chain ((s.ctx.vAt b).row l) == 0) = [] :=
    List.filter_eq_nil_iff.2 fun l hl => by simpa using (hlive l hl).1
  have halign : ((liveRows (s.ctx.vAt a)).all fun l => laneOffset (s.ctx.vAt b) l % 4 == 0) = true :=
    List.all_eq_true.2 fun l hl => beq_iff_eq.2 (hlive l hl).2.1
  have hsize : ((liveRows (s.ctx.vAt a)).all fun l =>
      decide (laneOffset (s.ctx.vAt b) l + 4 * chain ((s.ctx.vAt a).row l) ≤ s.ctx.sliceSize)) = true :=
    List.all_eq_true.2 fun l hl => decide_eq_true (hlive l hl).2.2
  obtain ⟨z, hz⟩ := State.foldl_store_of_sound hsound (place := fun s' l => s'.laneAt l (laneOffset (s.ctx.vAt b) l))
    (fun l => (expandRow ((s.ctx.vAt a).row l)).flatMap fun x => natLe 4 x.toNat) (fun _ _ _ => rfl) (liveRows (s.ctx.vAt a))
  refine ⟨z, exec_vector rfl hrun ?_⟩
  rw [← hz]
  unfold laneOffset liveRows at *
  simp only [need, hhave, hempty, halign, hsize, if_true, checkPos, bind, Except.bind, pure, Except.pure]

end Lanes

end Words

/-- Settles O26: a pop by what heads its queue, the lane slices by the rows that are not empty. -/
theorem queueAndLaneResults : Obligations.QueueAndLaneResults := by
  unfold Obligations.QueueAndLaneResults
  intro s g tag d a b q hrun hb v w n core slabs
  refine ⟨fun sl rest hs hbad => exec_vpopq_poisoned hrun hs hbad, fun sl rest hs hbad =>
      ⟨_, exec_vpopq hrun hs hbad, rfl, rfl, fun hq => ?_⟩, fun hs hd => ?_, fun hs hd => ?_,
    fun hsound hint hn hin hlen => exec_vldl hrun hsound tag d hb hint hn hin hlen, fun hsound hin => ?_⟩
  · rw [State.dropSlabs_slabs s 1 hq]
    exact congrArg (List.drop 1) hs
  · rw [exec_vpopq_empty hrun hs, if_pos hd]
  · rw [exec_vpopq_empty hrun hs, if_neg (Bool.eq_false_iff.1 hd)]
    rfl
  · obtain ⟨z, hz⟩ := exec_vstl hrun hsound hin
    refine ⟨_, hz, rfl, ?_⟩
    show memWriteAll _ _ _ _ = _
    rw [memWriteAll, liveRows, List.foldl_filter]
    simp only [bne_iff_ne, ne_eq, ite_not]
    rfl

end Sys2Proof.Machine
end

section
/-! Channel C live (06 R161; 10 R281), the words of class F and FRAND (10 R277 to R280). -/
namespace Sys2Proof.Machine

/-! ## Words of a live channel (06 R161) -/

/-- The state in which `n` words more of the noise source have been taken. -/
def State.tookNoise (s : State) (n : Nat) : State := { s with freeCtr := s.freeCtr + n }

/-- Word `k` of those that the noise source delivers next. -/
def State.noiseAt (s : State) (k : Nat) : Nat := (Config.noise (s.freeCtr + k)).toNat

/-- Channel C is live, and the CSRs that it reads have their parity (23 R480). -/
def State.liveC (s : State) : Prop := bits s.ctx.rngctl.toNat 0 2 = 0 ∧ 128 ∉ s.ctx.damaged ∧ 129 ∉ s.ctx.damaged

/-- The state in which channel C has given `n` words: RNGPOSC has moved on. -/
def State.drewC (s : State) (n : Nat) : State :=
  (s.tookNoise n).putCtx { s.ctx with rngposc := BitVec.ofNat 64 ((s.ctx.rngposc.toNat + n) % 2 ^ 32) }

theorem State.noiseWords_live {s : State} (h : bits s.ctx.rngctl.toNat 0 2 = 0) (win pos i n : Nat) :
    s.noiseWords win pos i n = .ok (s.tookNoise n, (List.range n).map s.noiseAt) := by
  induction n generalizing s i with
  | zero => rfl
  | succ n ih =>
    have hnext := ih (s := s.tookNoise 1) h (i + 1)
    have htook : (s.tookNoise 1).tookNoise n = s.tookNoise (n + 1) := by
      simp only [State.tookNoise, Nat.add_assoc, Nat.add_comm 1 n]
    have hwords : (List.range (n + 1)).map s.noiseAt = s.noiseAt 0 :: (List.range n).map (s.tookNoise 1).noiseAt := by
      rw [List.range_succ_eq_map, List.map_cons, List.map_map]
      refine congrArg _ (List.map_congr_left fun k _ => ?_)
      simp only [Function.comp_apply, State.noiseAt, State.tookNoise, Nat.succ_eq_add_one, Nat.add_assoc, Nat.add_comm 1 k]
    rw [htook] at hnext
    rw [hwords, State.noiseWords, h, if_pos rfl]
    exact congrArg (· >>= fun r : State × List Nat => pure (r.1, s.noiseAt 0 :: r.2)) hnext

theorem State.wordsC_live {s : State} (h : s.liveC) (n : Nat) : s.wordsC n = .ok (s.drewC n, (List.range n).map s.noiseAt) := by
  obtain ⟨hmode, hctl, hpos⟩ := h
  have hparity : s.needParity [0x030, 0x031] = .ok () := by simp [State.needParity, need, hctl, hpos]
  simp only [State.wordsC, hparity, State.noiseWords_live hmode]
  split
  all_goals rfl

/-! ## Draws (10 R281) -/

/-- Draw `k` of the words that the noise source delivers next: the low half of a word comes first. -/
def State.drawAt (s : State) (k : Nat) : Nat := if k % 2 = 0 then s.noiseAt (k / 2) % 65536 else s.noiseAt (k / 2) / 65536 % 65536

theorem getD_halves (ws : List Nat) (k : Nat) : (ws.flatMap fun w => [w % 65536, w / 65536 % 65536]).getD k 0 =
    if k % 2 = 0 then ws.getD (k / 2) 0 % 65536 else ws.getD (k / 2) 0 / 65536 % 65536 := by
  induction ws generalizing k with
  | nil => simp
  | cons w ws ih =>
    match k with
    | 0 => rfl
    | 1 => rfl
    | k + 2 =>
      have hdiv : (k + 2) / 2 = k / 2 + 1 := by omega
      rw [Nat.add_mod_right, hdiv]
      exact ih k

/-- `d` draws of a live channel C. -/
theorem State.drawC_live {s : State} (h : s.liveC) (d : Nat) :
    ∃ us : List Nat, s.drawC d = .ok (s.drewC ((d + 1) / 2), us) ∧ ∀ k < d, us.getD k 0 = s.drawAt k := by
  refine ⟨drawsOf ((List.range ((d + 1) / 2)).map s.noiseAt) d, ?_, fun k hk => ?_⟩
  · rw [State.drawC, State.wordsC_live h]
    rfl
  · have hword : ((List.range ((d + 1) / 2)).map s.noiseAt).getD (k / 2) 0 = s.noiseAt (k / 2) := by
      simp [List.getD, show k / 2 < (d + 1) / 2 by omega]
    rw [drawsOf, List.getD_eq_getElem?_getD, List.getElem?_take_of_lt hk, ← List.getD_eq_getElem?_getD, getD_halves, hword]
    rfl

theorem splitAs_replicate {α : Type} (k n : Nat) (f : Nat → α) :
    splitAs (List.replicate k n) ((List.range (k * n)).map f) =
      (List.range k).map fun l => (List.range n).map fun j => f (n * l + j) := by
  induction k generalizing f with
  | zero => rfl
  | succ k ih =>
    rw [Nat.succ_mul, Nat.add_comm (k * n), List.range_add, List.map_append, List.map_map, List.replicate_succ, splitAs,
      List.take_left' (by simp), List.drop_left' (by simp), ih, List.range_succ_eq_map, List.map_cons, List.map_map]
    simp [Function.comp_def, Nat.mul_add, Nat.add_comm, Nat.add_left_comm]

/-! ## The words of class F (10 R277 to R280) -/

section Functions

variable {s : State} {g a : Nat}

/-- A word of class F rounds one value for each run. -/
theorem fnBody_ok (L : Nat) (f : Num → Num) (c d sat : Nat) {rnd : Nat} (hrows : (s.ctx.vAt a).rows.length = 16)
    (htag : (s.ctx.vAt a).tag = .fp32) (hrnd : rnd ≠ 1) :
    fnBody L f c d rnd a sat s = .ok (s.wv L d .fp32 ((s.ctx.vAt a).rows.map fun r =>
      coalesce c (r.map fun q => ⟨f32 rnd (sat == 1) 0 (f (fp32.decode q.val.toNat)), q.cnt⟩))) := by
  have hnum (x : Half) : VTag.fp32.num x = fp32.decode x.toNat :=
    congrArg fp32.decode (Nat.mod_eq_of_lt x.isLt)
  have hall : rows16.map (s.ctx.vAt a).row = (s.ctx.vAt a).rows := (VReg.rows_eq_map_row hrows).symm
  have hlens : (rows16.map fun l => ((s.ctx.vAt a).row l).length) = (s.ctx.vAt a).rows.map List.length := by
    rw [← hall, List.map_map]
    rfl
  simp only [fnBody, needTag, need, htag, beq_self_eq_true, if_true, hrnd, if_false, hall, hlens, zipWith_splitAs_nil, withDraws_nil, hnum,
    coalesced_eq_map, bind, Except.bind, pure, Except.pure]
  simp only [List.map_map]
  rfl

theorem fnBody_stop (L : Nat) (f : Num → Num) (c d rnd sat : Nat) (htag : (s.ctx.vAt a).tag ≠ .fp32) :
    fnBody L f c d rnd a sat s = .error (flt .FM 11) := by
  simp [fnBody, needTag, need, htag, bind, Except.bind]

theorem exec_functionWord {i : Instr} {c d rnd sat L : Nat} {f : Num → Num} (h : functionWord i = some ((g, c, d, rnd, a, sat), L, f))
    (s : State) : exec i s = runWord .vector 1 g (fnBody L f c d rnd a sat) s := by
  unfold functionWord at h
  split at h
  case h_12 => cases h
  all_goals
    cases h
    rfl

theorem exec_frand (hrun : s.canRun .vector g) (d : Nat) (ha : s.readable a) (hlive : s.liveC) (hn : (s.xval a).toNat ≤ 64) :
    exec (.frand g d a) s = .next ((s.drewC (16 * (s.xval a).toNat)).wv 6 d .uint32
      (rows16.map fun l => (List.range (s.xval a).toNat).map fun k =>
        ⟨BitVec.ofNat 32 (s.noiseAt ((s.xval a).toNat * l + k)), 1⟩)) := by
  refine exec_vector rfl hrun ?_
  simp only [State.rx_of_readable ha, need, hn, decide_true, if_true, State.wordsC_live hlive, bind, Except.bind, pure, Except.pure,
    splitAs_replicate]
  simp only [List.map_map, Function.comp_def, rows16]

theorem exec_frand_stop (hrun : s.canRun .vector g) (d : Nat) (ha : s.readable a) (hn : 64 < (s.xval a).toNat) :
    exec (.frand g d a) s = .next (s.stopAt (countFault 1 (min (s.xval a).toNat 255) (min (s.xval a).toNat 8191) 0)) := by
  refine exec_vector_stop rfl hrun ?_
  simp [State.rx_of_readable ha, need, Nat.not_le.2 hn, bind, Except.bind]

end Functions

/-- Settles O28: the words of class F share `fnBody`; FRAND's words are those that a live channel C gives. -/
theorem functionAndRandomWords : Obligations.FunctionAndRandomWords := by
  unfold Obligations.FunctionAndRandomWords
  refine ⟨fun s i g c d rnd a sat L f hi hrun hrows => ⟨fun htag hrnd => ?_, fun htag => ?_⟩,
    fun s g d a hrun ha => ⟨fun hn hmode hctl hpos => ?_, fun hn => ?_⟩⟩
  · exact exec_vector (exec_functionWord hi s) hrun (fnBody_ok L f c d sat hrows htag hrnd)
  · exact exec_vector_stop (exec_functionWord hi s) hrun (fnBody_stop L f c d rnd sat htag)
  · exact ⟨_, exec_frand hrun d ha ⟨hmode, hctl, hpos⟩ hn, rfl, rfl, State.ctx_putCtx ..⟩
  · exact ⟨_, rfl, rfl, exec_frand_stop hrun d ha hn⟩

end Sys2Proof.Machine
end

section
/-! Dense rows loaded and stored (10 R268 to R271). -/
namespace Sys2Proof.Machine

theorem storageBytes_pos {fmt : Nat} (h : denseFmt fmt = true) : 1 ≤ storageBits fmt / 8 := by
  have hfmt : fmt < 14 := by
    simp only [denseFmt, Bool.or_eq_true, Bool.and_eq_true, decide_eq_true_eq] at h
    omega
  have hall : ∀ f < 14, denseFmt f = true → 1 ≤ storageBits f / 8 := by decide
  exact hall fmt hfmt h

/-- The rows, of sixteen whose bytes are `len l`, that have bytes. -/
def denseLive (len : Nat → Nat) : List Nat := rows16.filter fun l => len l != 0

theorem mem_denseLive {len : Nat → Nat} {l : Nat} : l ∈ denseLive len ↔ l < 16 ∧ len l ≠ 0 := by
  simp [denseLive, rows16]

/-- Where row `l` begins. -/
def densePlace (reg : Region) (o pitch l : Nat) : Nat := reg.base + (o + l * pitch)

/-- The bytes of row `l` of a register, converted without draws. -/
def denseBytes (v : VReg) (fmt rnd sat l : Nat) : List Byte :=
  (expandRow (v.row l)).flatMap fun e => natLe (storageBits fmt / 8) (encodeFmt fmt rnd (sat == 1) 0 (v.tag.num e))

theorem length_denseBytes (v : VReg) (fmt rnd sat l : Nat) :
    (denseBytes v fmt rnd sat l).length = chain (v.row l) * (storageBits fmt / 8) := by
  simp [denseBytes, List.length_flatMap, natLe_length, length_expandRow]

theorem zip_splitAs_nil {α β : Type} (len : α → Nat) (xs : List α) :
    List.zip xs (splitAs (xs.map len) ([] : List β)) = xs.map (·, []) :=
  zipWith_splitAs_nil Prod.mk len xs

/-- Rows no longer than the pitch do not meet. -/
theorem pairwise_denseLive {len : Nat → Nat} {reg : Region} {o pitch : Nat} {bytes : Nat → List Byte}
    (hfit : ∀ l < 16, (bytes l).length ≤ pitch) : (denseLive len).Pairwise fun l l' =>
      densePlace reg o pitch l + (bytes l).length ≤ densePlace reg o pitch l' ∨
        densePlace reg o pitch l' + (bytes l').length ≤ densePlace reg o pitch l := by
  refine List.Pairwise.imp_of_mem (fun {l l'} hl _ hlt => .inl ?_) (List.pairwise_lt_range.filter _)
  have hstep : (l + 1) * pitch ≤ l' * pitch := Nat.mul_le_mul_right _ hlt
  have hlen := hfit l (mem_denseLive.1 hl).1
  rw [Nat.succ_mul] at hstep
  unfold densePlace
  omega

/-- A word of class MA in its bundle does what its body does, and takes its place in the commit order. -/
theorem exec_core {i : Instr} {s t : State} {g len : Nat} {body : State → Except Stop State}
    (hexec : exec i s = runWord .maMain len g body s) (hrun : s.canRun .maMain g) (hb : body s = .ok t) :
    exec i s = .next t.commitOrder :=
  hexec.trans (runWord_ok hrun hb)

section Words

variable {s : State} {g a b fmt pitch : Nat} (hrun : s.canRun .maMain g) (ha : s.readable a) (hsound : s.sound = true)
  (hfmt : denseFmt fmt = true) (hbase : (s.xval a).toNat % (storageBits fmt / 8) = 0) (hpitch : pitch % (storageBits fmt / 8) = 0)

include hfmt hbase hpitch

/-- Rows that lie in the region at places that are aligned pass the checks (10 R254). -/
theorem State.denseRows_ok {len : Nat → Nat} (hin : rowsInside (s.slotRegion false) (s.xval a).toNat pitch len) :
    s.denseRows (s.xval a).toNat fmt pitch len =
      .ok (s.slotRegion false, (denseLive len).map fun l => (l, (s.xval a).toNat + l * pitch, len l)) := by
  have hmax : max 1 (storageBits fmt / 8) = storageBits fmt / 8 := max_eq_right (storageBytes_pos hfmt)
  have hsize : (((denseLive len).map fun l => (l, (s.xval a).toNat + l * pitch, len l)).all fun p =>
      decide (p.2.1 + p.2.2 ≤ (s.slotRegion false).size)) = true := by
    rw [List.all_map]
    exact List.all_eq_true.2 fun l hl => decide_eq_true (hin l (mem_denseLive.1 hl).1 (mem_denseLive.1 hl).2)
  unfold denseLive at *
  simp only [State.denseRows, need, hmax, hbase, hpitch, beq_self_eq_true, Bool.and_self, hsize, hfmt, if_true]
  rfl

include hrun ha hsound

theorem exec_vldr (d : Nat) (hb : s.readable b)
    (hin : rowsInside (s.slotRegion false) (s.xval a).toNat pitch fun _ => (s.xval b).toNat * (storageBits fmt / 8))
    (hn : (s.xval b).toNat ≤ 4096) {row : Nat → List Run}
    (hrow : ∀ l, row l = runsOf ((readElems s.mem ((s.slotRegion false).base + (s.xval a).toNat + l * pitch) (storageBits fmt / 8)
      (s.xval b).toNat).map (widen fmt)))
    (hlen : ∀ l < 16, (row l).length ≤ 64)
    (hrace : s.raceCore (rowTouches (s.slotRegion false) (s.xval a).toNat pitch fun _ => (s.xval b).toNat * (storageBits fmt / 8)) [] =
      .ok ()) :
    exec (.vldr g d a b fmt pitch) s =
      .next (s.wv 6 d (widenTag fmt) (rows16.map fun l => if (s.xval b).toNat = 0 then [] else row l)).commitOrder := by
  have hruns : checkRuns (fun _ => (s.xval b).toNat) (rows16.map fun l => if (s.xval b).toNat = 0 then [] else row l) = .ok () := by
    refine checkRuns_ok _ fun l hl => ?_
    rw [getD_map_rows16 _ hl]
    split
    · exact Nat.zero_le _
    · exact hlen l hl
  have hrace' : s.raceCore (((denseLive fun _ => (s.xval b).toNat * (storageBits fmt / 8)).map fun l =>
      (l, (s.xval a).toNat + l * pitch, (s.xval b).toNat * (storageBits fmt / 8))).map fun p =>
        (s.slotRegion false).touch p.2.1 p.2.2) [] = .ok () := by
    rw [List.map_map]
    exact hrace
  have hread := State.foldlM_readCheck_of_sound hsound (fun _ p => (s.slotRegion false).base + p.2.1) (fun p => p.2.2)
    ((denseLive fun _ => (s.xval b).toNat * (storageBits fmt / 8)).map fun l =>
      (l, (s.xval a).toNat + l * pitch, (s.xval b).toNat * (storageBits fmt / 8)))
  have hzero : s.xval b = 0 ↔ (s.xval b).toNat = 0 := by rw [← BitVec.toNat_inj]; rfl
  refine exec_core rfl hrun ?_
  simp only [State.rx_of_readable ha, State.rx_of_readable hb, State.denseRows_ok hfmt hbase hpitch hin, hrace', need, hn, decide_true,
    if_true, hread, ← hrow, hzero, hruns, bind, Except.bind, pure, Except.pure]

theorem exec_vstx (src : Nat) {rnd : Nat} (sat : Nat) (hrnd : rnd ≠ 1)
    (hin : rowsInside (s.slotRegion false) (s.xval a).toNat pitch fun l => chain ((s.ctx.vAt src).row l) * (storageBits fmt / 8))
    (hrace : s.raceCore [] (rowTouches (s.slotRegion false) (s.xval a).toNat pitch fun l =>
      chain ((s.ctx.vAt src).row l) * (storageBits fmt / 8)) = .ok ()) :
    ∃ z, exec (.vstx g a src fmt rnd sat pitch) s = .next (s.rewritten
      (memWriteAll (densePlace (s.slotRegion false) (s.xval a).toNat pitch) (denseBytes (s.ctx.vAt src) fmt rnd sat) s.mem
        (denseLive fun l => chain ((s.ctx.vAt src).row l) * (storageBits fmt / 8))) z).commitOrder := by
  have hrace' : s.raceCore [] (((denseLive fun l => chain ((s.ctx.vAt src).row l) * (storageBits fmt / 8)).map fun l =>
      (l, (s.xval a).toNat + l * pitch, chain ((s.ctx.vAt src).row l) * (storageBits fmt / 8))).map fun p =>
        (s.slotRegion false).touch p.2.1 p.2.2) = .ok () := by
    rw [List.map_map]
    exact hrace
  obtain ⟨z, hz⟩ := State.foldl_store_of_sound hsound (place := fun _ => densePlace (s.slotRegion false) (s.xval a).toNat pitch)
    (denseBytes (s.ctx.vAt src) fmt rnd sat) (fun _ _ _ => rfl)
    (denseLive fun l => chain ((s.ctx.vAt src).row l) * (storageBits fmt / 8))
  refine ⟨z, exec_core rfl hrun ?_⟩
  simp only [State.rx_of_readable ha, State.denseRows_ok hfmt hbase hpitch hin, hrace', hrnd, if_false, zip_splitAs_nil, List.foldl_map,
    withDraws_nil, List.flatMap_map, bind, Except.bind, pure, Except.pure]
  exact congrArg Except.ok hz

end Words

/-- Settles O34: rows that lie in the region pass the checks (`State.denseRows_ok`); stored rows no longer than the pitch do not meet. -/
theorem denseRowResults : Obligations.DenseRowResults := by
  unfold Obligations.DenseRowResults
  intro s g d a b src fmt rnd sat pitch hrun ha hb hsound hmem hfmt sz o n reg v row hbase hpitch
  refine ⟨fun hin hn hlen hrace => exec_vldr hrun ha hsound hfmt hbase hpitch d hb hin hn (fun _ => rfl) hlen hrace,
    fun hin hrnd hfit hrace _ => ?_⟩
  obtain ⟨z, hz⟩ := exec_vstx hrun ha hsound hfmt hbase hpitch src sat hrnd hin hrace
  have hlen (l : Nat) : (denseBytes v fmt rnd sat l).length = chain (v.row l) * sz := length_denseBytes ..
  refine ⟨_, hz, State.onlyOrders_commitOrder _, fun l hl => ?_, fun c hc => ?_⟩
  · have hread : memRead (memWriteAll (densePlace reg o pitch) (denseBytes v fmt rnd sat) s.mem (denseLive fun l => chain (v.row l) * sz))
        (densePlace reg o pitch l) (denseBytes v fmt rnd sat l).length = denseBytes v fmt rnd sat l := by
      by_cases hempty : chain (v.row l) * sz = 0
      · have hnil : denseBytes v fmt rnd sat l = [] := List.length_eq_zero_iff.1 ((hlen l).trans hempty)
        rw [hnil]
        rfl
      · refine memRead_memWriteAll _ _ hmem (pairwise_denseLive fun i hi => ?_) (mem_denseLive.2 ⟨hl, hempty⟩)
        exact (hlen i).trans_le (hfit i hi)
    rw [hlen, densePlace, ← Nat.add_assoc] at hread
    rw [State.commitOrder_mem]
    exact hread
  · rw [State.commitOrder_mem]
    refine memGet_memWriteAll_outside _ _ hmem fun l hl => ?_
    rw [hlen, densePlace, ← Nat.add_assoc]
    exact hc l (mem_denseLive.1 hl).1

end Sys2Proof.Machine
end

section
/-! The optimiser update (02 R66; 10 R273 to R276): its records in memory, one after another, each with its draw. -/
namespace Sys2Proof.Machine

/-! ## The bytes of a record (02 R66) -/

theorem memRead_add (m : Memory) (a n k : Nat) : memRead m a (n + k) = memRead m a n ++ memRead m (a + n) k := by
  induction n generalizing a with
  | zero => rw [Nat.zero_add]; rfl
  | succ n ih =>
    rw [Nat.succ_add, memRead, ih, memRead, List.cons_append, Nat.add_assoc, Nat.add_comm 1 n]

theorem memGet_eq_of_memRead_eq {m m' : Memory} {a n : Nat} (h : memRead m' a n = memRead m a n) :
    ∀ k < n, memGet m' (a + k) = memGet m (a + k) := by
  induction n generalizing a with
  | zero => exact fun k hk => nomatch hk
  | succ n ih =>
    obtain ⟨hfirst, hrest⟩ := List.cons.inj h
    intro k hk
    cases k with
    | zero => exact hfirst
    | succ k =>
      rw [Nat.add_comm k 1, ← Nat.add_assoc]
      exact ih hrest k (Nat.lt_of_succ_lt_succ hk)

theorem memNat_of_memRead_eq_natLe {m : Memory} {a n v : Nat} (h : memRead m a n = natLe n v) : memNat m a n = v % 256 ^ n := by
  rw [memNat, h, leNat_natLe]

theorem length_recBytes (rnd u : Nat) (r : OptRec) : (recBytes rnd u r).length = 16 := by
  simp [recBytes, natLe_length]

/-- What is read of a record whose bytes are those of `r`. -/
theorem memNat_of_record {m : Memory} {a rnd u : Nat} {r : OptRec} (h : memRead m a 16 = recBytes rnd u r) :
    memNat m a 4 = fp32.encode 0 false 0 r.master % 2 ^ 32 ∧ memNat m (a + 4) 4 = fp32.encode 0 false 0 r.mom1 % 2 ^ 32 ∧
      memNat m (a + 8) 4 = fp32.encode 0 false 0 r.mom2 % 2 ^ 32 ∧ memNat m (a + 12) 2 = bf16.encode rnd false u r.master % 2 ^ 16 ∧
      memNat m (a + 14) 2 = r.step % 2 ^ 16 := by
  have hsplit : memRead m a 16 = memRead m a 4 ++ (memRead m (a + 4) 4 ++ (memRead m (a + 8) 4 ++
      (memRead m (a + 12) 2 ++ memRead m (a + 14) 2))) := by
    rw [memRead_add m a 4 12, memRead_add m (a + 4) 4 8, memRead_add m (a + 8) 4 4, memRead_add m (a + 12) 2 2]
  have hlen (n p v : Nat) : (memRead m p n).length = (natLe n v).length := by rw [memRead_length, natLe_length]
  rw [hsplit, recBytes] at h
  simp only [List.append_assoc] at h
  obtain ⟨hmaster, h⟩ := List.append_inj h (hlen ..)
  obtain ⟨hmom1, h⟩ := List.append_inj h (hlen ..)
  obtain ⟨hmom2, h⟩ := List.append_inj h (hlen ..)
  obtain ⟨hwork, hstep⟩ := List.append_inj h (hlen ..)
  exact ⟨memNat_of_memRead_eq_natLe hmaster, memNat_of_memRead_eq_natLe hmom1, memNat_of_memRead_eq_natLe hmom2,
    memNat_of_memRead_eq_natLe hwork, memNat_of_memRead_eq_natLe hstep⟩

/-- A record is read alike from memories that agree on its bytes. -/
theorem readRec_congr {m m' : Memory} {a : Nat} (h : ∀ c, a ≤ c → c < a + 16 → memGet m' c = memGet m c) :
    readRec m' a = readRec m a := by
  have hpart {p n : Nat} (hlo : a ≤ p) (hhi : p + n ≤ a + 16) : memNat m' p n = memNat m p n :=
    memNat_congr fun c h1 h2 => h c (hlo.trans h1) (by omega)
  simp only [readRec, memF32, hpart (p := a) (n := 4) (by omega) (by omega), hpart (p := a + 4) (n := 4) (by omega) (by omega),
    hpart (p := a + 8) (n := 4) (by omega) (by omega), hpart (p := a + 14) (n := 2) (by omega) (by omega)]

/-! ## The records in memory (10 R273) -/

/-- The gradient leaves its record (R274: NFSKIP). -/
def skipsGrad (h : Hyper) (x : Num) : Bool := h.nfskip && (x.isNan || x.isInf)

/-- How many of the first `e` gradients update their records. -/
def updatesBefore (h : Hyper) (gs : List Num) (e : Nat) : Nat := (gs.take e).countP fun x => !skipsGrad h x

/-- What VOPT leaves in memory: from `a` on a record for each gradient, `us` the draws of those that are updated. -/
def updateRecords (h : Hyper) (rnd a : Nat) : List Num → List Nat → Memory → Memory
  | [], _, m => m
  | g :: gs, us, m =>
    if skipsGrad h g then updateRecords h rnd (a + 16) gs us m
    else updateRecords h rnd (a + 16) gs us.tail (memWrite m a (recBytes rnd (us.headD 0) (optStep h (readRec m a) g)))

theorem State.updateAll_of_sound {s : State} (hs : s.sound = true) (h : Hyper) (rnd a : Nat) (gs : List Num) (us : List Nat) :
    ∃ z, updateAll h rnd a gs us s = s.rewritten (updateRecords h rnd a gs us s.mem) z := by
  induction gs generalizing a us s with
  | nil => exact ⟨s.sealer, rfl⟩
  | cons g gs ih =>
    rw [updateAll, ← skipsGrad, updateRecords]
    cases hskip : skipsGrad h g with
    | true =>
      simp only [if_true]
      exact ih hs _ _
    | false =>
      simp only [Bool.false_eq_true, if_false]
      obtain ⟨z, hz⟩ := State.store_of_sound hs a (recBytes rnd (us.headD 0) (optStep h (readRec s.mem a) g))
      rw [hz]
      exact ih (s := s.rewritten _ z) hs _ _

section Records

variable (h : Hyper) (rnd : Nat)

theorem memGet_updateRecords_outside {m : Memory} (hm : Memory.wf m = true) {a : Nat} {gs : List Num} (us : List Nat) {c : Nat}
    (hc : c < a ∨ a + 16 * gs.length ≤ c) : memGet (updateRecords h rnd a gs us m) c = memGet m c := by
  induction gs generalizing a us m with
  | nil => rfl
  | cons g gs ih =>
    rw [List.length_cons] at hc
    simp only [updateRecords]
    split
    · exact ih hm _ (by omega)
    · refine (ih (memWrite_wf _ _ hm) _ (by omega)).trans (memGet_memWrite_outside _ hm ?_)
      rw [length_recBytes]
      omega

/-- Record `e` keeps its bytes where its gradient is left out, and else has those of its update. -/
theorem memRead_updateRecords {m : Memory} (hm : Memory.wf m = true) {a : Nat} {gs : List Num} (us : List Nat) {e : Nat}
    (he : e < gs.length) (x : Num) : memRead (updateRecords h rnd a gs us m) (a + 16 * e) 16 =
      if skipsGrad h (gs.getD e x) then memRead m (a + 16 * e) 16
      else recBytes rnd (us.getD (updatesBefore h gs e) 0) (optStep h (readRec m (a + 16 * e)) (gs.getD e x)) := by
  induction gs generalizing a us m e with
  | nil => cases he
  | cons g gs ih =>
    have hrest (us : List Nat) {m : Memory} (hm : Memory.wf m = true) :
        memRead (updateRecords h rnd (a + 16) gs us m) a 16 = memRead m a 16 :=
      memRead_congr fun c _ hc => memGet_updateRecords_outside h rnd hm us (.inl hc)
    have hplace (e : Nat) : a + 16 * (e + 1) = a + 16 + 16 * e := by omega
    rw [updateRecords]
    cases hskip : skipsGrad h g with
    | true =>
      rw [if_pos rfl]
      cases e with
      | zero => simpa [hskip] using hrest us hm
      | succ e =>
        rw [hplace, ih hm us (Nat.lt_of_succ_lt_succ he)]
        simp [updatesBefore, hskip]
    | false =>
      let bs := recBytes rnd (us.headD 0) (optStep h (readRec m a) g)
      have hout {c : Nat} (hc : a + 16 ≤ c) : memGet (memWrite m a bs) c = memGet m c :=
        memGet_memWrite_outside bs hm (.inr (by rw [length_recBytes]; exact hc))
      rw [if_neg Bool.false_ne_true]
      cases e with
      | zero =>
        have hself : memRead (memWrite m a bs) a 16 = bs := by
          have hread := memRead_memWrite bs a hm
          rwa [length_recBytes] at hread
        simpa [hskip, updatesBefore, bs, List.head?_eq_getElem?] using (hrest us.tail (memWrite_wf bs a hm)).trans hself
      | succ e =>
        rw [hplace, ih (memWrite_wf bs a hm) us.tail (Nat.lt_of_succ_lt_succ he),
          memRead_congr (fun c h1 _ => hout (by omega)), readRec_congr (fun c h1 _ => hout (by omega))]
        simp [updatesBefore, hskip]

end Records

/-! ## The update (10 R275) -/

theorem powi_eq_roundedPower (x : Num) (t : Nat) : powi x t 16 (.ofNat 1) = roundedPower x t := by
  have h (n : Nat) (p : Num) : powi x t n p = (List.range n).reverse.foldl (fun p i => let q := rne32 (p.mul p)
      if t.testBit i then rne32 (q.mul x) else q) p := by
    induction n generalizing p with
    | zero => rfl
    | succ n ih =>
      rw [powi, ih, List.range_succ, List.reverse_append]
      rfl
  exact h 16 _

/-- The hyperparameter block at `a` (10 R274). -/
def hyperAt (m : Memory) (a : Nat) : Hyper :=
  ⟨memF32 m a, memF32 m (a + 4), memF32 m (a + 8), memF32 m (a + 12), memF32 m (a + 16), memNat m (a + 20) 4 % 2 == 1,
    memNat m (a + 20) 4 / 2 == 1⟩

theorem readHyper_ok {m : Memory} {a : Nat} (hflags : memNat m (a + 20) 4 < 4) (hzero : memNat m (a + 24) 8 = 0) :
    readHyper m a = .ok (hyperAt m a) := by
  simp only [readHyper, need, hflags, hzero, decide_true, beq_self_eq_true, Bool.and_self, if_true]
  rfl

theorem updatesBefore_succ (h : Hyper) {gs : List Num} {e : Nat} (he : e < gs.length) (x : Num) :
    updatesBefore h gs (e + 1) = updatesBefore h gs e + if skipsGrad h (gs.getD e x) then 0 else 1 := by
  rw [updatesBefore, List.take_add_one, List.countP_append, List.getD_eq_getElem _ _ he, List.getElem?_eq_getElem he]
  cases hskip : skipsGrad h gs[e]
  all_goals simp [updatesBefore, hskip]

theorem updatesBefore_le (h : Hyper) (gs : List Num) (e : Nat) : updatesBefore h gs e ≤ updatesBefore h gs gs.length := by
  rw [updatesBefore, updatesBefore, List.take_length]
  exact (List.take_sublist e gs).countP_le

/-- The gradients of a register, in flattened order (10 R273). -/
def gradients (v : VReg) : List Num := (v.rows.flatMap expandRow).map fun x => fp32.decode x.toNat

/-- The hyperparameters at Xh. -/
def State.hyper (s : State) (h : Nat) : Hyper := hyperAt s.mem ((s.slotRegion false).base + (s.xval h).toNat)

/-- VOPT of the gradients in `gr` on the records at `r` under the block at `h` meets no fault. -/
structure State.canUpdate (s : State) (r rnd gr h : Nat) : Prop where
  records : s.readable r
  block : s.readable h
  sound : s.sound = true
  tag : (s.ctx.vAt gr).tag = .fp32
  aligned : (s.xval r).toNat % 16 = 0 ∧ (s.xval h).toNat % 32 = 0
  blockIn : (s.xval h).toNat + 32 ≤ (s.slotRegion false).size
  recordsIn : (gradients (s.ctx.vAt gr)).length = 0 ∨
    (s.xval r).toNat + 16 * (gradients (s.ctx.vAt gr)).length ≤ (s.slotRegion false).size
  flags : memNat s.mem ((s.slotRegion false).base + (s.xval h).toNat + 20) 4 < 4
  reserved : memNat s.mem ((s.slotRegion false).base + (s.xval h).toNat + 24) 8 = 0
  free : s.raceCore [(s.slotRegion false).touch (s.xval h).toNat 32] (if (gradients (s.ctx.vAt gr)).length = 0 then [] else
    [(s.slotRegion false).touch (s.xval r).toNat (16 * (gradients (s.ctx.vAt gr)).length)]) = .ok ()
  live : rnd = 1 → s.liveC

/-- The draws `us` of `k` updates, and the state `u` in which they are made: none, or those of a live channel C (10 R276). -/
structure UpdateDraws (s : State) (rnd k : Nat) (us : List Nat) (u : State) : Prop where
  plain : rnd ≠ 1 → us = [] ∧ u = s
  drawn : rnd = 1 → (∀ j < k, us.getD j 0 = s.drawAt j) ∧ u = s.drewC ((k + 1) / 2)

theorem exists_updateDraws {s : State} {rnd : Nat} (hlive : rnd = 1 → s.liveC) (k : Nat) :
    ∃ us u, UpdateDraws s rnd k us u ∧ (if rnd = 1 then s.drawC k else .ok (s, [])) = .ok (u, us) := by
  by_cases hrnd : rnd = 1
  · obtain ⟨us, hdraw, hus⟩ := State.drawC_live (hlive hrnd) k
    exact ⟨us, _, ⟨fun h => absurd hrnd h, fun _ => ⟨hus, rfl⟩⟩, by rw [if_pos hrnd, hdraw]⟩
  · exact ⟨[], s, ⟨fun _ => ⟨rfl, rfl⟩, fun h => absurd h hrnd⟩, if_neg hrnd⟩

theorem exec_vopt {s : State} {g r rnd gr h : Nat} (hrun : s.canRun .vector g) (hcan : s.canUpdate r rnd gr h) :
    ∃ us u, UpdateDraws s rnd (updatesBefore (s.hyper h) (gradients (s.ctx.vAt gr)) (gradients (s.ctx.vAt gr)).length) us u ∧
      exec (.vopt g r rnd gr h) s = .next (updateAll (s.hyper h) rnd ((s.slotRegion false).base + (s.xval r).toNat)
        (gradients (s.ctx.vAt gr)) us u).commitOrder := by
  obtain ⟨hr, hh, hsound, htag, ⟨hro, hho⟩, hhin, hrin, hflags, hzero, hrace, hlive⟩ := hcan
  have hin : (decide ((s.xval h).toNat + 32 ≤ (s.slotRegion false).size) && ((gradients (s.ctx.vAt gr)).length == 0 ||
      decide ((s.xval r).toNat + 16 * (gradients (s.ctx.vAt gr)).length ≤ (s.slotRegion false).size))) = true := by
    simp only [Bool.and_eq_true, Bool.or_eq_true, decide_eq_true_eq, beq_iff_eq]
    exact ⟨hhin, hrin⟩
  have hgs : ((s.ctx.vAt gr).rows.flatMap expandRow).map execVopt.fp32Num = gradients (s.ctx.vAt gr) := rfl
  have hk : (gradients (s.ctx.vAt gr)).countP (fun x => !((s.hyper h).nfskip && (x.isNan || x.isInf))) =
      updatesBefore (s.hyper h) (gradients (s.ctx.vAt gr)) (gradients (s.ctx.vAt gr)).length := by
    rw [updatesBefore, List.take_length]
    rfl
  have hhyper : readHyper s.mem ((s.slotRegion false).base + (s.xval h).toNat) = .ok (s.hyper h) := readHyper_ok hflags hzero
  obtain ⟨us, u, hdraws, hdraw⟩ := exists_updateDraws hlive
    (updatesBefore (s.hyper h) (gradients (s.ctx.vAt gr)) (gradients (s.ctx.vAt gr)).length)
  refine ⟨us, u, hdraws, exec_vector rfl hrun ?_⟩
  simp only [State.rx_of_readable hr, State.rx_of_readable hh, needTag, need, htag, beq_self_eq_true, hro, hho, Bool.and_self, if_true,
    hgs, hin, hhyper, hrace, State.readCheck_of_sound hsound, hk, bind, Except.bind, pure, Except.pure]
  split
  case isTrue hrnd =>
    rw [if_pos hrnd] at hdraw
    rw [hdraw]
  case isFalse hrnd =>
    rw [if_neg hrnd] at hdraw
    cases hdraw
    rfl

/-- Settles O27: the records are updated one after another (`updateRecords`), so each is read as the instruction found it, and the
draw of a record is that of the updates before it (`UpdateDraws`). -/
theorem optimiserUpdate : Obligations.OptimiserUpdate := by
  unfold Obligations.OptimiserUpdate
  intro s g r rnd gr h hrun hr hh hsound hmem v gs n reg ro ho hy flags skips htag hro hho hhin hrin hflags hzero hrace hlive
  obtain ⟨us, u, hdraws, hexec⟩ := exec_vopt hrun
    ⟨hr, hh, hsound, htag, ⟨hro, hho⟩, hhin, hrin, hflags, hzero, hrace, hlive⟩
  have husound : u.sound = true ∧ u.mem = s.mem := by
    by_cases hrnd : rnd = 1
    · obtain ⟨-, rfl⟩ := hdraws.drawn hrnd
      exact ⟨hsound, rfl⟩
    · obtain ⟨-, rfl⟩ := hdraws.plain hrnd
      exact ⟨hsound, rfl⟩
  obtain ⟨z, hz⟩ := State.updateAll_of_sound husound.1 (s.hyper h) rnd ((s.slotRegion false).base + (s.xval r).toNat) gs us
  rw [husound.2] at hz
  have hskip (e : Nat) : skips e ↔ skipsGrad (s.hyper h) (gs.getD e (Num.ofNat 0)) = true := by
    simp only [skips, skipsGrad, State.hyper, hyperAt, Bool.and_eq_true, beq_iff_eq]
    rfl
  have hbias : (s.hyper h).nobias = decide (2 ≤ flags) := by
    have hiff : flags / 2 = 1 ↔ 2 ≤ flags := by omega
    rw [← decide_eq_decide.2 hiff]
    rfl
  refine ⟨_, u, updatesBefore (s.hyper h) gs, hexec.trans (congrArg (fun t => Host.Outcome.next (State.commitOrder t)) hz),
    State.onlyOrders_commitOrder _, rfl, fun e he => ⟨fun hs => ?_, fun hs => ?_⟩, fun hrnd => (hdraws.plain hrnd).2,
    State.commitOrder_freeCtr _, fun hrnd => (hdraws.drawn hrnd).2, fun c hc => ?_, fun e he => ?_⟩
  · rw [updatesBefore_succ _ he (Num.ofNat 0), if_pos ((hskip e).1 hs), Nat.add_zero]
  · rw [updatesBefore_succ _ he (Num.ofNat 0), if_neg (mt (hskip e).2 hs)]
  · rw [State.commitOrder_mem]
    exact memGet_updateRecords_outside _ _ hmem us hc
  · intro a old one x step m v mh vh d w noise draw
    have hrec := memRead_updateRecords (s.hyper h) rnd hmem us he (Num.ofNat 0) (a := (s.slotRegion false).base + (s.xval r).toNat)
    rw [State.commitOrder_mem]
    refine ⟨fun hs => ?_, fun hs => ?_⟩
    · rw [if_pos ((hskip e).1 hs)] at hrec
      exact memGet_eq_of_memRead_eq hrec
    · rw [if_neg (mt (hskip e).2 hs)] at hrec
      obtain ⟨hmaster, hmom1, hmom2, hwork, hstep⟩ := memNat_of_record hrec
      have hdrew : us.getD (updatesBefore (s.hyper h) gs e) 0 = draw := by
        by_cases hrnd : rnd = 1
        · have hlt : updatesBefore (s.hyper h) gs e < updatesBefore (s.hyper h) gs gs.length := by
            have hsucc := updatesBefore_succ (s.hyper h) he (Num.ofNat 0)
            rw [if_neg (mt (hskip e).2 hs)] at hsucc
            have hle := updatesBefore_le (s.hyper h) gs (e + 1)
            omega
          rw [(hdraws.drawn hrnd).1 _ hlt]
          exact (if_neg (not_not_intro hrnd)).symm
        · rw [(hdraws.plain hrnd).1]
          exact (if_pos hrnd).symm
      have hw : (optStep (s.hyper h) (readRec s.mem a) x).master = w := by
        simp only [optStep, powi_eq_roundedPower, hbias, decide_eq_true_eq]
        rfl
      rw [hdrew] at hwork
      exact ⟨hmaster.trans (congrArg (fun y => fp32.encode 0 false 0 y % 2 ^ 32) hw), hmom1, hmom2,
        hstep.trans (Nat.mod_eq_of_lt ((Nat.min_le_right _ _).trans_lt (by norm_num))),
        hwork.trans (congrArg (fun y => bf16.encode rnd false draw y % 2 ^ 16) hw)⟩

end Sys2Proof.Machine
end

section
/-! Team barriers (11 R295 to R297; 07 R183). -/
namespace Sys2Proof.Machine

/-- The barrier as the member's arrival finds it, the operations that come before the arrival among those before the phase's. -/
def Barrier.arrive (r : Barrier) (m : Nat) (ids : List Nat) : Barrier :=
  { r with arrived := m :: r.arrived, before := union r.before ids }

/-- The phase completes as the last member arrives that has not ended. -/
theorem settleBar_arrive_last {ms : List (Nat × Bool)} {r : Barrier} {m : Nat} (ids : List Nat)
    (h : ∀ x ∈ ms, x.2 = true ∨ x.1 = m ∨ x.1 ∈ r.arrived) :
    settleBar ms (r.arrive m ids) = ⟨r.phase + 1, [], [], union r.passed (union r.before ids)⟩ := by
  refine if_pos ?_
  simpa [Barrier.arrive] using h

/-- While a member is still to come, the phase goes on. -/
theorem settleBar_arrive_early {ms : List (Nat × Bool)} {r : Barrier} {m : Nat} (ids : List Nat)
    (h : ∃ x ∈ ms, x.2 = false ∧ x.1 ≠ m ∧ x.1 ∉ r.arrived) : settleBar ms (r.arrive m ids) = r.arrive m ids := by
  obtain ⟨x, hx, hlive, hne, hout⟩ := h
  refine if_neg fun hall => ?_
  have hx' := List.all_eq_true.1 (Bool.and_eq_true_iff.1 hall).2 x hx
  simp [Barrier.arrive, hlive, hne, hout] at hx'

/-- The state with one barrier of the task in issue replaced. -/
def State.putBar (s : State) (b : Nat) (r : Barrier) : State := s.putTask { s.task with bars := s.task.bars.set b r }

theorem State.bar_putBar (s : State) {b : Nat} (r : Barrier) (hb : b < s.task.bars.length) : (s.putBar b r).task.bar b = r := by
  simp [State.putBar, Task.bar, List.getD, hb]

section Words

variable {s : State} {g b : Nat} (hrun : s.canRun .controlMain g)

include hrun

theorem exec_bara (d : Nat) (hm : s.ctx.member ∉ (s.task.bar b).arrived) :
    exec (.bara g d b) s = .next ((s.putBar b (settleBar (s.memberEnds s.task)
      ((s.task.bar b).arrive s.ctx.member (s.undone s.ctx.before)))).wx 1 d ((s.task.bar b).phase.setWidth 64)) := by
  refine runWord_ok hrun ?_
  simp only [need, List.contains_eq_mem, hm, decide_false, Bool.not_false, if_true]
  rfl

theorem exec_bara_again (d : Nat) (hm : s.ctx.member ∈ (s.task.bar b).arrived) :
    exec (.bara g d b) s = .next (s.stopAt (flt .FM 18)) := by
  refine runWord_stop hrun ?_
  simp only [need, List.contains_eq_mem, hm, decide_true, Bool.not_true, Bool.false_eq_true, if_false]
  rfl

theorem exec_barw (hm : s.ctx.member ∉ (s.task.bar b).arrived) :
    exec (.barw g b) s = .next (if (s.task.bar b).passed = [] then s
      else s.putCtx { s.ctx with before := union s.ctx.before (s.undone (s.task.bar b).passed) }) := by
  refine runWord_ok hrun ?_
  simp only [need, List.contains_eq_mem, hm, decide_false, Bool.not_false, if_true, List.isEmpty_iff]
  rfl

theorem exec_barw_arrived (hm : s.ctx.member ∈ (s.task.bar b).arrived) :
    exec (.barw g b) s = .next (s.stopAt (.block (.barrier b ((s.task.bar b).phase.setWidth 64)))) := by
  refine runWord_stop hrun ?_
  simp only [need, List.contains_eq_mem, hm, decide_true, Bool.not_true, Bool.false_eq_true, if_false]
  rfl

end Words

/-- Settles O20: the arrival that leaves no member to come completes the phase (`settleBar_arrive_last`), any other joins those arrived
(`settleBar_arrive_early`). -/
theorem teamBarriers : Obligations.TeamBarriers := by
  unfold Obligations.TeamBarriers
  intro s g d b hrun hb r me
  refine ⟨fun hm => ⟨_, exec_bara hrun d hm, rfl, rfl, fun hall => ?_, fun hsome => ?_⟩, exec_bara_again hrun d, exec_barw hrun,
    exec_barw_arrived hrun⟩
  · rw [State.bar_putBar s _ hb]
    exact settleBar_arrive_last _ hall
  · rw [State.bar_putBar s _ hb]
    exact settleBar_arrive_early _ hsome

end Sys2Proof.Machine
end

section
/-! What the module notes on the side as its lines are read and written: the error log, the lines' seals and errors (23 R473 to R479), the L2
with its telemetry and notices (21 R443 to R445; 22 R462 to R464, R472). -/
namespace Sys2Proof.Machine

/-- `t` is `s` but for the L2, the counts and notices of its accesses, the error log, the seals and errors of lines; no byte of a memory on
the module is another. -/
structure State.Notes (s t : State) : Prop where
  eq : t = { s with
    mem := t.mem, poison := t.poison, badSeal := t.badSeal, sealer := t.sealer, latent := t.latent, l2 := t.l2, frames := t.frames,
    paddocks := t.paddocks, elog := t.elog, irq := t.irq }
  wf : s.memCanonical → t.memCanonical
  bytes : s.memCanonical → ∀ c < hostAddr 0, memGet t.mem c = memGet s.mem c

namespace State.Notes

variable {s t u : State}

theorem refl (s : State) : s.Notes s := ⟨rfl, id, fun _ _ _ => rfl⟩

theorem trans (h : s.Notes t) (h' : t.Notes u) : s.Notes u :=
  ⟨by rw [h'.eq, h.eq], h'.wf ∘ h.wf, fun hm c hc => (h'.bytes (h.wf hm) c hc).trans (h.bytes hm c hc)⟩

theorem ite {c : Prop} [Decidable c] (h : s.Notes t) (h' : s.Notes u) : s.Notes (if c then t else u) := by
  split
  · exact h
  · exact h'

theorem foldl {α : Type} {f : State → α → State} {l : List α} (hf : ∀ (s : State) a, s.Notes (f s a)) (h : s.Notes t) :
    s.Notes (l.foldl f t) :=
  List.foldlRecOn (motive := s.Notes) _ _ h fun u hu a _ => hu.trans (hf u a)

/-- An update of the seals, the errors, the log, the counts, which writes no memory. -/
theorem of_mem (h : t = { s with
    poison := t.poison, badSeal := t.badSeal, sealer := t.sealer, latent := t.latent, l2 := t.l2, frames := t.frames,
    paddocks := t.paddocks, elog := t.elog, irq := t.irq }) : s.Notes t := by
  have hmem : t.mem = s.mem := by rw [h]
  refine ⟨by rw [h], fun hs => ?_, fun _ c _ => by rw [hmem]⟩
  rwa [State.memCanonical, hmem]

theorem hostWrite (s : State) (a : Nat) (bs : List Byte) : s.Notes { s with mem := memWrite s.mem (hostAddr a) bs } := by
  refine ⟨rfl, memWrite_wf bs _, fun hm c hc => memGet_memWrite_outside bs hm (.inl ?_)⟩
  unfold hostAddr at hc ⊢
  omega

theorem core (h : s.Notes t) : t.me = s.me ∧ t.ctxs = s.ctxs ∧ t.tasks = s.tasks ∧ t.cores = s.cores ∧ t.ops = s.ops ∧ t.bun = s.bun := by
  rw [h.eq]
  exact ⟨rfl, rfl, rfl, rfl, rfl, rfl⟩

/-! ## The error log, errors, poison, seals (23 R473 to R479) -/

theorem logEvent (s : State) (kind place p src seq origin : Nat) : s.Notes (s.logEvent kind place p src seq origin) := by
  have hlog (u : State) (e : ErrLog) : u.Notes { u with elog := e } := of_mem rfl
  have hirq (u : State) (fn vec : Nat) : u.Notes (u.interrupt fn vec) := of_mem rfl
  have hentry (a : Nat) (bs : List Byte) (e : ErrLog) : s.Notes { s with mem := memWrite s.mem (hostAddr a) bs, elog := e } :=
    (hostWrite s a bs).trans (hlog _ e)
  unfold State.logEvent
  exact ite (hlog s _) (ite (hlog s _) (ite ((hentry _ _ _).trans (hirq _ 0 1)) (hentry _ _ _)))

theorem settleCode (s : State) (l : Nat) (bits : List Nat) : s.Notes (s.settleCode l bits) := by
  unfold State.settleCode
  refine ite (logEvent ..) (ite (refl s) ?_)
  exact (of_mem rfl : s.Notes { s with poison := s.dataLine l :: s.poison }).trans (logEvent ..)

theorem settleWords (s : State) (l : Nat) (seen : Nat → Bool) : s.Notes (s.settleWords l seen) := by
  unfold State.settleWords
  split
  · exact refl s
  · exact foldl (fun s bits => settleCode s l bits) (of_mem rfl)

theorem verifyLine (s : State) (l : Nat) : s.Notes (s.verifyLine l) := by
  have h : s.Notes (s.settleLine l) := settleWords s l _
  refine ite ((h.trans ?_).trans (logEvent ..)) h
  exact of_mem rfl

theorem settleCopies (s : State) (l : Nat) : s.Notes (s.settleCopies l) := foldl (fun s k => settleWords s k _) (refl s)

theorem reseal (s : State) (a n : Nat) : s.Notes (s.reseal a n) := by
  unfold State.reseal
  refine ite (of_mem rfl) ?_
  have h (ls : List Nat) : s.Notes (ls.foldl (fun s l => (s.settleCopies l).verifyLine l) s) :=
    foldl (fun s l => (settleCopies s l).trans (verifyLine _ l)) (refl s)
  exact (h _).trans (of_mem rfl)

/-! ## The L2 and what it counts (21 R443 to R445; 22 R462 to R464, R472) -/

theorem setPaddock (s : State) (p : Nat) (d : Paddock) : s.Notes (s.setPaddock p d) := of_mem rfl

theorem telemetry (s : State) (p k n : Nat) : s.Notes (s.telemetry p k n) := setPaddock ..

theorem setFrame (s : State) (f : Nat) (e : FrameEntry) : s.Notes (s.setFrame f e) := of_mem rfl

theorem postNotice (s : State) (p f kind val : Nat) : s.Notes (s.postNotice p f kind val).1 := by
  unfold State.postNotice
  dsimp only
  split
  · exact refl s
  · split
    · exact setPaddock ..
    · exact (hostWrite s _ _).trans (setPaddock ..)

theorem noteFrame (s : State) (p f : Nat) : s.Notes (s.noteFrame p f) := by
  have h := postNotice s p f 0 (s.frameAt f).cnt
  exact ite (refl s) (ite (h.trans (setFrame ..)) h)

theorem countAccess (s : State) (f : Nat) : s.Notes (s.countAccess f) := by
  have h (e : FrameEntry) : s.Notes (s.setFrame f e) := setFrame ..
  exact ite (refl s) (ite ((h _).trans (noteFrame ..)) (h _))

theorem readCopy (s : State) (slice line : Nat) : s.Notes (s.readCopy slice line) :=
  ite (refl s) ((settleWords s _ _).trans (settleWords _ _ _))

theorem dropCopy (s : State) (slice line : Nat) : s.Notes (s.dropCopy slice line) := ite (refl s) (of_mem rfl)

theorem lineTransfer (s : State) (host write : Bool) (p line : Nat) : s.Notes (s.lineTransfer host write p line) := by
  have h := telemetry s p (if write then 3 else 2) 128
  unfold State.lineTransfer
  dsimp only
  split
  · exact ite h (h.trans (countAccess ..))
  · exact h

theorem setL2 (s : State) (m : AMap (List L2Line)) : s.Notes { s with l2 := m } := of_mem rfl

theorem l2Access (s : State) (host write : Bool) (line : Nat) : s.Notes (s.l2Access host write line) := by
  unfold State.l2Access
  split
  · exact refl s
  · rename_i p _
    dsimp only
    split
    · have hread := ite (c := write = true) (refl s) (readCopy s (homeSlice (line * 128)) line)
      exact ((ite (hread.trans (lineTransfer ..)) hread).trans (setL2 ..)).trans (telemetry ..)
    · have hmiss := telemetry s p 5 1
      refine ite (hmiss.trans (lineTransfer ..)) ?_
      split
      · exact (hmiss.trans (lineTransfer ..)).trans (setL2 ..)
      · rename_i v _
        have hback := ite (c := v.dirty = true)
          ((hmiss.trans (readCopy _ (homeSlice (line * 128)) v.line)).trans (lineTransfer _ false true v.owner v.line)) hmiss
        exact ((hback.trans (dropCopy ..)).trans (lineTransfer ..)).trans (setL2 ..)

theorem l2Touch (s : State) (host write : Bool) (ls : List Nat) : s.Notes (s.l2Touch host write ls) :=
  foldl (fun s l => l2Access s host write l) (refl s)

end State.Notes

/-- Bytes stored: notes on the side, then the bytes. -/
theorem State.store_eq_notes (s : State) (a : Nat) (bs : List Byte) :
    ∃ u : State, s.Notes u ∧ s.store a bs = { u with mem := memWrite u.mem a bs } :=
  ⟨_, .reseal s a bs.length, rfl⟩

end Sys2Proof.Machine
end

section
/-! Loads, stores and atomics (11 R283 to R288; 07 R171). -/
namespace Sys2Proof.Machine

/-! ## The checks of an address (11 R283) -/

section Address

variable {n : Nat}

theorem Region.check_ok {r : Region} {o : Nat} (ha : o % n = 0) (hin : o + n ≤ r.size) : r.check o n n = .ok o := by
  have halign : ((o : Int) % (n : Int) == 0) = true := beq_iff_eq.2 (by exact_mod_cast ha)
  have hfits : (decide ((0 : Int) ≤ (o : Int)) && decide ((o : Int) + n ≤ r.size)) = true := by
    simp only [Bool.and_eq_true, decide_eq_true_eq]
    omega
  simp only [Region.check, need, halign, hfits, if_true]
  rfl

theorem Region.check_misaligned {r : Region} {p : Int} (h : p % n ≠ 0) : r.check p n n = .error (flt .FM 8) := by
  simp only [Region.check, need, beq_eq_false_iff_ne.2 h, Bool.false_eq_true, if_false]
  rfl

theorem Region.check_outside {r : Region} {p : Int} (h : p % n = 0) (hout : p < 0 ∨ (r.size : Int) < p + n) :
    r.check p n n = .error (flt .LS 3) := by
  have hfits : ¬ (decide (0 ≤ p) && decide (p + n ≤ r.size)) = true := by
    simp only [Bool.and_eq_true, decide_eq_true_eq]
    omega
  simp only [Region.check, need, beq_iff_eq.2 h, if_true, if_neg hfits]
  rfl

variable {s : State} {mb : Bool} {x off : Word}

theorem State.slotAddr_ok {o : Nat} (hp : (x + off * BitVec.ofNat 64 n).toInt = o) (ha : o % n = 0)
    (hin : o + n ≤ (s.slotRegion mb).size) : s.slotAddr mb x off n = .ok (s.slotRegion mb, o) := by
  rw [State.slotAddr, word, hp, Region.check_ok ha hin]
  rfl

theorem State.slotAddr_misaligned (h : (x + off * BitVec.ofNat 64 n).toInt % n ≠ 0) : s.slotAddr mb x off n = .error (flt .FM 8) := by
  rw [State.slotAddr, word, Region.check_misaligned h]
  rfl

theorem State.slotAddr_outside (h : (x + off * BitVec.ofNat 64 n).toInt % n = 0)
    (hout : (x + off * BitVec.ofNat 64 n).toInt < 0 ∨ ((s.slotRegion mb).size : Int) < (x + off * BitVec.ofNat 64 n).toInt + n) :
    s.slotAddr mb x off n = .error (flt .LS 3) := by
  rw [State.slotAddr, word, Region.check_outside h hout]
  rfl

end Address

/-! ## The words of classes MA and MB -/

theorem slotKind_accesses (mb : Bool) : (slotKind mb).accesses = true := by
  cases mb
  all_goals rfl

section Words

variable {s t : State} {i : Instr} {k : WordKind} {g len : Nat} {body : State → Except Stop State}
  (hexec : exec i s = runWord k len g body s) (hrun : s.canRun k g)

include hexec hrun

/-- A core access in its bundle does what its body does, and takes its place in the commit order. -/
theorem exec_access (hk : k.accesses = true) (hb : body s = .ok t) : exec i s = .next t.commitOrder := by
  rw [hexec, runWord_ok hrun hb, WordKind.order, if_pos hk]

theorem exec_access_stop {e : Stop} (hb : body s = .error e) : exec i s = .next (s.stopAt e) := hexec.trans (runWord_stop hrun hb)

end Words

/-! ## Loads (11 R284) -/

theorem exec_loadWord {i : Instr} {g d a n : Nat} {m : Imm} {mb signed : Bool} (h : loadWord i = some (g, d, a, m, mb, signed, n))
    (s : State) : exec i s = runWord (slotKind mb) (immLen m) g (loadBody mb signed n d a (m.value 6)) s := by
  unfold loadWord at h
  split at h
  case h_17 => cases h
  all_goals
    cases h
    rfl

section Loads

variable {s : State} {a : Nat} (mb signed : Bool) (n d : Nat) {off : Word} (ha : s.readable a)

include ha

theorem loadBody_ok {o : Nat} (haddr : s.slotAddr mb (s.xval a) off n = .ok (s.slotRegion mb, o)) (hsound : s.sound = true)
    (hrace : s.raceCore [(s.slotRegion mb).touch o n] [] = .ok ()) :
    loadBody mb signed n d a off s =
      .ok (s.wx (if mb then 9 else 3) d (extend signed n (memNat s.mem ((s.slotRegion mb).base + o) n))) := by
  simp only [loadBody, State.rx_of_readable ha, haddr, hrace, State.readCheck_of_sound hsound, bind, Except.bind, pure, Except.pure]

theorem loadBody_stop {e : Stop} (haddr : s.slotAddr mb (s.xval a) off n = .error e) : loadBody mb signed n d a off s = .error e := by
  simp only [loadBody, State.rx_of_readable ha, haddr, bind, Except.bind]

end Loads

/-- Settles O29: a load is `loadBody`, whose address passes or fails as `State.slotAddr_ok` and its fellows say. -/
theorem loadResults : Obligations.LoadResults := by
  unfold Obligations.LoadResults
  refine ⟨fun s => ⟨s.onlyOrders_commitOrder, s.commitOrder_mem⟩, ?_⟩
  intro s i g d a n m mb signed hi hrun ha reg p
  refine ⟨fun o hp halign hin hsound hrace => ?_, fun h => ?_, fun h hout => ?_⟩
  · exact exec_access (exec_loadWord hi s) hrun (slotKind_accesses mb)
      (loadBody_ok mb signed n d ha (State.slotAddr_ok hp halign hin) hsound hrace)
  · exact exec_access_stop (exec_loadWord hi s) hrun (loadBody_stop mb signed n d ha (State.slotAddr_misaligned h))
  · exact exec_access_stop (exec_loadWord hi s) hrun (loadBody_stop mb signed n d ha (State.slotAddr_outside h hout))

/-! ## Stores (11 R285) -/

theorem exec_storeWord {i : Instr} {g x a n : Nat} {m : Imm} {mb : Bool} (h : storeWord i = some (g, x, a, m, mb, n)) (s : State) :
    exec i s = runWord (slotKind mb) (immLen m) g (storeBody mb n x a (m.value 6)) s := by
  unfold storeWord at h
  split at h
  case h_11 => cases h
  all_goals
    cases h
    rfl

section Stores

variable {s : State} {a x : Nat} (mb : Bool) (n : Nat) {off : Word} (ha : s.readable a) (hx : s.readable x)

include ha hx

theorem storeBody_ok {o : Nat} (haddr : s.slotAddr mb (s.xval a) off n = .ok (s.slotRegion mb, o))
    (hrace : s.raceCore [] [(s.slotRegion mb).touch o n] = .ok ()) :
    storeBody mb n x a off s = .ok (s.store ((s.slotRegion mb).base + o) (natLe n (s.xval x).toNat)) := by
  simp only [storeBody, State.rx_of_readable ha, State.rx_of_readable hx, haddr, hrace, bind, Except.bind, pure, Except.pure]

theorem storeBody_stop {e : Stop} (haddr : s.slotAddr mb (s.xval a) off n = .error e) : storeBody mb n x a off s = .error e := by
  simp only [storeBody, State.rx_of_readable ha, State.rx_of_readable hx, haddr, bind, Except.bind]

end Stores

/-- Which operations come first is read from what notes on the side leave as it is. -/
theorem State.Notes.onlyOrders {s u t : State} {m : Memory} (h : s.Notes u) (ht : State.onlyOrders { u with mem := m } t) :
    s.onlyOrders t := by
  obtain ⟨hme, hctxs, htasks, hcores, hops, hbun⟩ := h.core
  have hctx : State.ctx { u with mem := m } = s.ctx := by rw [State.ctx, State.ctxAt, hme, hctxs]; rfl
  have htask : State.task { u with mem := m } = s.task := by rw [State.task, State.taskAt, hctx, htasks]; rfl
  obtain ⟨hme', hcores', hops', hbun', hctx', hothers, htask', hothertasks⟩ := ht
  rw [hctx] at hctx' hothertasks
  rw [htask] at htask'
  refine ⟨hme'.trans hme, hcores'.trans hcores, hops'.trans hops, hbun'.trans hbun, hctx', fun cid hc => ?_, htask', fun tid hd => ?_⟩
  · rw [hothers cid (hme ▸ hc), State.ctxAt, State.ctxAt, hctxs]
  · rw [hothertasks tid hd, State.taskAt, State.taskAt, htasks]

theorem natLe_getD (n v : Nat) {k : Nat} (hk : k < n) : (natLe n v).getD k 0 = BitVec.ofNat 8 (v / 256 ^ k) := by
  induction n generalizing v k with
  | zero => omega
  | succ n ih =>
    cases k with
    | zero => simp [natLe]
    | succ k =>
      have hstep := ih (v / 256) (Nat.lt_of_succ_lt_succ hk)
      rw [Nat.div_div_eq_div_mul, ← Nat.pow_succ'] at hstep
      exact hstep

/-- The bytes of a number put in memory are its own, lowest first (00 R5). -/
theorem memGet_memPut {m : Memory} (h : Memory.wf m = true) (a : Nat) {n k : Nat} (v : Nat) (hk : k < n) :
    memGet (memPut m a n v) (a + k) = BitVec.ofNat 8 (v / 256 ^ k) := by
  rw [memPut, memGet_memWrite _ _ _ h, natLe_length, if_pos ⟨Nat.le_add_right .., Nat.add_lt_add_left hk a⟩, Nat.add_sub_cancel_left,
    natLe_getD n v hk]

/-- Settles O30: what a store does besides to lines that are not sound is notes on the side (`State.store_eq_notes`). -/
theorem storeResults : Obligations.StoreResults := by
  unfold Obligations.StoreResults
  intro s i g x a n m mb hi hrun ha hx hmem reg p
  refine ⟨fun o hp halign hin hrace => ?_, fun h => ?_, fun h hout => ?_⟩
  · obtain ⟨u, hu, hstore⟩ := s.store_eq_notes (reg.base + o) (natLe n (s.xval x).toNat)
    refine ⟨_, exec_access (exec_storeWord hi s) hrun (slotKind_accesses mb)
      (storeBody_ok mb n ha hx (State.slotAddr_ok hp halign hin) hrace), ?_, fun k hk => ?_, fun hsound c hc => ?_⟩
    · rw [hstore]
      exact hu.onlyOrders (State.onlyOrders_commitOrder _)
    · rw [State.commitOrder_mem, hstore]
      exact memGet_memPut (hu.wf hmem) _ _ hk
    · obtain ⟨z, hz⟩ := State.store_of_sound hsound (reg.base + o) (natLe n (s.xval x).toNat)
      rw [State.commitOrder_mem, hz]
      exact memGet_memWrite_outside _ hmem (by rwa [natLe_length])
  · exact exec_access_stop (exec_storeWord hi s) hrun (storeBody_stop mb n ha hx (State.slotAddr_misaligned h))
  · exact exec_access_stop (exec_storeWord hi s) hrun (storeBody_stop mb n ha hx (State.slotAddr_outside h hout))

end Sys2Proof.Machine
end

section
/-! Atomics on the memory of a slot (11 R287, R288). -/
namespace Sys2Proof.Machine

/-! ## The values of an atomic's row (11 R288) -/

theorem leNat_lt (bs : List Byte) : leNat bs < 256 ^ bs.length := by
  induction bs with
  | nil => simp [leNat]
  | cons b bs ih =>
    have hb := b.isLt
    rw [leNat, List.length_cons, Nat.pow_succ']
    omega

theorem pow_256 (n : Nat) : 256 ^ n = 2 ^ (8 * n) := by rw [Nat.pow_mul]

theorem memNat_lt (m : Memory) (a n : Nat) : memNat m a n < 2 ^ (8 * n) := by
  have h := leNat_lt (memRead m a n)
  rwa [memRead_length, pow_256] at h

theorem codeInt_inj {w a b : Nat} (ha : a < 2 ^ w) (hb : b < 2 ^ w) (h : codeInt w a = codeInt w b) : a = b := by
  simp only [codeInt, Nat.mod_eq_of_lt ha, Nat.mod_eq_of_lt hb] at h
  have hcast : ((2 ^ w : Nat) : Int) = (2 : Int) ^ w := by norm_cast
  split at h
  all_goals
    split at h
    all_goals omega

/-- The smaller of two signed values: either where they are one. -/
theorem signedPick_smaller {n m v : Nat} (hm : m < 2 ^ (8 * n)) (hv : v < 2 ^ (8 * n)) :
    signedPick n false m v = if codeInt (8 * n) m ≤ codeInt (8 * n) v then m else v := by
  rcases lt_trichotomy (codeInt (8 * n) m) (codeInt (8 * n) v) with h | h | h
  · simp [signedPick, h, h.le]
  · simp [signedPick, codeInt_inj hm hv h]
  · simp [signedPick, h.le.not_gt, h.not_ge]

theorem signedPick_larger {n m v : Nat} (hm : m < 2 ^ (8 * n)) (hv : v < 2 ^ (8 * n)) :
    signedPick n true m v = if codeInt (8 * n) m ≤ codeInt (8 * n) v then v else m := by
  rcases lt_trichotomy (codeInt (8 * n) m) (codeInt (8 * n) v) with h | h | h
  · simp [signedPick, h, h.le]
  · simp [signedPick, codeInt_inj hm hv h]
  · simp [signedPick, h.le.not_gt, h.not_ge]

/-! ## The words -/

/-- An atomic but ACAS does `atomicBody` with its row's value, of an old value and an operand of its size. -/
structure RowBody (i : Instr) (g d a b : Nat) (z : Option Nat) (mb uns : Bool) (f : Nat → Nat → Nat → Nat → Nat)
    (row : Nat → Nat → Nat) : Prop where
  exec_eq : ∀ s, exec i s = runWord (slotKind mb) (optLen z) g (atomicBody mb uns (atomicSize z) d a b row) s
  value : ∀ m v e, m < 2 ^ (8 * atomicSize z) → v < 2 ^ (8 * atomicSize z) → row m v = f (atomicSize z) m v e

/-- ACAS does `casBody`. -/
structure CasBody (i : Instr) (g d a b : Nat) (z : Option Nat) (mb uns : Bool) (f : Nat → Nat → Nat → Nat → Nat) : Prop where
  cas : i = .acas g d a b z ∨ i = .acasCm g d a b z
  exec_eq : ∀ s, exec i s = runWord (slotKind mb) (optLen z) g (casBody mb (atomicSize z) d a b) s
  signed : uns = false
  value : ∀ n m v e, f n m v e = if m = e then v else m

theorem exec_atomicWord {i : Instr} {g d a b : Nat} {z : Option Nat} {mb uns : Bool} {f : Nat → Nat → Nat → Nat → Nat}
    (h : atomicWord i = some (g, d, a, b, z, mb, uns, f)) :
    (∃ row, RowBody i g d a b z mb uns f row) ∨ CasBody i g d a b z mb uns f := by
  unfold atomicWord at h
  split at h
  case h_15 => cases h
  all_goals cases h
  case h_3 | h_10 => exact .inr ⟨by simp, fun _ => rfl, rfl, fun _ _ _ _ => rfl⟩
  case h_4 | h_11 => exact .inl ⟨_, fun _ => rfl, fun _ _ _ hm hv => signedPick_smaller hm hv⟩
  case h_5 | h_12 => exact .inl ⟨_, fun _ => rfl, fun _ _ _ hm hv => signedPick_larger hm hv⟩
  all_goals exact .inl ⟨_, fun _ => rfl, fun _ _ _ _ _ => rfl⟩

/-- Memory holds `v` in the `n` bytes from `a`; no other byte, no context, task or operation has changed. -/
structure State.Put (s t : State) (a n v : Nat) : Prop where
  ctx : t.ctx = s.ctx
  tasks : t.tasks = s.tasks
  ops : t.ops = s.ops
  value : memNat t.mem a n = v
  outside : ∀ c, (c < a ∨ a + n ≤ c) → memGet t.mem c = memGet s.mem c

theorem State.Put.same (s : State) (a n : Nat) : s.Put s a n (memNat s.mem a n) := ⟨rfl, rfl, rfl, rfl, fun _ _ => rfl⟩

theorem State.Put.store {s : State} (hsound : s.sound = true) (hmem : s.memCanonical) (a n v : Nat) :
    s.Put (s.store a (natLe n v)) a n (v % 2 ^ (8 * n)) := by
  obtain ⟨z, hz⟩ := State.store_of_sound hsound a (natLe n v)
  rw [hz, ← pow_256]
  exact ⟨rfl, rfl, rfl, memNat_memPut a n v hmem, fun c hc => memGet_memPut_outside hmem hc⟩

section Bodies

variable {s : State} {a b : Nat} {mb : Bool} {n o : Nat} (d : Nat) (ha : s.readable a) (hb : s.readable b) (hsound : s.sound = true)
  (haddr : s.slotAddr mb (s.xval a) 0 n = .ok (s.slotRegion mb, o)) (hrace : s.raceCore [] [(s.slotRegion mb).touch o n] = .ok ())

include ha hb hsound haddr hrace

theorem atomicBody_ok (uns : Bool) (row : Nat → Nat → Nat) {p old : Nat} (hp : (s.slotRegion mb).base + o = p)
    (hold : memNat s.mem p n = old) :
    atomicBody mb uns n d a b row s = .ok ((s.store p (natLe n (row old ((s.xval b).toNat % 2 ^ (8 * n))))).wx
      (if mb then 9 else 3) d (extend (!uns) n old)) := by
  subst hp hold
  simp only [atomicBody, State.rx_of_readable ha, State.rx_of_readable hb, haddr, hrace, State.readCheck_of_sound hsound, bind, Except.bind,
    pure, Except.pure]

theorem casBody_ok (hd : s.readable d) {p old : Nat} (hp : (s.slotRegion mb).base + o = p) (hold : memNat s.mem p n = old) :
    casBody mb n d a b s = .ok ((if old = (s.xval d).toNat % 2 ^ (8 * n) then s.store p (natLe n (s.xval b).toNat) else s).wx
      (if mb then 9 else 3) d (extend true n old)) := by
  subst hp hold
  simp only [casBody, State.rx_of_readable ha, State.rx_of_readable hb, State.rx_of_readable hd, haddr, hrace,
    State.readCheck_of_sound hsound, bind, Except.bind, pure, Except.pure]

end Bodies

/-- Settles O31: ACAS stores where it finds Xd (`casBody_ok`), every other atomic stores the value of its row (`atomicBody_ok`). -/
theorem atomicResults : Obligations.AtomicResults := by
  unfold Obligations.AtomicResults
  intro s i g d a b o z mb uns f hi hrun ha hb hd hsound hmem n reg hp halign hin hrace old
  have hn : atomicSize z = n := by simp [atomicSize, n]
  have haddr : s.slotAddr mb (s.xval a) 0 n = .ok (reg, o) :=
    State.slotAddr_ok (by simpa using hp) halign hin
  have hold : old < 2 ^ (8 * n) := memNat_lt ..
  have hv : (s.xval b).toNat % 2 ^ (8 * n) < 2 ^ (8 * n) := Nat.mod_lt _ (by positivity)
  suffices h : ∃ t, exec i s = .next (t.wx (if mb then 9 else 3) d (extend (!uns) n old)).commitOrder ∧ s.Put t (reg.base + o) n
      (f n old ((s.xval b).toNat % 2 ^ (8 * n)) ((s.xval d).toNat % 2 ^ (8 * n)) % 2 ^ (8 * n)) by
    obtain ⟨t, hexec, hput⟩ := h
    refine ⟨t, ?_, hput.ctx, hput.tasks, hput.ops, hput.value, hput.outside⟩
    cases uns
    all_goals exact hexec
  rcases exec_atomicWord hi with ⟨row, hrow⟩ | hcas
  · obtain ⟨hexec, hvalue⟩ := hrow
    rw [hn] at hexec hvalue
    refine ⟨_, exec_access (hexec s) hrun (slotKind_accesses mb) (atomicBody_ok d ha hb hsound haddr hrace uns row rfl rfl), ?_⟩
    rw [← hvalue _ _ _ hold hv]
    exact .store hsound hmem ..
  · obtain ⟨hword, hexec, rfl, hvalue⟩ := hcas
    rw [hn] at hexec
    refine ⟨_, exec_access (hexec s) hrun (slotKind_accesses mb) (casBody_ok d ha hb hsound haddr hrace (hd hword) rfl rfl), ?_⟩
    rw [hvalue]
    split
    · rw [Nat.mod_mod]
      exact .store hsound hmem ..
    · rw [Nat.mod_eq_of_lt hold]
      exact .same ..

end Sys2Proof.Machine
end

section
/-! The issue of operations on counter cells (11 R289 to R292; 07 R183, R186). -/
namespace Sys2Proof.Machine

/-! ## Numbers of two lists -/

theorem mem_union {a b : List Nat} {k : Nat} : k ∈ union a b ↔ k ∈ a ∨ k ∈ b := by
  by_cases h : k ∈ a
  · simp [union, h]
  · simp [union, h]

/-! ## The operand (11 R289) -/

section Operand

variable {s : State} {x : Word} (scope : Nat)

/-- The fields of an operand of at most 16 bits: it is a cell's number, in this module. -/
theorem bits_of_lt_65536 {v : Nat} (h : v < 65536) : bits v 0 16 = v ∧ bits v 16 9 = 0 ∧ bits v 25 1 = 0 ∧ bits v 26 38 = 0 := by
  simp only [bits]
  omega

theorem State.cellOperand_here (h : x.toNat < 65536) (hc : (s.cellAddr s.task.p x.toNat).isSome = true) :
    s.cellOperand x scope = .ok (none, x.toNat) := by
  obtain ⟨hcell, hmodule, hremote, hzero⟩ := bits_of_lt_65536 h
  simp only [State.cellOperand, hcell, hmodule, hremote, hzero, need, hc]
  rfl

theorem State.cellOperand_frameless (h : x.toNat < 65536) (hc : s.cellAddr s.task.p x.toNat = none) :
    s.cellOperand x scope = .error (flt .LS 8) := by
  obtain ⟨hcell, hmodule, hremote, hzero⟩ := bits_of_lt_65536 h
  simp only [State.cellOperand, hcell, hmodule, hremote, hzero, need, hc]
  rfl

theorem State.cellOperand_refused
    (h : 2 ^ 26 ≤ x.toNat ∨ (x.toNat / 2 ^ 25 = 0 ∧ 65536 ≤ x.toNat) ∨ (x.toNat / 2 ^ 25 = 1 ∧ scope < 5)) :
    s.cellOperand x scope = .error (flt .FM 17) := by
  have hx := x.isLt
  have hbad : ¬ (bits x.toNat 26 38 == 0 && (bits x.toNat 25 1 == 1 || bits x.toNat 16 9 == 0) &&
      (!(bits x.toNat 25 1 == 1) || decide (5 ≤ scope))) = true := by
    simp only [bits, Bool.and_eq_true, Bool.or_eq_true, Bool.not_eq_true', beq_eq_false_iff_ne, beq_iff_eq, decide_eq_true_eq]
    omega
  simp only [State.cellOperand, need, if_neg hbad]
  rfl

end Operand

/-! ## The words (11 R291, R292) -/

/-- The word does `counterBody` with an action that reads its operand, and for CCAS Xd. -/
theorem exec_counterWord {i : Instr} {g d a b sc od oo : Nat} {f : Word → Word → CellAct}
    (h : counterWord i = some (g, d, a, b, sc, od, oo, f)) :
    ∃ act, (∀ s, exec i s = runWord .cell 2 g (counterBody d a sc (if od = 1 then some oo else none) act) s) ∧
      ∀ s : State, s.readable b → (i = .ccas g d a b sc od oo → s.readable d) → act s = .ok (f (s.xval b) (s.xval d)) := by
  unfold counterWord at h
  split at h
  case h_7 => cases h
  all_goals
    cases h
    refine ⟨_, fun _ => rfl, fun s hb hd => ?_⟩
  -- CCAS reads Xd as well
  case h_3 =>
    simp only [State.rx_of_readable hb, State.rx_of_readable (hd rfl)]
    rfl
  -- CLD reads no operand
  case h_6 => rfl
  all_goals
    simp only [State.rx_of_readable hb]
    rfl

section Issue

variable {s : State} {d a sc : Nat} {order : Option Nat} {act : State → Except Stop CellAct} {v : CellAct} (ha : s.readable a)
  (hact : act s = .ok v)

include ha hact

/-- The operation under way: it bears no tag, it comes before what the context does next. -/
theorem counterBody_ok (hx : (s.xval a).toNat < 65536) (hc : (s.cellAddr s.task.p (s.xval a).toNat).isSome = true) :
    counterBody d a sc order act s = .ok (((s.addOp none (.counter ⟨none, (s.xval a).toNat, v, sc, order, false, none⟩) []).pastCell
      s.nextOp (order.any (1 ≤ ·))).post 32 (.xReply (physX s.ctx.rrb d) s.nextOp)) := by
  simp only [counterBody, State.rx_of_readable ha, hact, State.cellOperand_here sc hx hc, bind, Except.bind, pure, Except.pure,
    State.pastCell, State.ctx_putCtx]
  rfl

theorem counterBody_stop {e : Stop} (he : s.cellOperand (s.xval a) sc = .error e) : counterBody d a sc order act s = .error e := by
  simp only [counterBody, State.rx_of_readable ha, hact, he, bind, Except.bind]

end Issue

/-- Settles O32: the operand passes or fails as `State.cellOperand_here` and its fellows say; `State.pastCell` orders the operation. -/
theorem counterResults : Obligations.CounterResults := by
  unfold Obligations.CounterResults
  intro s i g d a b sc od oo f hi hrun ha hb hd v
  obtain ⟨act, hexec, hact⟩ := exec_counterWord hi
  refine ⟨fun hv hc => ?_, fun h => ?_, fun hv hc => ?_⟩
  · refine ⟨_, (hexec s).trans (runWord_ok hrun (counterBody_ok ha (hact s hb hd) hv hc)), rfl, rfl, ?_⟩
    rw [State.pastCell, State.ctx_putCtx]
    refine ⟨rfl, mem_union.2 (.inr (List.mem_singleton.2 rfl)), fun h => if_neg ?_, fun hod hoo k hk => ?_, rfl, rfl⟩
    · rcases h with h | h
      · simp [h]
      · by_cases hod : od = 1
        · simp [hod, h]
        · simp [hod]
    · have hrelease : ((if od = 1 then some oo else none).any fun r => decide (1 ≤ r)) = true := by
        simp [hod, Nat.one_le_iff_ne_zero, hoo]
      simp only [hrelease, if_true]
      exact mem_union.2 (.inr hk)
  · exact (hexec s).trans (runWord_stop hrun (counterBody_stop ha (hact s hb hd) (State.cellOperand_refused sc h)))
  · exact (hexec s).trans (runWord_stop hrun (counterBody_stop ha (hact s hb hd) (State.cellOperand_frameless sc hv hc)))

end Sys2Proof.Machine
end

section
/-! Queue stores (11 R298 to R300; 03 R68; 06 R145, R146). -/
namespace Sys2Proof.Machine

/-! ## A packed row (03 R68) -/

theorem storageBits_cases (fmt : Nat) : storageBits fmt = 4 ∨ 8 ∣ storageBits fmt := by
  unfold storageBits
  split
  all_goals decide

theorem length_packRow {sb : Nat} (h : sb = 4 ∨ 8 ∣ sb) (old : Nat) (cs : List Nat) : (packRow sb old cs).length = rowBytes cs.length sb := by
  rcases h with rfl | ⟨k, rfl⟩
  · rw [packRow, if_pos rfl, natLe_length, rowBytes]
    omega
  · by_cases h4 : 8 * k = 4
    · omega
    · have hbits : cs.length * (8 * k) = 8 * (cs.length * k) := by ring
      rw [packRow, if_neg h4, List.length_flatMap, rowBytes, hbits, Nat.mul_div_cancel_left k (by norm_num)]
      simp only [natLe_length, List.map_const', List.sum_replicate, smul_eq_mul]
      omega

/-! ## Rows stored one after another -/

/-- The memory with rows packed a pitch apart from `o`, as `storeRows` stores them. -/
def packRows (base pitch sb : Nat) : Nat → List (List Nat) → Memory → Memory
  | _, [], m => m
  | o, r :: rs, m =>
    packRows base pitch sb (o + pitch) rs
      (memWrite m (base + o) (packRow sb (memGet m (base + o + rowBytes r.length sb - 1)).toNat r))

theorem storeRows_of_sound {s : State} (h : s.sound = true) (base pitch sb o : Nat) (rs : List (List Nat)) :
    ∃ z, storeRows base pitch sb o rs s = s.rewritten (packRows base pitch sb o rs s.mem) z := by
  induction rs generalizing s o with
  | nil => exact ⟨s.sealer, rfl⟩
  | cons r rs ih =>
    obtain ⟨z, hz⟩ := State.store_of_sound h (base + o) (packRow sb (memGet s.mem (base + o + rowBytes r.length sb - 1)).toNat r)
    obtain ⟨z', hz'⟩ := ih (s := s.rewritten _ z) h (o + pitch)
    exact ⟨z', (congrArg (storeRows base pitch sb (o + pitch) rs) hz).trans hz'⟩

section Rows

variable {m : Memory} (hm : Memory.wf m = true) {base pitch sb o n : Nat} {rs : List (List Nat)} (hsb : sb = 4 ∨ 8 ∣ sb)
  (hlen : ∀ r ∈ rs, rowBytes r.length sb = n)

include hm hsb hlen

theorem memGet_packRows_outside {c : Nat}
    (hc : ∀ l < rs.length, c < base + o + l * pitch ∨ base + o + l * pitch + n ≤ c) :
    memGet (packRows base pitch sb o rs m) c = memGet m c := by
  induction rs generalizing m o with
  | nil => rfl
  | cons r rs ih =>
    obtain ⟨hr, hrs⟩ := List.forall_mem_cons.1 hlen
    refine (ih (memWrite_wf _ _ hm) hrs fun l hl => ?_).trans (memGet_memWrite_outside _ hm ?_)
    · have := hc (l + 1) (Nat.succ_lt_succ hl)
      rw [Nat.succ_mul] at this
      omega
    · have := hc 0 (Nat.succ_pos _)
      rw [length_packRow hsb, hr]
      omega

/-- A row no longer than the pitch is read as it was packed; the other nibble of its last byte is that of the memory before. -/
theorem memRead_packRows (hpos : 0 < n) (hfit : n ≤ pitch) {l : Nat} (hl : l < rs.length) :
    memRead (packRows base pitch sb o rs m) (base + o + l * pitch) n =
      packRow sb (memGet m (base + o + l * pitch + n - 1)).toNat (rs.getD l []) := by
  induction rs generalizing m o l with
  | nil => cases hl
  | cons r rs ih =>
    obtain ⟨hr, hrs⟩ := List.forall_mem_cons.1 hlen
    have hlenr (old : Nat) : (packRow sb old r).length = n := (length_packRow hsb old r).trans hr
    cases l with
    | zero =>
      have hread := memRead_memWrite (packRow sb (memGet m (base + o + n - 1)).toNat r) (base + o) hm
      rw [hlenr] at hread
      rw [Nat.zero_mul, Nat.add_zero, packRows, hr]
      refine (memRead_congr fun c hlo hhi => ?_).trans hread
      exact memGet_packRows_outside (memWrite_wf _ _ hm) hsb hrs fun l _ => by omega
    | succ l =>
      have hstep : base + o + (l + 1) * pitch = base + (o + pitch) + l * pitch := by ring
      have hrow := ih (memWrite_wf (packRow sb (memGet m (base + o + rowBytes r.length sb - 1)).toNat r) (base + o) hm) hrs
        (o := o + pitch) (Nat.lt_of_succ_lt_succ hl)
      rw [memGet_memWrite_outside _ hm (by rw [hlenr]; omega)] at hrow
      rw [hstep]
      exact hrow

end Rows

/-! ## QPOPS -/

theorem exec_queueStoreWord {i : Instr} {g q a b : Nat} {skip : Option Nat} {mb : Bool}
    (h : queueStoreWord i = some (g, q, a, b, skip, mb)) :
    ∃ len, ∀ s, exec i s = runWord (slotKindMain mb) len g (qpopsBody mb q a b skip) s := by
  unfold queueStoreWord at h
  split at h
  case h_3 => cases h
  all_goals
    cases h
    exact ⟨_, fun _ => rfl⟩

theorem slotKindMain_accesses (mb : Bool) : (slotKindMain mb).accesses = true := by
  cases mb
  all_goals rfl

theorem State.headSlab_cons {s : State} {q : Nat} {sl : Slab} {rest : List Slab}
    (h : ((s.coreAt s.ctx.core).arr.queues.getD q .empty).slabs = sl :: rest) : s.headSlab q = .ok sl := by
  rw [State.headSlab, h]

theorem State.headSlab_nil {s : State} {q : Nat} (h : ((s.coreAt s.ctx.core).arr.queues.getD q .empty).slabs = []) :
    s.headSlab q = .error (if s.draining s.ctx.core q then .block (.pop q (s.popped q + 1)) else flt .QU 2) := by
  rw [State.headSlab, h]
  dsimp only
  split
  all_goals rfl

/-- Where the SKIP predicate holds (R299). -/
def State.skips (s : State) (skip : Option Nat) : Bool :=
  match skip with
  | some k => s.ctx.pAt k
  | none => false

theorem State.skips_iff {s : State} {skip : Option Nat} : s.skips skip = true ↔ ∃ k, skip = some k ∧ s.ctx.pAt k = true := by
  cases skip
  all_goals simp [State.skips]

section Body

variable {s : State} {q a b : Nat} (mb : Bool) (skip : Option Nat) (ha : s.readable a) (hb : s.readable b)

include ha hb

theorem qpopsBody_misaligned (h : (s.xval a).toNat % 64 ≠ 0 ∨ (s.xval b).toNat % 64 ≠ 0) :
    qpopsBody mb q a b skip s = .error (flt .FM 8) := by
  have halign : ¬ ((s.xval a).toNat % 64 == 0 && (s.xval b).toNat % 64 == 0) = true := by
    rw [Bool.and_eq_true, beq_iff_eq, beq_iff_eq]
    omega
  simp only [qpopsBody, State.rx_of_readable ha, State.rx_of_readable hb, need, if_neg halign, bind, Except.bind]

variable (halign : (s.xval a).toNat % 64 = 0) (hpitch : (s.xval b).toNat % 64 = 0)

include halign hpitch

theorem qpopsBody_empty {e : Stop} (hs : s.headSlab q = .error e) : qpopsBody mb q a b skip s = .error e := by
  simp only [qpopsBody, State.rx_of_readable ha, State.rx_of_readable hb, need, halign, hpitch, beq_self_eq_true, Bool.and_self, if_true,
    hs, bind, Except.bind]

variable {sl : Slab} (hs : s.headSlab q = .ok sl)

include hs

theorem qpopsBody_outside
    (h : ∃ l < sl.nr, (s.slotRegion mb).size < (s.xval a).toNat + l * (s.xval b).toNat + rowBytes sl.nc (storageBits sl.fmt)) :
    qpopsBody mb q a b skip s = .error (flt .LS 3) := by
  have hin : ¬ ((List.range sl.nr).all fun l =>
      decide ((s.xval a).toNat + l * (s.xval b).toNat + rowBytes sl.nc (storageBits sl.fmt) ≤ (s.slotRegion mb).size)) = true := by
    rw [List.all_eq_true]
    obtain ⟨l, hl, hout⟩ := h
    exact fun hall => Nat.not_le.2 hout (of_decide_eq_true (hall l (List.mem_range.2 hl)))
  simp only [qpopsBody, State.rx_of_readable ha, State.rx_of_readable hb, need, halign, hpitch, beq_self_eq_true, Bool.and_self, if_true,
    hs, if_neg hin, bind, Except.bind]

variable (hin : ∀ l < sl.nr, (s.xval a).toNat + l * (s.xval b).toNat + rowBytes sl.nc (storageBits sl.fmt) ≤ (s.slotRegion mb).size)
  (hrace : s.raceCore [] ((List.range sl.nr).map fun l =>
    (s.slotRegion mb).touch ((s.xval a).toNat + l * (s.xval b).toNat) (rowBytes sl.nc (storageBits sl.fmt))) = .ok ())

include hin hrace

/-- Rows that lie in the region: poison is met, or the slab leaves the queue and its rows are stored, but where SKIP holds. -/
theorem qpopsBody_slab : qpopsBody mb q a b skip s =
    if sl.bad then .error (flt .AC 2)
    else if s.skips skip then .ok (s.dropSlabs q 1)
    else .ok (storeRows (s.slotRegion mb).base (s.xval b).toNat (storageBits sl.fmt) (s.xval a).toNat sl.vals (s.dropSlabs q 1)) := by
  have hall : ((List.range sl.nr).all fun l =>
      decide ((s.xval a).toNat + l * (s.xval b).toNat + rowBytes sl.nc (storageBits sl.fmt) ≤ (s.slotRegion mb).size)) = true :=
    List.all_eq_true.2 fun l hl => decide_eq_true (hin l (List.mem_range.1 hl))
  simp only [qpopsBody, State.rx_of_readable ha, State.rx_of_readable hb, need, halign, hpitch, beq_self_eq_true, Bool.and_self, if_true,
    hs, hall, hrace, poisonedSlabs, List.any_cons, List.any_nil, Bool.or_false, bind, Except.bind, pure, Except.pure]
  cases sl.bad
  · rfl
  · rfl

end Body

/-- `t` is what QPOPS leaves of `s` besides memory: the slab is gone, the bundle goes on. -/
structure State.Pops (s t : State) (q : Nat) (rest : List Slab) : Prop where
  ctx : t.ctx = { s.ctx with before := t.ctx.before }
  going : t.bun.stop = none
  ops : t.ops = s.ops
  slabs : ((t.coreAt s.ctx.core).arr.queues.getD q .empty).slabs = rest

theorem State.pops_commitOrder {s : State} {q : Nat} {sl : Slab} {rest : List Slab} (hgoing : s.bun.stop = none)
    (hq : q < (s.coreAt s.ctx.core).arr.queues.length)
    (hs : ((s.coreAt s.ctx.core).arr.queues.getD q .empty).slabs = sl :: rest) (m : Memory) (z : AMap Nat) :
    s.Pops ((s.dropSlabs q 1).rewritten m z).commitOrder q rest := by
  obtain ⟨-, hcores, hops, hbun, hctx, -⟩ := ((s.dropSlabs q 1).rewritten m z).onlyOrders_commitOrder
  refine ⟨hctx, (congrArg Bun.stop hbun).trans hgoing, hops, ?_⟩
  rw [State.coreAt, hcores]
  refine (s.dropSlabs_slabs 1 hq).trans ?_
  rw [hs]
  rfl

/-- Settles O33: QPOPS is `qpopsBody`; the rows it stores are those of `packRows`, which do not meet. -/
theorem queueStoreResults : Obligations.QueueStoreResults := by
  unfold Obligations.QueueStoreResults
  intro s i g q a b skip mb hi hrun ha hb hmem hsound o pitch reg slabs
  obtain ⟨len, hexec⟩ := exec_queueStoreWord hi
  have hstop {e : Stop} (he : qpopsBody mb q a b skip s = .error e) : exec i s = .next (s.stopAt e) :=
    exec_access_stop (hexec s) hrun he
  refine ⟨fun h => hstop (qpopsBody_misaligned mb skip ha hb h), fun ho hpitch => ⟨fun hs hd => ?_, fun hs hd => ?_, ?_⟩⟩
  · have hempty := s.headSlab_nil hs
    rw [if_pos hd] at hempty
    exact hstop (qpopsBody_empty mb skip ha hb ho hpitch hempty)
  · have hempty := s.headSlab_nil hs
    rw [if_neg (Bool.eq_false_iff.1 hd)] at hempty
    exact hstop (qpopsBody_empty mb skip ha hb ho hpitch hempty)
  intro sl rest hs sb n
  have hhead := s.headSlab_cons hs
  refine ⟨fun hout => hstop (qpopsBody_outside mb skip ha hb ho hpitch hhead hout), fun hin hrace => ?_⟩
  have hbody := qpopsBody_slab mb skip ha hb ho hpitch hhead hin hrace
  refine ⟨fun hbad => hstop (hbody.trans (if_pos hbad)), fun hbad hq hrows hcols hpos hfit => ?_⟩
  rw [hbad, if_neg Bool.false_ne_true] at hbody
  have hlen : ∀ r ∈ sl.vals, rowBytes r.length sb = n := fun r hr => congrArg (rowBytes · sb) (hcols r hr)
  by_cases hskip : s.skips skip = true
  · rw [if_pos hskip] at hbody
    obtain ⟨hctx, hgoing, hops, hslabs⟩ := State.pops_commitOrder hrun.going hq hs s.mem s.sealer
    refine ⟨_, exec_access (hexec s) hrun (slotKindMain_accesses mb) hbody, hctx, hgoing, hops, hslabs, fun _ => State.commitOrder_mem _,
      fun hno => ?_⟩
    obtain ⟨k, hk, hp⟩ := State.skips_iff.1 hskip
    exact absurd ((hno k hk).symm.trans hp) Bool.false_ne_true
  · rw [if_neg hskip] at hbody
    obtain ⟨z, hz⟩ := storeRows_of_sound (s := s.dropSlabs q 1) hsound reg.base pitch sb o sl.vals
    rw [hz] at hbody
    obtain ⟨hctx, hgoing, hops, hslabs⟩ := State.pops_commitOrder hrun.going hq hs (packRows reg.base pitch sb o sl.vals s.mem) z
    refine ⟨_, exec_access (hexec s) hrun (slotKindMain_accesses mb) hbody, hctx, hgoing, hops, hslabs, fun hyes => ?_,
      fun _ => ⟨fun l hl => ?_, fun c hc => ?_⟩⟩
    · exact absurd (State.skips_iff.2 hyes) hskip
    · rw [State.commitOrder_mem]
      exact memRead_packRows hmem (storageBits_cases _) hlen hpos hfit (hrows ▸ hl)
    · rw [State.commitOrder_mem]
      exact memGet_packRows_outside hmem (storageBits_cases _) hlen (hrows ▸ hc)

end Sys2Proof.Machine
end

section
/-! Operations in progress: found by number, changed in place, completed (02 R63; 07 R175). -/
namespace Sys2Proof.Machine

/-! ## The list of operations -/

theorem State.id_of_opAt {s : State} {op : Nat} {o : Op} (h : s.opAt op = some o) : o.id = op := by
  simpa using List.find?_some (show s.ops.find? (fun o => o.id == op) = some o from h)

/-- An operation changed in place, but for its number, is found as changed. -/
theorem State.opAt_modOp {s : State} {op : Nat} {o : Op} {f : Op → Op} (hf : ∀ o, (f o).id = o.id) (h : s.opAt op = some o) :
    (s.modOp op f).opAt op = some (f o) := by
  have hid (x : Op) : (if x.id = op then f x else x).id = x.id := by
    split
    · exact hf x
    · rfl
  have hp : ((fun x : Op => x.id == op) ∘ fun x => if x.id = op then f x else x) = fun x : Op => x.id == op :=
    funext fun x => by simp only [Function.comp_apply, hid]
  rw [State.opAt, State.modOp, List.find?_map, hp, show s.ops.find? _ = some o from h, Option.map_some, if_pos (State.id_of_opAt h)]

theorem State.opAt_of_filtered {s t : State} {op : Nat} (h : t.ops = s.ops.filter fun x => x.id != op) : t.opAt op = none := by
  rw [State.opAt, h, List.find?_eq_none]
  intro x hx
  simpa using (List.mem_filter.1 hx).2

/-! ## The end of an operation -/

theorem State.dropLines_fields (s : State) (ms : List Mark) :
    (s.dropLines ms).ctxs = s.ctxs ∧ (s.dropLines ms).tasks = s.tasks := by
  refine List.foldlRecOn (motive := fun t : State => t.ctxs = s.ctxs ∧ t.tasks = s.tasks) _ _ ⟨rfl, rfl⟩ fun t ht m _ => ?_
  split
  · dsimp only
    split
    all_goals exact ht
  · exact ht

/-- What an operation that completes comes after is kept with its task, where a join may ask for it. -/
theorem State.keepDone_fields (s : State) (o : Op) :
    (s.keepDone o).ctxs = s.ctxs ∧ ∃ d, (s.keepDone o).taskAt o.tid = { s.taskAt o.tid with done := d } := by
  unfold State.keepDone
  split
  · exact ⟨rfl, _, rfl⟩
  · split
    · exact ⟨rfl, _, rfl⟩
    · exact ⟨rfl, _, State.taskAt_setTask_self ..⟩

/-- A tag's count falls by one (02 R63). -/
theorem State.tagCount_lowerTag (s : State) (tid core tag : Nat) :
    ((s.lowerTag tid core tag).taskAt tid).tagCount core tag = (s.taskAt tid).tagCount core tag - 1 := by
  rw [State.lowerTag, State.taskAt_setTask_self]
  generalize (s.taskAt tid).tagCount core tag - 1 = n
  by_cases h : n = 0
  · simp [Task.tagCount, h, amGet_amDel_self]
  · simp [Task.tagCount, h, amGet_amSet_self]

theorem State.tagFaults_lowerTag (s : State) (tid core tag : Nat) :
    ((s.lowerTag tid core tag).taskAt tid).tagFaults = (s.taskAt tid).tagFaults := by
  rw [State.lowerTag, State.taskAt_setTask_self]

/-- The state once the operation has left the list, its tag's count apart. -/
def State.dropOp (s : State) (o : Op) : State :=
  { (s.dropLines o.marks).keepDone o with ops := s.ops.filter fun p => p.id != o.id }

theorem State.finishOp_eq (s : State) (o : Op) : s.finishOp o = match o.tag with
    | some t => (s.dropOp o).lowerTag o.tid o.core t
    | none => s.dropOp o := by
  cases h : o.tag
  all_goals
    rw [State.finishOp, h]
    rfl

theorem State.dropOp_ctxs (s : State) (o : Op) : (s.dropOp o).ctxs = s.ctxs :=
  ((s.dropLines o.marks).keepDone_fields o).1.trans (s.dropLines_fields o.marks).1

theorem State.dropOp_taskAt (s : State) (o : Op) : ∃ d, (s.dropOp o).taskAt o.tid = { s.taskAt o.tid with done := d } := by
  obtain ⟨d, hd⟩ := ((s.dropLines o.marks).keepDone_fields o).2
  rw [show (s.dropLines o.marks).taskAt o.tid = s.taskAt o.tid by rw [State.taskAt, (s.dropLines_fields o.marks).2]; rfl] at hd
  exact ⟨d, hd⟩

/-- An operation that completes leaves every context as it is. -/
theorem State.finishOp_ctxs (s : State) (o : Op) : (s.finishOp o).ctxs = s.ctxs := by
  rw [State.finishOp_eq]
  split
  all_goals exact s.dropOp_ctxs o

theorem State.finishOp_ops (s : State) (o : Op) : (s.finishOp o).ops = s.ops.filter fun x => x.id != o.id := by
  rw [State.finishOp_eq]
  split
  all_goals rfl

theorem State.opEnds_finishOp (s : State) (o : Op) : s.opEnds (s.finishOp o) o [] := by
  obtain ⟨d, hd⟩ := s.dropOp_taskAt o
  refine ⟨s.finishOp_ops o, ?_, fun g hg => ?_⟩
  · rw [List.map_nil, List.append_nil, State.finishOp_eq]
    split
    · rw [State.tagFaults_lowerTag, hd]
    · rw [hd]
  · simp only [State.finishOp_eq, hg]
    rw [State.tagCount_lowerTag, hd]
    rfl

theorem State.opAt_finishOp (s : State) {o : Op} {op : Nat} (h : o.id = op) : (s.finishOp o).opAt op = none :=
  State.opAt_of_filtered (h ▸ s.finishOp_ops o)

end Sys2Proof.Machine
end

section
/-! Counter operations performed and answered (11 R289, R291, R292). -/
namespace Sys2Proof.Machine

/-! ## The L2 at an access (22 R464) -/

theorem le_of_mem_linesOf {a n l : Nat} (h : l ∈ linesOf a n) : a / 64 ≤ l := by
  unfold linesOf at h
  split at h
  · cases h
  · obtain ⟨k, -, rfl⟩ := List.mem_map.1 h
    exact Nat.le_add_right ..

/-- The L2 holds lines of HBM alone. -/
theorem State.l2Touch_above_hbm (s : State) (host write : Bool) {a : Nat} (n : Nat) (h : 2 ^ 40 ≤ a) :
    s.l2Touch host write (linesOf a n) = s := by
  have hnone : (linesOf a n).filter (· < 2 ^ 34) = [] := by
    rw [List.filter_eq_nil_iff]
    intro l hl
    have := le_of_mem_linesOf hl
    simp only [decide_eq_true_eq]
    omega
  rw [State.l2Touch, hnone]
  rfl

/-- Where no notice is taken and no error stands in a line, an access counts and moves lines of the L2. -/
theorem State.counted_l2Access {s : State} (hn : s.noNotices) (hl : s.latent = []) (host write : Bool) (line : Nat) :
    s.Counted (s.l2Access host write line) := by
  have hread {u : State} (hu : s.Counted u) (slice k : Nat) : u.readCopy slice k = u := by simp [State.readCopy, hu.latent, hl]
  have hdrop {u : State} (hu : s.Counted u) (slice k : Nat) : u.dropCopy slice k = u := by simp [State.dropCopy, hu.latent, hl]
  have hmove {u : State} (hu : s.Counted u) (host write : Bool) (p k : Nat) : s.Counted (u.lineTransfer host write p k) :=
    hu.trans (State.counted_lineTransfer (hu.noNotices hn) ..)
  have hset {u : State} (hu : s.Counted u) (m : AMap (List L2Line)) : s.Counted { u with l2 := m } := hu.trans ⟨rfl, fun _ => rfl⟩
  have htele {u : State} (hu : s.Counted u) (p k n : Nat) : s.Counted (u.telemetry p k n) := hu.trans (.telemetry ..)
  unfold State.l2Access
  split
  · exact .refl s
  · dsimp only
    split
    · rw [hread (.refl s), ite_self]
      refine htele (hset ?_ _) ..
      split
      · exact hmove (.refl s) ..
      · exact .refl s
    · have hmiss {p : Nat} := htele (.refl s) p 5 1
      split
      · exact hmove hmiss ..
      · split
        · exact hset (hmove hmiss ..) _
        · rename_i v _
          have hback {p : Nat} : s.Counted (if v.dirty = true
              then ((s.telemetry p 5 1).readCopy (homeSlice (line * 128)) v.line).lineTransfer false true v.owner v.line
              else s.telemetry p 5 1) := by
            rw [hread hmiss]
            split
            · exact hmove hmiss ..
            · exact hmiss
          rw [hdrop hback]
          exact hset (hmove hback ..) _

theorem State.counted_l2Touch {s : State} (hn : s.noNotices) (hl : s.latent = []) (host write : Bool) (ls : List Nat) :
    s.Counted (s.l2Touch host write ls) := by
  refine List.foldlRecOn (motive := s.Counted) _ _ (.refl s) fun u hu l _ => ?_
  exact hu.trans (State.counted_l2Access (hu.noNotices hn) (hu.latent.trans hl) ..)

/-! ## The new value of a cell (11 R291) -/

theorem minS_eq (m v : Word) : minS m v = BitVec.ofInt 64 (min m.toInt v.toInt) := by
  by_cases h : m.toInt < v.toInt
  · simp [minS, BitVec.slt, h, min_eq_left h.le]
  · simp [minS, BitVec.slt, h, min_eq_right (not_lt.1 h)]

theorem maxS_eq (m v : Word) : maxS m v = BitVec.ofInt 64 (max m.toInt v.toInt) := by
  by_cases h : m.toInt < v.toInt
  · simp [maxS, BitVec.slt, h, max_eq_right h.le]
  · simp [maxS, BitVec.slt, h, max_eq_left (not_lt.1 h)]

/-! ## The operation at its cell -/

/-- The old value of a cell. -/
def cellValue (m : Memory) (a : Nat) : Word := BitVec.ofNat 64 (memNat m a 8)

theorem toNat_cellValue (m : Memory) (a : Nat) : (cellValue m a).toNat = memNat m a 8 := by
  rw [cellValue, BitVec.toNat_ofNat, Nat.mod_eq_of_lt (memNat_lt m a 8)]

/-- The state once the operation has accessed its cell and written what is new. -/
def State.cellStep (s : State) (o : Op) (a : Nat) (new : Word) : State :=
  let u := (s.actFor o).l2Touch false (new != cellValue s.mem a) (linesOf a 8)
  if new = cellValue s.mem a then u else u.store a (natLe 8 new.toNat)

section CellStep

variable (s : State) (o : Op) (a : Nat) (new : Word)

/-- The access is notes on the side; the write is of eight bytes. -/
theorem State.cellStep_cases : ∃ u : State, (s.actFor o).Notes u ∧
    ((new = cellValue s.mem a ∧ s.cellStep o a new = u ∧ (2 ^ 40 ≤ a → u.mem = s.mem)) ∨
      s.cellStep o a new = { u with mem := memPut u.mem a 8 new.toNat }) := by
  have htouch := State.Notes.l2Touch (s.actFor o) false (new != cellValue s.mem a) (linesOf a 8)
  by_cases h : new = cellValue s.mem a
  · exact ⟨_, htouch, .inl ⟨h, if_pos h, fun ha => by rw [State.l2Touch_above_hbm _ _ _ _ ha]; rfl⟩⟩
  · obtain ⟨u, hu, hstore⟩ := State.store_eq_notes ((s.actFor o).l2Touch false (new != cellValue s.mem a) (linesOf a 8)) a
      (natLe 8 new.toNat)
    exact ⟨u, htouch.trans hu, .inr ((if_neg h).trans hstore)⟩

theorem State.cellStep_core : (s.cellStep o a new).ctxs = s.ctxs ∧ (s.cellStep o a new).ops = s.ops := by
  obtain ⟨u, hu, ⟨-, hstep, -⟩ | hstep⟩ := s.cellStep_cases o a new
  all_goals
    obtain ⟨-, hctxs, -, -, hops, -⟩ := hu.core
    rw [hstep]
    exact ⟨hctxs, hops⟩

variable {s} (hmem : s.memCanonical)

include hmem

theorem State.cellStep_value : memNat (s.cellStep o a new).mem a 8 = new.toNat := by
  obtain ⟨u, hu, ⟨hnew, hstep, hfar⟩ | hstep⟩ := s.cellStep_cases o a new
  · rw [hstep, hnew, toNat_cellValue]
    by_cases ha : 2 ^ 40 ≤ a
    · rw [hfar ha]
    · refine memNat_congr fun c _ hc => hu.bytes hmem c ?_
      unfold hostAddr
      omega
  · rw [hstep]
    exact (memNat_memPut a 8 _ (hu.wf hmem)).trans (Nat.mod_eq_of_lt new.isLt)

theorem State.cellStep_outside (hsound : s.sound = true) {b : Nat} (hb : b < a ∨ a + 8 ≤ b) (hhost : b < hostAddr 0 ∨ s.noNotices) :
    memGet (s.cellStep o a new).mem b = memGet s.mem b := by
  rcases hhost with hlow | hn
  · obtain ⟨u, hu, ⟨-, hstep, -⟩ | hstep⟩ := s.cellStep_cases o a new
    · rw [hstep]
      exact hu.bytes hmem b hlow
    · rw [hstep]
      exact (memGet_memPut_outside (hu.wf hmem) hb).trans (hu.bytes hmem b hlow)
  · have hc := State.counted_l2Touch (s := s.actFor o) hn (State.latent_of_sound hsound) false (new != cellValue s.mem a) (linesOf a 8)
    unfold State.cellStep
    dsimp only
    split
    · rw [hc.mem]
      rfl
    · obtain ⟨z, hz⟩ := State.store_of_sound (s := (s.actFor o).l2Touch false (new != cellValue s.mem a) (linesOf a 8))
        (by rw [hc.eq]; exact hsound) a (natLe 8 new.toNat)
      rw [hz, hc.mem]
      exact memGet_memPut_outside hmem hb

end CellStep

end Sys2Proof.Machine
end

section
/-! The steps of a counter operation: it performs, its reply arrives, its target cannot be reached (11 R289 to R292). -/
namespace Sys2Proof.Machine

/-- A counter operation as it stands once it has performed with the old value `m`. -/
def CounterCmd.done (c : CounterCmd) (m : Word) (o : Op) : Op := { o with kind := .counter { c with performed := true, reply := some m } }

/-- An earlier operation, or what it releases, holds a counter operation back (R292). -/
def State.cellHeld (s : State) (o : Op) (c : CounterCmd) : Bool := s.heldBack o (OpKind.onCell c.module c.cell) (c.order.any (1 ≤ ·))

/-- The new value, by the table of R291. -/
theorem cellAct_apply_eq (act : CellAct) (m : Word) : act.apply m = match act with
    | .add v => m + v
    | .swap v => v
    | .cas e v => if m = e then v else m
    | .min v => BitVec.ofInt 64 (min m.toInt v.toInt)
    | .max v => BitVec.ofInt 64 (max m.toInt v.toInt)
    | .load => m := by
  cases act
  case min v => exact minS_eq m v
  case max v => exact maxS_eq m v
  all_goals rfl

section Steps

variable {s : State} {op : Nat} {o : Op} {c : CounterCmd} (h : s.opAt op = some o) (hk : o.kind = .counter c)

include h hk

theorem exec_counterOperationPerform {a : Nat} (hp : c.performed = false) (hheld : s.cellHeld o c = false) (hm : c.module = none)
    (ha : s.cellAddr (s.taskAt o.tid).p c.cell = some a) :
    exec (.counterOperationPerform op) s =
      .next ((s.cellStep o a (c.act.apply (cellValue s.mem a))).modOp op (c.done (cellValue s.mem a))) := by
  obtain ⟨module, cell, act, scope, order, performed, reply⟩ := c
  obtain rfl : module = none := hm
  have hgo : ¬ (performed || s.heldBack o (OpKind.onCell none cell) (order.any (1 ≤ ·))) = true :=
    Bool.eq_false_iff.1 (Bool.or_eq_false_iff.2 ⟨hp, hheld⟩)
  refine (show exec (.counterOperationPerform op) s = execCounterOperationPerform op s from rfl).trans ?_
  simp only [execCounterOperationPerform, h, hk, if_neg hgo, ha]
  rfl

theorem exec_counterOperationPerform_stop (hstop : c.performed = true ∨ s.cellHeld o c = true) :
    exec (.counterOperationPerform op) s = .fault (.notEnabled "COUNTER_OPERATION_PERFORM") := by
  have hno : (c.performed || s.heldBack o (OpKind.onCell c.module c.cell) (c.order.any (1 ≤ ·))) = true := Bool.or_eq_true_iff.2 hstop
  refine (show exec (.counterOperationPerform op) s = execCounterOperationPerform op s from rfl).trans ?_
  simp only [execCounterOperationPerform, h, hk, if_pos hno, notNow]

theorem exec_counterReplyArrival {v : Word} (hr : c.reply = some v) :
    exec (.counterReplyArrival op) s = .next ((s.setCtx o.cid ((s.ctxAt o.cid).deliver op v)).finishOp o) := by
  refine (show exec (.counterReplyArrival op) s = execCounterReplyArrival op s from rfl).trans ?_
  simp only [execCounterReplyArrival, h, hk, hr]

theorem exec_remoteTargetUnreachable (hm : c.module.isSome = true) (hr : c.reply = none) :
    exec (.remoteTargetUnreachable op) s = .next ((s.finishOp o).endTask o.tid { cls := .FB, num := 3 }) := by
  refine (show exec (.remoteTargetUnreachable op) s = execRemoteTargetUnreachable op s from rfl).trans ?_
  simp only [execRemoteTargetUnreachable, h, hk, hm, hr, Option.isNone_none, Bool.and_self, if_true]

end Steps

/-- What is said of counter operations (11 R291, R292). -/
theorem counterSteps {s : State} {op : Nat} {o : Op} {c : CounterCmd} (h : s.opAt op = some o) (hk : o.kind = .counter c)
    (hmem : s.memCanonical) :
    (c.performed = false → s.cellHeld o c = false → c.module = none →
      ∀ a, s.cellAddr (s.taskAt o.tid).p c.cell = some a → s.sound = true →
      ∃ t : State, exec (.counterOperationPerform op) s = .next t ∧
        memNat t.mem a 8 = (c.act.apply (cellValue s.mem a)).toNat ∧ t.ctxs = s.ctxs ∧
        (∀ b, (b < a ∨ a + 8 ≤ b) → b < hostAddr 0 ∨ s.noNotices → memGet t.mem b = memGet s.mem b) ∧
        ∃ o' c', t.opAt op = some o' ∧ o'.kind = .counter c' ∧ c'.performed = true ∧ c'.reply = some (cellValue s.mem a)) ∧
    (c.performed = true ∨ s.cellHeld o c = true →
      exec (.counterOperationPerform op) s = .fault (.notEnabled "COUNTER_OPERATION_PERFORM")) ∧
    (∀ v, c.reply = some v → ∃ t : State, exec (.counterReplyArrival op) s = .next t ∧ t.mem = s.mem ∧ t.opAt op = none ∧
      t.ctxAt o.cid = (s.ctxAt o.cid).deliver op v) ∧
    (c.module.isSome = true → c.reply = none → ∃ t : State, exec (.remoteTargetUnreachable op) s = .next t ∧ t.opAt op = none ∧
      (t.taskAt o.tid).state = .ending) := by
  have hid := State.id_of_opAt h
  refine ⟨fun hp hheld hm a ha hsound => ?_, exec_counterOperationPerform_stop h hk, fun v hr => ?_, fun hm hr => ?_⟩
  · obtain ⟨hctxs, hops⟩ := s.cellStep_core o a (c.act.apply (cellValue s.mem a))
    have hat : (s.cellStep o a (c.act.apply (cellValue s.mem a))).opAt op = some o := by rwa [State.opAt, hops]
    exact ⟨_, exec_counterOperationPerform h hk hp hheld hm ha, State.cellStep_value o a _ hmem, hctxs,
      fun b hb hhost => State.cellStep_outside o a _ hmem hsound hb hhost,
      _, _, State.opAt_modOp (fun _ => rfl) hat, rfl, rfl, rfl⟩
  · refine ⟨_, exec_counterReplyArrival h hk hr, State.finishOp_mem .., State.opAt_finishOp _ hid, ?_⟩
    rw [State.ctxAt, State.finishOp_ctxs]
    exact State.ctxAt_setCtx_self ..
  · exact ⟨_, exec_remoteTargetUnreachable h hk hm hr, State.opAt_finishOp s hid,
      congrArg Task.state (State.taskAt_setTask_self ..)⟩

end Sys2Proof.Machine
end

section
/-! Graph counters read and lowered, and the node dispatched as its counter falls to 0 (13 R340; 20 R434). -/
namespace Sys2Proof.Machine

/-! ## What is due (20 R434) -/

/-- The instance with counter `c` lowered by `k`, not below 0. -/
def GraphInst.lowered (i : GraphInst) (c k : Nat) : GraphInst :=
  { i with counters := i.counters.set c (i.counters.getD c 0 - min k (i.counters.getD c 0)) }

theorem GraphInst.due_eq_nil {i : GraphInst} (hf : i.faulted = false) :
    i.due = [] ↔ ∀ n < i.counters.length, i.counters.getD n 1 = 0 → n ∈ i.dispatched := by
  simp [GraphInst.due, hf]

theorem GraphInst.lowered_getD_of_ne (i : GraphInst) {c n : Nat} (k : Nat) (h : n ≠ c) :
    (i.lowered c k).counters.getD n 1 = i.counters.getD n 1 := by
  simp [GraphInst.lowered, List.getD, h.symm]

theorem GraphInst.lowered_getD_self (i : GraphInst) {c : Nat} (k : Nat) (h : c < i.counters.length) :
    (i.lowered c k).counters.getD c 1 = i.counters.getD c 0 - min k (i.counters.getD c 0) := by
  simp [GraphInst.lowered, List.getD, h]

theorem GraphInst.lt_of_counter_pos {i : GraphInst} {c : Nat} (h : 0 < i.counters.getD c 0) : c < i.counters.length := by
  by_contra hle
  rw [List.getD_eq_default _ _ (not_lt.1 hle)] at h
  exact h.false

theorem GraphInst.length_lowered (i : GraphInst) (c k : Nat) : (i.lowered c k).counters.length = i.counters.length := List.length_set

/-- A counter that does not reach 0 makes nothing due. -/
theorem GraphInst.due_lowered_of_lt {i : GraphInst} {c k : Nat} (h : k < i.counters.getD c 0) (hd : i.due = []) :
    (i.lowered c k).due = [] := by
  by_cases hf : i.faulted = true
  · exact if_pos hf
  · have hf' : i.faulted = false := Bool.eq_false_iff.2 hf
    refine (GraphInst.due_eq_nil (i := i.lowered c k) hf').2 fun n hn hzero => ?_
    rw [GraphInst.length_lowered] at hn
    by_cases hnc : n = c
    · subst hnc
      rw [i.lowered_getD_self k hn] at hzero
      omega
    · rw [i.lowered_getD_of_ne k hnc] at hzero
      exact (GraphInst.due_eq_nil hf').1 hd n hn hzero

/-- A counter that falls to 0 makes its own node due. -/
theorem GraphInst.due_lowered_to_zero {i : GraphInst} {c k : Nat} (hpos : 0 < i.counters.getD c 0) (hk : i.counters.getD c 0 ≤ k)
    (hf : i.faulted = false) (hc : c ∉ i.dispatched) (hd : i.due = []) : (i.lowered c k).due = [c] := by
  have hlen := GraphInst.lt_of_counter_pos hpos
  have hdue (n : Nat) (hn : n ∈ List.range (i.lowered c k).counters.length) :
      ((i.lowered c k).counters.getD n 1 == 0 && !(i.lowered c k).dispatched.contains n) = (n == c) := by
    rw [List.mem_range, GraphInst.length_lowered] at hn
    by_cases hnc : n = c
    · subst hnc
      have hnot : (i.lowered n k).dispatched.contains n = false := by
        rw [List.contains_eq_mem]
        exact decide_eq_false hc
      rw [i.lowered_getD_self k hn, min_eq_right hk, Nat.sub_self, hnot]
      simp
    · rw [i.lowered_getD_of_ne k hnc, beq_eq_false_iff_ne.2 hnc, Bool.and_eq_false_iff]
      by_cases hzero : i.counters.getD n 1 = 0
      · have := (GraphInst.due_eq_nil hf).1 hd n hn hzero
        exact .inr (by simpa [GraphInst.lowered] using this)
      · exact .inl (beq_eq_false_iff_ne.2 hzero)
  have hf' : ¬ (i.lowered c k).faulted = true := Bool.eq_false_iff.1 hf
  rw [GraphInst.due, if_neg hf', List.filter_congr hdue, List.filter_beq, GraphInst.length_lowered,
    List.count_eq_one_of_mem List.nodup_range (List.mem_range.2 hlen), List.replicate_one]

/-! ## Instances run (20 R434, R435) -/

/-- An instance that waits for a node is not settled. -/
theorem State.settleInst_waiting {s : State} {k : Nat} {i : GraphInst} (hi : amGet s.insts k = some i)
    (hn : ∃ n ∈ i.dispatched, n ∉ i.finished) : s.settleInst k = s := by
  have hall : ¬ (i.due.isEmpty && i.dispatched.all i.finished.contains) = true := by
    obtain ⟨n, hmem, hfin⟩ := hn
    rw [Bool.and_eq_true, List.all_eq_true]
    exact fun h => hfin (by simpa using h.2 n hmem)
  simp only [State.settleInst, hi, if_neg hall]

/-- With nothing due it stays as it is. -/
theorem State.runInst_waiting {s : State} {k : Nat} {i : GraphInst} (hi : amGet s.insts k = some i) (hd : i.due = [])
    (hn : ∃ n ∈ i.dispatched, n ∉ i.finished) : s.runInst k = s := by
  simp only [State.runInst, hi, hd, List.foldl_nil, State.settleInst_waiting hi hn]

/-- A task of a paddock and an origin that waits for its leases or has been refused. -/
def Task.arriving (t : Task) (p : Nat) (origin : Origin) : Prop :=
  t.p = p ∧ t.origin = origin ∧ (t.state = .waitLeases ∨ t.state = .ending)

theorem Task.arriving.refused {t : Task} {p : Nat} {origin : Origin} (h : t.arriving p origin) (c : FaultClass) (n : Nat) :
    (t.refused c n).arriving p origin := ⟨h.1, h.2.1, .inr rfl⟩

theorem Task.arriving.ite {t t' : Task} {p : Nat} {origin : Origin} {c : Prop} [Decidable c] (h : t.arriving p origin)
    (h' : t'.arriving p origin) : (if c then t else t').arriving p origin := by
  split
  · exact h
  · exact h'

/-- What a record starts: a task that arrives under the next number; memory, operations and instances are left as they are. -/
structure State.Starts (s t : State) (p : Nat) (origin : Origin) : Prop where
  mem : t.mem = s.mem
  ops : t.ops = s.ops
  insts : t.insts = s.insts
  task : ∃ w, amGet t.tasks s.nextTid = some w ∧ w.arriving p origin

theorem State.starts_arrive (s : State) {t : Task} {p : Nat} {origin : Origin} (h : t.arriving p origin) :
    s.Starts (s.arrive t).1 p origin := ⟨rfl, rfl, rfl, _, amGet_amSet_self .., h⟩

theorem State.starts_arriveCopy (s : State) {t : Task} {p : Nat} {origin : Origin} (h : t.arriving p origin) :
    s.Starts (s.arriveCopy t) p origin := ⟨rfl, rfl, rfl, _, amGet_amSet_self .., h⟩

theorem State.starts_startRecord (s : State) (p : Nat) (origin : Origin) (r desc : List Byte) :
    s.Starts (s.startRecord p origin r desc).1 p origin := by
  unfold State.startRecord
  split
  · refine State.starts_arriveCopy s ?_
    split
    · exact ⟨rfl, rfl, .inr rfl⟩
    · exact ⟨rfl, rfl, .inl rfl⟩
  · refine State.starts_arrive s (.ite (.refused ?_ ..) (.ite (.refused ?_ ..) ?_))
    all_goals exact ⟨rfl, rfl, .inl rfl⟩

/-- The one node that is due is dispatched, and the instance waits for it. -/
theorem State.runInst_one {s : State} {k n : Nat} {i : GraphInst} {v : GraphVer} {nd : GraphNode} (hi : amGet s.insts k = some i)
    (hd : i.due = [n]) (hv : s.graphVer i.p i.handle i.version = some v) (hnd : v.nodes[n]? = some nd) (hn : n ∉ i.finished) :
    s.runInst k = (State.startRecord { s with insts := amSet s.insts k { i with dispatched := n :: i.dispatched } } i.p (.node k n)
      nd.record nd.desc).1 := by
  have hdispatch : s.dispatchNode k n = (State.startRecord
      { s with insts := amSet s.insts k { i with dispatched := n :: i.dispatched } } i.p (.node k n) nd.record nd.desc).1 := by
    simp only [State.dispatchNode, hi, hv, Option.bind_some, hnd]
  have hat : amGet (s.dispatchNode k n).insts k = some { i with dispatched := n :: i.dispatched } := by
    rw [hdispatch, (State.starts_startRecord ..).insts]
    exact amGet_amSet_self ..
  rw [← hdispatch]
  simp only [State.runInst, hi, hd, List.foldl_cons, List.foldl_nil]
  exact State.settleInst_waiting hat ⟨n, List.mem_cons_self, hn⟩

end Sys2Proof.Machine
end

section
/-! The step of a graph counter (13 R340; 20 R434). -/
namespace Sys2Proof.Machine

/-- A graph operation as it stands once it has performed with the old value `m`. -/
def GraphCmd.done (g : GraphCmd) (m : Word) (o : Op) : Op := { o with kind := .graph { g with performed := true, reply := some m } }

theorem State.lowerCounter_eq {s : State} {k : Nat} {i : GraphInst} (hi : amGet s.insts k = some i) (c n : Nat) :
    s.lowerCounter k c n = ({ s with insts := amSet s.insts k (i.lowered c n) }, i.counters.getD c 0) := by
  simp only [State.lowerCounter, hi]
  rfl

theorem State.lowerCounter_fields (s : State) (k c n : Nat) :
    (s.lowerCounter k c n).1.mem = s.mem ∧ (s.lowerCounter k c n).1.ops = s.ops := by
  unfold State.lowerCounter
  split
  all_goals exact ⟨rfl, rfl⟩

/-- The state with the counter lowered by `k` and the operation performed. -/
def State.graphStep (s : State) (op : Nat) (g : GraphCmd) (i : GraphInst) (k : Nat) : State :=
  State.modOp { s with insts := amSet s.insts g.inst (i.lowered g.c k) } op (g.done (BitVec.ofNat 64 (i.counters.getD g.c 0)))

section Steps

variable {s : State} {op : Nat} {o : Op} {g : GraphCmd} (h : s.opAt op = some o) (hk : o.kind = .graph g) (hp : g.performed = false)
  (hheld : s.heldBack o (OpKind.onCounter g.inst g.c) false = false)

include h hk hp hheld

theorem exec_graphCounterDecrement {u : State} {old : Nat} (hlow : s.lowerCounter g.inst g.c (g.amount.getD 0) = (u, old)) :
    exec (.graphCounterDecrement op) s = .next (if g.amount.isSome && old != 0
      then (u.modOp op (g.done (BitVec.ofNat 64 old))).runInst g.inst else u.modOp op (g.done (BitVec.ofNat 64 old))) := by
  have hgo : ¬ (g.performed || s.heldBack o (OpKind.onCounter g.inst g.c) false) = true :=
    Bool.eq_false_iff.1 (Bool.or_eq_false_iff.2 ⟨hp, hheld⟩)
  refine (show exec (.graphCounterDecrement op) s = execGraphCounterDecrement op s from rfl).trans ?_
  simp only [execGraphCounterDecrement, h, hk, if_neg hgo, hlow]
  rfl

/-- GREAD answers the counter and lowers nothing. -/
theorem graphRead (ha : g.amount = none) : ∃ t : State, exec (.graphCounterDecrement op) s = .next t ∧ t.mem = s.mem ∧
    ∀ i, amGet s.insts g.inst = some i → ∃ o' g', t.opAt op = some o' ∧ o'.kind = .graph g' ∧
      g'.reply = some (BitVec.ofNat 64 (i.counters.getD g.c 0)) := by
  obtain ⟨u, old, hlow⟩ : ∃ u old, s.lowerCounter g.inst g.c 0 = (u, old) := ⟨_, _, rfl⟩
  obtain ⟨hmem, hops⟩ := s.lowerCounter_fields g.inst g.c 0
  simp only [hlow] at hmem hops
  have hexec := exec_graphCounterDecrement h hk hp hheld (u := u) (old := old) (by rw [ha]; exact hlow)
  rw [ha, Option.isSome_none, Bool.false_and, if_neg Bool.false_ne_true] at hexec
  refine ⟨_, hexec, hmem, fun i hi => ⟨_, _, State.opAt_modOp (fun _ => rfl) (o := o) ?_, rfl, ?_⟩⟩
  · rwa [State.opAt, hops]
  · rw [State.lowerCounter_eq hi] at hlow
    exact congrArg (fun n => some (BitVec.ofNat 64 n)) (congrArg Prod.snd hlow).symm

variable {k : Nat} {i : GraphInst} (ha : g.amount = some k) (hi : amGet s.insts g.inst = some i)

include ha hi

theorem exec_graphLower : exec (.graphCounterDecrement op) s = .next (if i.counters.getD g.c 0 = 0
    then s.graphStep op g i k else (s.graphStep op g i k).runInst g.inst) := by
  have hexec := exec_graphCounterDecrement h hk hp hheld (State.lowerCounter_eq hi g.c (g.amount.getD 0))
  rw [ha, Option.isSome_some, Bool.true_and, Option.getD_some] at hexec
  refine hexec.trans (congrArg Host.Outcome.next ?_)
  by_cases hold : i.counters.getD g.c 0 = 0
  · rw [if_pos hold, if_neg (by rw [hold]; decide)]
    rfl
  · rw [if_neg hold, if_pos (bne_iff_ne.2 hold)]
    rfl

omit h hk hp hheld ha hi in
theorem State.insts_graphStep : amGet (s.graphStep op g i k).insts g.inst = some (i.lowered g.c k) := amGet_amSet_self ..

/-- GDEC on a counter of 0, or one that stays above 0 while the instance waits for a node, lowers and does no more. -/
theorem graphLower_stays (hstay : i.counters.getD g.c 0 = 0 ∨
    (k < i.counters.getD g.c 0 ∧ i.due = [] ∧ ∃ n ∈ i.dispatched, n ∉ i.finished)) :
    exec (.graphCounterDecrement op) s = .next (s.graphStep op g i k) := by
  rw [exec_graphLower h hk hp hheld ha hi]
  rcases hstay with hold | ⟨hlt, hd, hn⟩
  · rw [if_pos hold]
  · rw [if_neg (Nat.ne_of_gt (Nat.zero_lt_of_lt hlt)),
      State.runInst_waiting State.insts_graphStep (GraphInst.due_lowered_of_lt hlt hd) hn]

/-- GDEC that brings a counter to 0 dispatches its node. -/
theorem graphLower_dispatches (hpos : 0 < i.counters.getD g.c 0) (hle : i.counters.getD g.c 0 ≤ k) (hf : i.faulted = false)
    (hdisp : g.c ∉ i.dispatched) (hfin : g.c ∉ i.finished) (hd : i.due = []) {v : GraphVer} {nd : GraphNode}
    (hv : s.graphVer i.p i.handle i.version = some v) (hnd : v.nodes[g.c]? = some nd) :
    ∃ t : State, exec (.graphCounterDecrement op) s = .next t ∧ t.mem = s.mem ∧ t.opAt op = (s.graphStep op g i k).opAt op ∧
      amGet t.insts g.inst = some { i.lowered g.c k with dispatched := g.c :: i.dispatched } ∧
      ∃ w, amGet t.tasks s.nextTid = some w ∧ w.p = i.p ∧ w.origin = .node g.inst g.c ∧
        (w.state = .waitLeases ∨ w.state = .ending) := by
  have hexec := exec_graphLower h hk hp hheld ha hi
  rw [if_neg (Nat.ne_of_gt hpos), State.runInst_one State.insts_graphStep (GraphInst.due_lowered_to_zero hpos hle hf hdisp hd)
    (v := v) hv hnd hfin] at hexec
  obtain ⟨hmem, hops, hinsts, htask⟩ := State.starts_startRecord
    { s.graphStep op g i k with
      insts := amSet (s.graphStep op g i k).insts g.inst { i.lowered g.c k with dispatched := g.c :: i.dispatched } }
    i.p (.node g.inst g.c) nd.record nd.desc
  refine ⟨_, hexec, hmem, congrArg (fun l : List Op => l.find? fun x : Op => x.id == op) hops, ?_, htask⟩
  exact (congrArg (amGet · g.inst) hinsts).trans (amGet_amSet_self ..)

end Steps

end Sys2Proof.Machine
end

section
/-! Rows, payloads and hand-offs that land, and the waits for them (06 R169; 13 R344 to R349). -/
namespace Sys2Proof.Machine

/-! ## Rows of DSEND, and the waits of DFLUSH and DRECV -/

/-- The oldest row of a context lands, and leaves the queue. -/
theorem exec_dispatchRowLanding {s : State} {x : Send} {rest : List Send} (hs : s.sends = x :: rest)
    (hbefore : s.sendsBefore (s.batchCid x.batch) x.op = false)
    (hfirst : ∀ y ∈ rest, s.batchCid y.batch = s.batchCid x.batch → x.op ≤ y.op) :
    exec (.dispatchRowLanding x.op) s =
      .next (({ s with sends := rest }.actDispatch (s.ctxAt (s.batchCid x.batch)).core (s.batchCid x.batch / 32)).landSend
        (s.taskAt (s.batchCid x.batch / 32)).p x) := by
  have htake : takeFirst (fun y : Send => y.op == x.op) s.sends = some (x, rest) := by rw [hs, takeFirst, if_pos (beq_self_eq_true _)]
  have hnone : (s.sends.any fun y => s.batchCid y.batch == s.batchCid x.batch && y.op < x.op) = false := by
    rw [List.any_eq_false, hs]
    intro y hy hlt
    obtain ⟨hcid, hop⟩ := Bool.and_eq_true_iff.1 hlt
    rcases List.mem_cons.1 hy with rfl | hy
    · exact Nat.lt_irrefl _ (of_decide_eq_true hop)
    · exact Nat.not_lt.2 (hfirst y hy (eq_of_beq hcid)) (of_decide_eq_true hop)
  refine (show exec (.dispatchRowLanding x.op) s = execDispatchRowLanding x.op s from rfl).trans ?_
  simp only [execDispatchRowLanding, htake, hbefore, hnone, Bool.or_self, Bool.false_eq_true, if_false]

section Waits

variable {s : State} {op : Nat} {o : Op} (h : s.opAt op = some o)

include h

/-- DFLUSH completes where nothing of its batch is left. -/
theorem exec_dflushCompletion {n : Nat} (hk : o.kind = .dflush n) (hsends : s.sends = []) (hbatch : amGet s.batches n = none)
    (hopen : ∀ e ∈ s.ops, ∀ b r f m x, e.kind ≠ .dsend b r f m n x) (hheld : s.heldBack o (fun _ => true) true = false) :
    exec (.dflushCompletion op) s = .next (s.finishOp o) := by
  refine (show exec (.dflushCompletion op) s = execDflushCompletion op s from rfl).trans ?_
  simp only [execDflushCompletion, h, hk, hsends, hbatch, hheld, List.any_nil, Bool.or_false]
  refine if_neg fun hany => ?_
  obtain ⟨e, he, hsend⟩ := List.any_eq_true.1 hany
  split at hsend
  · rename_i b r f m _ x hke
    exact hopen e he b r f m x (eq_of_beq hsend ▸ hke)
  · exact Bool.false_ne_true hsend

/-- DRECV completes once its cell holds the bound. -/
theorem exec_dispatchWaitCompletion {cell a : Nat} {bound : Word} (hk : o.kind = .drecv cell none bound)
    (ha : s.cellAddr (s.taskAt o.tid).p cell = some a) (hheld : s.heldBack o (OpKind.onCell none cell) false = false) :
    exec (.dispatchWaitCompletion op) s =
      if bound.toNat ≤ memNat s.mem a 8 then .next (((s.actDispatch o.core o.tid).l2Touch false false (linesOf a 8)).finishOp o)
      else .fault (.notEnabled "DISPATCH_WAIT_COMPLETION") := by
  refine (show exec (.dispatchWaitCompletion op) s = execDispatchWaitCompletion op s from rfl).trans ?_
  simp only [execDispatchWaitCompletion, h, hk, ha, hheld, Bool.false_eq_true, if_false, notNow]

end Waits

/-! ## Payloads (13 R348) -/

/-- A payload whose word is the expectation is no fault. -/
theorem payloadFault_self (w : Word) : payloadFault w w = none := by
  simp [payloadFault, wordClash]

theorem State.receive_lands {s : State} {r : Op} {n : Nat} {w : Word} (bs : List Byte) (past : List Nat)
    (hmet : s.landingMet r.tid r.id ((layOf w).touch r.cid n) = none) (hsound : s.sound = true) :
    s.opEnds (s.receive r n w w bs past) r [] ∧
      (s.receive r n w w bs past).mem = memWrite s.mem (tileAddr r.cid n 0) (bs.take (layOf w).size) := by
  have hmet' : (s.actFor r).landingMet r.tid r.id ((layOf w).touch r.cid n) = none := hmet
  obtain ⟨z, hz⟩ := State.store_of_sound (s := (s.actFor r).actAs (sauskPort r.id) r.tid) hsound (tileAddr r.cid n 0)
    (bs.take (layOf w).size)
  simp only [State.receive, hmet', payloadFault_self, hz]
  exact ⟨State.opEnds_finishOp (((s.actFor r).actAs (sauskPort r.id) r.tid).rewritten _ z)
    { r with before := union r.before ((s.actFor r).undone past) }, State.finishOp_mem ..⟩

/-- A payload from a peer module that a receive waits for is taken by it. -/
theorem exec_fabricPayloadArrival {s : State} {p seq m ch n : Nat} {w : Word} (bs : List Byte) {t : Task} {r : Op}
    (hseq : s.bySeq p seq = some t) (hm : m < t.size) (hr : s.waitingReceive (t.tid * 32 + m) ch = some (r, n, w))
    (hinbox : ∀ q ∈ t.inbox, ¬ (q.member = m ∧ q.channel = ch)) (htakes : t.takesIn = true) :
    exec (.fabricPayloadArrival (.external p seq m ch w bs)) s = .next (s.receive r n w w bs []) := by
  have hnone : (t.inbox.filter fun q => q.member == m && q.channel == ch) = [] := by
    simpa [List.filter_eq_nil_iff] using hinbox
  refine (show exec (.fabricPayloadArrival (.external p seq m ch w bs)) s =
    execFabricPayloadArrival (.external p seq m ch w bs) s from rfl).trans ?_
  simp only [execFabricPayloadArrival, hseq, if_neg (Nat.not_le.2 hm), State.arrivePayload, hr, hnone, htakes, List.isEmpty_nil,
    Bool.and_self, if_true]

/-! ## Hand-offs (06 R169; 13 R349) -/

/-- Where no line carries an error, what reads and writes above HBM alone is the operation alone. -/
theorem State.withPoison_above_hbm {s r : State} (hsound : s.sound = true) {f : State → Except FaultRec State} (hf : f s = .ok r)
    {a b : Nat} (ha : 2 ^ 40 ≤ a) (hb : 2 ^ 40 ≤ b) (n k : Nat) : s.withPoison (linesOf a n) (linesOf b k) [] f = (r, none) := by
  simp only [State.withPoison, State.l2Touch_above_hbm _ _ _ _ ha, State.l2Touch_above_hbm _ _ _ _ hb, State.verify, State.overwrite, hsound,
    if_true, hf, Bool.false_eq_true, if_false]

theorem le_coreAddr (core o : Nat) : 2 ^ 40 ≤ coreAddr core o := by
  unfold coreAddr scratchAddr lookupAddr
  split
  all_goals omega

section HandOff

variable {s : State} {op : Nat} {o : Op} {b bs : List Byte} {held : Bool} (h : s.opAt op = some o) (hk : o.kind = .lhand b bs held)

include h hk

/-- A hand-off to no task is discarded. -/
theorem exec_handOffLanding_discarded (hseq : s.bySeq (s.taskAt o.tid).p (handSeq b) = none) :
    exec (.handOffLanding op) s = .next (s.finishOp o) := by
  refine (show exec (.handOffLanding op) s = execHandOffLanding op s from rfl).trans ?_
  simp only [execHandOffLanding, h, hk, hseq]

variable {t : Task} {core : Nat} (hseq : s.bySeq (s.taskAt o.tid).p (handSeq b) = some t) (hcores : t.cores = [core])
  (hmember : handMember b = 0) (hsize : 1 ≤ t.size) (hstate : t.state = .running)

include hseq hcores hmember hsize hstate

/-- A hand-off whose tag no operation of the receiving team bears is held. -/
theorem exec_handOffLanding_held (htag : t.tagCount core (handTag b) = 0) (hheld : held = false) :
    exec (.handOffLanding op) s = .next (s.modOp op fun o => { o with kind := .lhand b bs true }) := by
  refine (show exec (.handOffLanding op) s = execHandOffLanding op s from rfl).trans ?_
  simp [execHandOffLanding, h, hk, hseq, hcores, hmember, hstate, htag, hheld, Nat.not_le.2 hsize]

/-- A hand-off that the receiving team waits for lands. -/
theorem exec_handOffLanding_lands (htag : t.tagCount core (handTag b) ≠ 0) (hfits : handTo b + handBytes b ≤ t.clusterSize) :
    exec (.handOffLanding op) s = .next ((s.actFor o).handLand o t core b) := by
  refine (show exec (.handOffLanding op) s = execHandOffLanding op s from rfl).trans ?_
  simp [execHandOffLanding, h, hk, hseq, hcores, hmember, hstate, htag, Nat.not_le.2 hsize, Nat.not_lt.2 hfits]

end HandOff

/-- Where a hand-off meets no mark, the bytes it names are in the cluster memory and its operation is over. -/
theorem State.handLand_lands {s : State} {op : Nat} {o : Op} {t : Task} (core : Nat) {b : List Byte} (hid : o.id = op)
    (hsound : s.sound = true)
    (hmet : { s with ops := s.ops.filter (·.id != o.id) }.landingMet t.tid o.id
      ((s.clusterOf t.tid).touch (handTo b) (handBytes b)) = none) :
    ((s.actFor o).handLand o t core b).opAt op = none ∧
      ((s.actFor o).handLand o t core b).mem = memWrite s.mem ((s.clusterOf t.tid).base + handTo b)
        (memRead s.mem ((s.lookupRegion o).base + handFrom b) (handBytes b)) := by
  have hmet' : { s.actFor o with ops := (s.actFor o).ops.filter (·.id != o.id) }.landingMet t.tid o.id
      (((s.actFor o).clusterOf t.tid).touch (handTo b) (handBytes b)) = none := hmet
  have hfrom : 2 ^ 40 ≤ ((s.actFor o).lookupRegion o).base + handFrom b := Nat.le_add_right_of_le (le_coreAddr ..)
  have hto : 2 ^ 40 ≤ ((s.actFor o).clusterOf t.tid).base + handTo b := by
    simp only [State.clusterOf, clusterAddr]
    omega
  obtain ⟨z, hz⟩ := State.store_of_sound (s := s.actFor o) hsound (((s.actFor o).clusterOf t.tid).base + handTo b)
    (memRead (s.actFor o).mem (((s.actFor o).lookupRegion o).base + handFrom b) (handBytes b))
  have hpoison := State.withPoison_above_hbm (s := s.actFor o) hsound (f := fun s => .ok (s.store _ (memRead s.mem _ (handBytes b))))
    (congrArg Except.ok hz) hfrom hto (handBytes b) (handBytes b)
  simp only [State.handLand, hmet', hpoison, State.endOp]
  exact ⟨State.opAt_finishOp _ hid, State.finishOp_mem ..⟩

end Sys2Proof.Machine
end

section
/-! Counter operations, graph counters, messages and hand-offs together (11 R291, R292; 13 R340 to R349; 20 R434). -/
namespace Sys2Proof.Machine

/-- Settles O54, clause by clause: a counter operation writes its cell and no other byte, a graph counter that falls to 0 makes its own
node due, and what lands is one store. -/
theorem counterAndMessageSteps : Obligations.CounterAndMessageSteps := by
  refine ⟨fun s op o c h hk hmem => ?_, ?graphRead, ?graphLower, ?row, ?flush, ?wait, ?payload, ?handOff⟩
  · obtain ⟨hperform, hrest⟩ := counterSteps h hk hmem
    refine ⟨fun hp hheld hm a ha hsound => ?_, hrest⟩
    obtain ⟨t, hexec, hval, hframe⟩ := hperform hp hheld hm a ha hsound
    exact ⟨t, hexec, hval.trans (congrArg BitVec.toNat (cellAct_apply_eq c.act _)), hframe⟩
  case graphRead => exact fun s op o g h hk hp ha hheld => graphRead h hk hp hheld ha
  case graphLower =>
    intro s op k o g i h hk hp ha hheld hi
    exact ⟨graphLower_stays h hk hp hheld ha hi, fun hpos hle hf hdisp hfin hd v nd hv hnd =>
      graphLower_dispatches h hk hp hheld ha hi hpos hle hf hdisp hfin hd hv hnd⟩
  case row => exact fun s x rest hs hbefore hfirst => exec_dispatchRowLanding hs hbefore hfirst
  case flush =>
    exact fun s op n o h hk hsends hbatch hopen hheld => exec_dflushCompletion h hk hsends hbatch hopen hheld
  case wait =>
    intro s op cell a bound o h hk ha hheld
    rw [exec_dispatchWaitCompletion h hk ha hheld]
    exact ⟨fun hle => if_pos hle, fun hlt => if_neg (Nat.not_le.2 hlt)⟩
  case payload =>
    intro s p seq m ch n w bs t r hseq hm hr hinbox htakes hmet hsound
    exact ⟨_, exec_fabricPayloadArrival bs hseq hm hr hinbox htakes, State.receive_lands bs [] hmet hsound⟩
  case handOff =>
    intro s op o b bs held h hk
    refine ⟨exec_handOffLanding_discarded h hk, fun t core hseq hcores hmember hsize hstate => ⟨fun htag hheld => ?_,
      fun htag hfits hsound hmet => ?_⟩⟩
    · exact ⟨_, exec_handOffLanding_held h hk hseq hcores hmember hsize hstate htag hheld, rfl⟩
    · exact ⟨_, exec_handOffLanding_lands h hk hseq hcores hmember hsize hstate htag hfits,
        State.handLand_lands core (State.id_of_opAt h) hsound hmet⟩

end Sys2Proof.Machine
end

section
/-! Tiles as a word names them: the interlock, the type of a tile whose data move (04 R101, R102, R105, R113; 12 R304). -/
namespace Sys2Proof.Machine

/-! ## Checks -/

theorem need_ok {ok : Bool} (h : ok = true) (e : Stop) : need ok e = .ok () := if_pos h

/-- The proof's parentheses keep `simp` from leaving this step to the kernel, which would evaluate the checks that follow. -/
theorem ok_bind {α β : Type} (a : α) (f : α → Except Stop β) : (Except.ok a >>= f) = f a := (rfl)

theorem error_bind {α β : Type} (e : Stop) (f : α → Except Stop β) : (Except.error e >>= f) = .error e := (rfl)

theorem need_stop {ok : Bool} (h : ok = false) (e : Stop) : need ok e = .error e := if_neg (Bool.eq_false_iff.1 h)

/-- A word that is no core access does what its body does. -/
theorem exec_kept {s t : State} {i : Instr} {k : WordKind} {g len : Nat} {body : State → Except Stop State}
    (hexec : exec i s = runWord k len g body s) (hrun : s.canRun k g) (hk : k.accesses = false) (hb : body s = .ok t) :
    exec i s = .next t := by
  rw [hexec, runWord_ok hrun hb, WordKind.order, hk, if_neg Bool.false_ne_true]

/-! ## The tiles named (04 R113; 12 R304) -/

theorem pickFault_eq_none {p : TagFault → Bool} {l : List TagFault} (h : ∀ t ∈ l, p t = false) : pickFault p l = none := by
  induction l with
  | nil => rfl
  | cons t ts ih =>
    obtain ⟨ht, hts⟩ := List.forall_mem_cons.1 h
    simp only [pickFault, ih hts, ht, Bool.false_eq_true, if_false]

theorem State.tilesFree.mono {s : State} {ns ms : List Nat} (h : s.tilesFree ms) (hsub : ∀ n ∈ ns, n ∈ ms) : s.tilesFree ns :=
  ⟨fun n hn => h.1 n (hsub n hn), h.2⟩

theorem State.nameTiles_ok {s : State} {ns : List Nat} (h : s.tilesFree ns) : s.nameTiles ns = .ok () := by
  obtain ⟨hfree, hstall⟩ := h
  have hcount : ns.all (· < s.task.tiles) = true := List.all_eq_true.2 fun n hn => decide_eq_true (hfree n hn).1
  have hwriters : ns.flatMap s.tileWriters = [] := List.flatMap_eq_nil_iff.2 fun n hn => (hfree n hn).2
  have hjoin : s.joinFault (fun t => s.ctx.tileStall.contains t.op) = .ok () := by
    rw [State.joinFault, pickFault_eq_none fun t _ => by rw [hstall, List.contains_nil, Bool.and_false]]
  rw [State.nameTiles, need_ok hcount, hwriters]
  exact hjoin

theorem State.nameTiles_beyond {s : State} {ns : List Nat} {n : Nat} (hn : n ∈ ns) (h : s.task.tiles ≤ n) :
    s.nameTiles ns = .error (flt .FM 7) := by
  have hcount : ns.all (· < s.task.tiles) = false :=
    List.all_eq_false.2 ⟨n, hn, fun hlt => Nat.not_lt.2 h (of_decide_eq_true hlt)⟩
  rw [State.nameTiles, need_stop hcount]
  rfl

/-! ## Types presented (04 R101, R102, R105) -/

theorem checkType_ok {comp : Bool} {w : Word} (h : typeFault comp w = none) : checkType comp w = .ok () := by
  rw [checkType, h, ite_self]

theorem checkType_stop {comp : Bool} {w : Word} {n : Nat} (hw : w ≠ 0) (h : typeFault comp w = some n) :
    checkType comp w = .error (flt .FM n) := by
  rw [checkType, if_neg hw, h]

theorem needFull_ok {w : Word} (h : w ≠ 0) (op : Nat) : needFull w op = .ok () := need_ok (bne_iff_ne.2 h) _

/-- `State.needBound` as a function: of one application of it the kernel would evaluate the extents first. -/
theorem State.needBound_def : State.needBound = fun s w op => match openExt (s.resolveType w) with
    | some (k, v) => .error (shFault 5 k (some v) none op 0 w 0)
    | none => .ok () := rfl

theorem State.needBound_ok {s : State} {w : Word} (h : openExt (s.resolveType w) = none) (op : Nat) : s.needBound w op = .ok () := by
  rw [State.needBound_def]
  beta_reduce
  rw [h]

theorem needFits_ok {w : Word} (h : openExt w ≠ none ∨ (layOf w).size ≤ 32768) (op : Nat) : needFits w op = .ok () := by
  refine need_ok ?_ _
  rcases h with h | h
  · rw [Option.isSome_iff_ne_none.2 h]
    rfl
  · rw [decide_eq_true h, Bool.or_true]

section Ready

variable {s : State} {t : Nat} {comp : Bool} {r : Word} (h : s.tileReady t comp r)

include h

theorem State.tileReady.checkType : checkType comp (s.ctx.twAt t) = .ok () := checkType_ok h.valid

/-- A ready tile's data may move, under the type it resolves to. -/
theorem State.tileReady.dataType (op : Nat) : s.dataType t op = .ok r := by
  have hbound : openExt (s.resolveType (s.ctx.twAt t)) = none := by rw [h.resolved, h.bound]
  rw [State.dataType, needFull_ok h.full, ok_bind, State.needBound_ok hbound, ok_bind, h.resolved]
  show (needFits r op >>= fun _ => pure r) = Except.ok r
  rw [needFits_ok (.inr h.fits)]
  rfl

end Ready

/-- `State.store` of what a stretch holds, elsewhere: the stretch is there too, no other byte changes. -/
theorem State.store_copied {s : State} (hsound : s.sound = true) (hmem : s.memCanonical) (src dst n : Nat) :
    let u := s.store dst (memRead s.mem src n)
    u.ctx = s.ctx ∧ u.ops = s.ops ∧ memRead u.mem dst n = memRead s.mem src n ∧
      ∀ c, (c < dst ∨ dst + n ≤ c) → memGet u.mem c = memGet s.mem c := by
  obtain ⟨z, hz⟩ := State.store_of_sound hsound dst (memRead s.mem src n)
  have hread := memRead_memWrite (memRead s.mem src n) dst hmem
  rw [memRead_length] at hread
  dsimp only
  rw [hz]
  exact ⟨rfl, rfl, hread, fun c hc => memGet_memWrite_outside _ hmem (by rwa [memRead_length])⟩

end Sys2Proof.Machine
end

section
/-! Images of tiles and of run registers in a slot's region (05 R118 to R120, R136; 10 R272; 12 R311). -/
namespace Sys2Proof.Machine

/-! ## Tile images (12 R311) -/

/-- What TLDS, with `load`, and TSTS do. -/
def tileImageBody (mb load : Bool) (t a order : Nat) (s : State) : Except Stop State := do
  let (reg, o, w) ← s.imageArea mb t a order (if load then 0 else 1)
  let l := layOf w
  s.raceCore (if load then [reg.touch o l.size] else [l.touch s.me t]) (if load then [l.touch s.me t] else [reg.touch o l.size])
  let s ← s.readCheck (if load then reg.base + o else tileAddr s.me t 0) l.size
  return (s.store (if load then tileAddr s.me t 0 else reg.base + o)
    (memRead s.mem (if load then reg.base + o else tileAddr s.me t 0) l.size)).writeBack t

theorem exec_tileImageWord {i : Instr} {g t a order : Nat} {mb load : Bool} (h : tileImageWord i = some (g, t, a, order, mb, load))
    (s : State) : exec i s = runWord (slotKindMain mb) 1 g (tileImageBody mb load t a order) s := by
  unfold tileImageWord at h
  split at h
  case h_5 => cases h
  all_goals
    cases h
    rfl

section Area

variable {s : State} {t a : Nat} {r : Word} (mb : Bool) (order op : Nat) (hfree : s.tilesFree [t]) (hready : s.tileReady t true r)
  (ha : s.readable a)

include hfree hready ha

/-- With a ready tile named, the area is left to check: its alignment, the order of its rows, its bounds. -/
theorem State.imageArea_ready : s.imageArea mb t a order op = (do
    need ((s.xval a).toNat % 64 == 0) (flt .FM 8)
    need (order == 0 || (layOf r).ext.getLastD 0 * storageBits (layOf r).fmt % 512 == 0) (flt .FM 9)
    need ((s.xval a).toNat + (layOf r).size ≤ (s.slotRegion mb).size) (flt .LS 3)
    return (s.slotRegion mb, (s.xval a).toNat, r)) := by
  rw [State.imageArea, State.nameTiles_ok hfree, State.rx_of_readable ha, hready.checkType, hready.dataType]
  rfl

theorem State.imageArea_misaligned (h : (s.xval a).toNat % 64 ≠ 0) : s.imageArea mb t a order op = .error (flt .FM 8) := by
  rw [State.imageArea_ready mb order op hfree hready ha, need_stop (beq_eq_false_iff_ne.2 h)]
  rfl

variable (halign : (s.xval a).toNat % 64 = 0)

include halign

theorem State.imageArea_narrow (h : ¬ (order = 0 ∨ (layOf r).ext.getLastD 0 * storageBits (layOf r).fmt % 512 = 0)) :
    s.imageArea mb t a order op = .error (flt .FM 9) := by
  have hnarrow : (order == 0 || (layOf r).ext.getLastD 0 * storageBits (layOf r).fmt % 512 == 0) = false := by
    rw [Bool.or_eq_false_iff, beq_eq_false_iff_ne, beq_eq_false_iff_ne]
    exact not_or.1 h
  rw [State.imageArea_ready mb order op hfree hready ha, need_ok (beq_iff_eq.2 halign), need_stop hnarrow]
  rfl

variable (hwide : order = 0 ∨ (layOf r).ext.getLastD 0 * storageBits (layOf r).fmt % 512 = 0)

include hwide

theorem State.imageArea_wide : s.imageArea mb t a order op = (do
    need ((s.xval a).toNat + (layOf r).size ≤ (s.slotRegion mb).size) (flt .LS 3)
    return (s.slotRegion mb, (s.xval a).toNat, r)) := by
  have hrows : (order == 0 || (layOf r).ext.getLastD 0 * storageBits (layOf r).fmt % 512 == 0) = true := by
    rw [Bool.or_eq_true, beq_iff_eq, beq_iff_eq]
    exact hwide
  rw [State.imageArea_ready mb order op hfree hready ha, need_ok (beq_iff_eq.2 halign), need_ok hrows]
  rfl

theorem State.imageArea_outside (h : (s.slotRegion mb).size < (s.xval a).toNat + (layOf r).size) :
    s.imageArea mb t a order op = .error (flt .LS 3) := by
  rw [State.imageArea_wide mb order op hfree hready ha halign hwide, need_stop (decide_eq_false (Nat.not_le.2 h))]
  rfl

theorem State.imageArea_ok (h : (s.xval a).toNat + (layOf r).size ≤ (s.slotRegion mb).size) :
    s.imageArea mb t a order op = .ok (s.slotRegion mb, (s.xval a).toNat, r) := by
  rw [State.imageArea_wide mb order op hfree hready ha halign hwide, need_ok (decide_eq_true h)]
  rfl

end Area

section Body

variable {s : State} {mb load : Bool} {t a order : Nat}

theorem tileImageBody_stop {e : Stop} (h : s.imageArea mb t a order (if load then 0 else 1) = .error e) :
    tileImageBody mb load t a order s = .error e := by
  rw [tileImageBody, h]
  rfl

theorem tileImageBody_ok {reg : Region} {o : Nat} {r : Word} (h : s.imageArea mb t a order (if load then 0 else 1) = .ok (reg, o, r))
    (hsound : s.sound = true)
    (hrace : s.raceCore (if load then [reg.touch o (layOf r).size] else [(layOf r).touch s.me t])
      (if load then [(layOf r).touch s.me t] else [reg.touch o (layOf r).size]) = .ok ()) :
    tileImageBody mb load t a order s = .ok ((s.store (if load then tileAddr s.me t 0 else reg.base + o)
      (memRead s.mem (if load then reg.base + o else tileAddr s.me t 0) (layOf r).size)).writeBack t) := by
  simp only [tileImageBody, h, hrace, State.readCheck_of_sound hsound, bind, Except.bind, pure, Except.pure]

end Body

/-! ## Images of run registers (05 R118 to R120, R136; 10 R272) -/

theorem length_flatMap_const {α β : Type} {l : List α} {f : α → List β} {n : Nat} (h : ∀ x ∈ l, (f x).length = n) :
    (l.flatMap f).length = l.length * n := by
  rw [List.length_flatMap, List.map_congr_left h, List.map_const', List.sum_replicate, smul_eq_mul]

/-- The slots of a row of at most 64 runs fill 384 bytes. -/
theorem length_rowSlots {rs : List Run} (h : rs.length ≤ 64) :
    (rs.flatMap (fun r => natLe 4 r.val.toNat ++ natLe 2 r.cnt) ++ List.replicate (6 * (64 - rs.length)) (0 : Byte)).length = 384 := by
  rw [List.length_append, length_flatMap_const (n := 6) fun r _ => by rw [List.length_append, natLe_length, natLe_length],
    List.length_replicate]
  omega

theorem length_packImage {v : VReg} (h : v.wf) : (packImage v).length = 6272 := by
  have hrow : ∀ l ∈ rows16, (v.row l).length ≤ 64 := fun l hl => h.length_row (lt16_of_mem_rows16 hl)
  simp only [packImage, List.length_append, natLe_length, List.length_replicate]
  rw [length_flatMap_const (l := rows16) (n := 384), length_flatMap_const (l := rows16) (n := 4)]
  · rfl
  · exact fun l _ => natLe_length ..
  · exact fun l hl => length_rowSlots (hrow l hl)

theorem all_zero_memRead {m : Memory} {a n : Nat} (h : ∀ k < n, memGet m (a + k) = 0) : (memRead m a n).all (· == 0) = true := by
  induction n generalizing a with
  | zero => rfl
  | succ n ih =>
    have hhead := h 0 (Nat.succ_pos n)
    rw [Nat.add_zero] at hhead
    have htail := ih (a := a + 1) fun k hk => by rw [Nat.add_assoc, Nat.add_comm 1 k]; exact h (k + 1) (Nat.succ_lt_succ hk)
    rw [memRead, List.all_cons, htail, hhead]
    rfl

section Place

variable {s : State} {a o : Nat} (ha : s.readable a) (ho : (s.xval a).toNat = o)

include ha ho

theorem State.imagePlace_misaligned (h : o % 64 ≠ 0) : s.imagePlace a = .error (flt .FM 8) := by
  rw [State.imagePlace, State.rx_of_readable ha]
  show (need ((s.xval a).toNat % 64 == 0) (flt .FM 8) >>= fun _ => _) = _
  rw [ho, need_stop (beq_eq_false_iff_ne.2 h)]
  rfl

variable (halign : o % 64 = 0)

include halign

theorem State.imagePlace_aligned : s.imagePlace a = (do
    need (o + 6272 ≤ (s.slotRegion false).size) (flt .LS 3)
    return (s.slotRegion false, o)) := by
  rw [State.imagePlace, State.rx_of_readable ha]
  show (need ((s.xval a).toNat % 64 == 0) (flt .FM 8) >>= fun _ => _) = _
  rw [ho, need_ok (beq_iff_eq.2 halign)]
  rfl

theorem State.imagePlace_outside (h : (s.slotRegion false).size < o + 6272) : s.imagePlace a = .error (flt .LS 3) := by
  rw [State.imagePlace_aligned ha ho halign, need_stop (decide_eq_false (Nat.not_le.2 h))]
  rfl

theorem State.imagePlace_ok (h : o + 6272 ≤ (s.slotRegion false).size) : s.imagePlace a = .ok (s.slotRegion false, o) := by
  rw [State.imagePlace_aligned ha ho halign, need_ok (decide_eq_true h)]
  rfl

end Place

section Words

variable {s : State} {g d a src o : Nat} {reg : Region} (hrun : s.canRun .maMain g)

include hrun

theorem exec_images_stop {e : Stop} (h : s.imagePlace a = .error e) :
    exec (.vpack g a src) s = .next (s.stopAt e) ∧ exec (.vunpack g d a) s = .next (s.stopAt e) := by
  constructor
  · refine exec_access_stop rfl hrun ?_
    rw [h]
    rfl
  · refine exec_access_stop rfl hrun ?_
    rw [h]
    rfl

variable (hplace : s.imagePlace a = .ok (reg, o))

include hplace

theorem exec_vpack (hrace : s.raceCore [] [reg.touch o 6272] = .ok ()) :
    exec (.vpack g a src) s = .next (s.store (reg.base + o) (packImage (s.ctx.vAt src))).commitOrder := by
  refine exec_access rfl hrun rfl ?_
  simp only [hplace, hrace, bind, Except.bind, pure, Except.pure]

variable (hrace : s.raceCore [reg.touch o 6272] [] = .ok ()) (hsound : s.sound = true)

include hrace hsound

theorem exec_vunpack {tag : VTag} (hrows : ∀ l < 16, (unpackRow s.mem (reg.base + o) l).isSome = true)
    (htag : tagOfCode (memNat s.mem (reg.base + o + 6208) 8) = some tag) (hrest : ∀ k < 56, memGet s.mem (reg.base + o + 6216 + k) = 0) :
    exec (.vunpack g d a) s =
      .next (s.wv 6 d tag (rows16.map fun l => (unpackRow s.mem (reg.base + o) l).getD [])).commitOrder := by
  have hgood : rows16.filter (fun l => (unpackRow s.mem (reg.base + o) l).isNone) = [] :=
    List.filter_eq_nil_iff.2 fun l hl => by
      rw [Option.isNone_iff_eq_none]
      exact Option.isSome_iff_ne_none.1 (hrows l (lt16_of_mem_rows16 hl))
  have hzero := all_zero_memRead hrest
  refine exec_access rfl hrun rfl ?_
  simp only [hplace, hrace, State.readCheck_of_sound hsound, hgood, htag, need_ok hzero, bind, Except.bind, pure, Except.pure]

theorem exec_vunpack_badRow {l : Nat} (hl : l < 16) (hrow : unpackRow s.mem (reg.base + o) l = none) :
    ∃ f : FaultRec, f.cls = .RN ∧ f.num = 4 ∧ exec (.vunpack g d a) s = .next (s.stopAt (.fault f)) := by
  have hmem : l ∈ rows16.filter fun l => (unpackRow s.mem (reg.base + o) l).isNone :=
    List.mem_filter.2 ⟨List.mem_range.2 hl, Option.isNone_iff_eq_none.2 hrow⟩
  obtain ⟨k, ks, hbad⟩ := List.exists_cons_of_ne_nil (List.ne_nil_of_mem hmem)
  have hexec : exec (.vunpack g d a) s = .next (s.stopAt
      (rnFault 4 k (rowBits (k :: ks)) 0 (bits (memNat s.mem (reg.base + o + 6144 + 4 * k) 4) 8 13) 0 0)) := by
    refine exec_access_stop rfl hrun ?_
    simp only [hplace, hrace, State.readCheck_of_sound hsound, hbad, bind, Except.bind]
  exact ⟨_, rfl, rfl, hexec⟩

end Words

/-- Settles O35: a tile's image is copied by one store (`State.store_copied`); a run register's is the 6,272 bytes of `packImage`. -/
theorem imageWords : Obligations.ImageWords := by
  unfold Obligations.ImageWords
  refine ⟨?tiles, ?registers⟩
  case tiles =>
    intro s i g t a order mb load r hi hrun ha hfree hready hmem hsound o reg n home src dst area tile wide
    have hstop {e : Stop} (h : s.imageArea mb t a order (if load then 0 else 1) = .error e) : exec i s = .next (s.stopAt e) :=
      exec_access_stop (exec_tileImageWord hi s) hrun (tileImageBody_stop h)
    refine ⟨fun h => hstop (State.imageArea_misaligned mb order _ hfree hready ha h),
      fun halign h => hstop (State.imageArea_narrow mb order _ hfree hready ha halign h),
      fun halign hwide h => hstop (State.imageArea_outside mb order _ hfree hready ha halign hwide h), fun halign hwide hin hrace => ?_⟩
    have harea := State.imageArea_ok mb order (if load then 0 else 1) hfree hready ha halign hwide hin
    obtain ⟨hctx, hops, hread, hframe⟩ := State.store_copied hsound hmem src dst n
    exact ⟨_, exec_access (exec_tileImageWord hi s) hrun (slotKindMain_accesses mb) (tileImageBody_ok harea hsound hrace), hctx, hops,
      hread, hframe⟩
  case registers =>
    intro s g d a src o hrun ha hsound hmem ho reg p
    refine ⟨fun h => exec_images_stop hrun (State.imagePlace_misaligned ha ho h),
      fun halign h => exec_images_stop hrun (State.imagePlace_outside ha ho halign h), fun halign hin => ?_⟩
    have hplace := State.imagePlace_ok ha ho halign hin
    refine ⟨fun hrace hwf => ?_, fun hrace => ⟨fun tag => exec_vunpack hrun hplace hrace hsound, fun ⟨l, hl, hrow⟩ =>
      exec_vunpack_badRow hrun hplace hrace hsound hl hrow⟩⟩
    obtain ⟨z, hz⟩ := State.store_of_sound hsound p (packImage (s.ctx.vAt src))
    have hlen := length_packImage hwf
    have hread := memRead_memWrite (packImage (s.ctx.vAt src)) p hmem
    rw [hlen] at hread
    refine ⟨_, exec_vpack hrun hplace hrace, ?_, ?_, fun c hc => ?_⟩
    · rw [hz]
      exact State.onlyOrders_commitOrder (s.rewritten _ z)
    · rw [State.commitOrder_mem, hz]
      exact hread
    · rw [State.commitOrder_mem, hz]
      exact memGet_memWrite_outside _ hmem (by rwa [hlen])

end Sys2Proof.Machine
end

section
/-! Tile data through the core: TZERO and TMOV (12 R304, R310). -/
namespace Sys2Proof.Machine

/-! ## The areas of a tile's storage (04 R102) -/

theorem le_mul_ceilDiv (n : Nat) : n ≤ 64 * ceilDiv n 64 := by
  rw [ceilDiv]
  omega

theorem TLay.scaleEnd_le_size (l : TLay) : l.scaleEnd ≤ l.size := by
  rw [TLay.size]
  split
  · exact (le_mul_ceilDiv l.scaleEnd).trans (Nat.le_add_right ..)
  · exact le_rfl

theorem TLay.earea_le_size (l : TLay) : l.earea ≤ l.size := by
  refine le_trans ?_ l.scaleEnd_le_size
  rw [TLay.scaleEnd]
  split
  · exact le_rfl
  · exact (le_mul_ceilDiv l.earea).trans (Nat.le_add_right ..)

theorem TLay.scales_le_size {l : TLay} (h : l.geom ≠ 0) : l.scaleAt + l.blocks ≤ l.size := by
  have hend := l.scaleEnd_le_size
  rwa [TLay.scaleEnd, if_neg h] at hend

/-! ## Zeros written -/

theorem memGet_memWrite_zeros {m : Memory} (h : Memory.wf m = true) (a n c : Nat) :
    memGet (memWrite m a (List.replicate n 0)) c = if a ≤ c ∧ c < a + n then 0 else memGet m c := by
  rw [memGet_memWrite _ _ _ h, List.length_replicate]
  refine if_congr Iff.rfl ?_ rfl
  rw [List.getD_eq_getElem?_getD, List.getElem?_replicate]
  split
  · rfl
  · rfl

/-- The elements and the scales of a tile at `base` set to 0. -/
def zeroTile (l : TLay) (base : Nat) (m : Memory) : Memory :=
  let m := memWrite m base (List.replicate l.earea 0)
  if l.geom = 0 then m else memWrite m (base + l.scaleAt) (List.replicate l.blocks 0)

section Zeros

variable {m : Memory} (h : Memory.wf m = true) (l : TLay) (base : Nat)

include h

theorem memGet_zeroTile_element {k : Nat} (hk : k < l.earea) : memGet (zeroTile l base m) (base + k) = 0 := by
  have helem : memGet (memWrite m base (List.replicate l.earea 0)) (base + k) = 0 := by
    rw [memGet_memWrite_zeros h, if_pos (by omega)]
  rw [zeroTile]
  split
  · exact helem
  · rw [memGet_memWrite_zeros (memWrite_wf _ _ h), helem, ite_self]

theorem memGet_zeroTile_scale (hg : l.geom ≠ 0) {k : Nat} (hk : k < l.blocks) :
    memGet (zeroTile l base m) (base + l.scaleAt + k) = 0 := by
  rw [zeroTile, if_neg hg, memGet_memWrite_zeros (memWrite_wf _ _ h), if_pos (by omega)]

theorem memGet_zeroTile_outside {c : Nat} (hc : c < base ∨ base + l.size ≤ c) : memGet (zeroTile l base m) c = memGet m c := by
  have helem : memGet (memWrite m base (List.replicate l.earea 0)) c = memGet m c := by
    have := l.earea_le_size
    rw [memGet_memWrite_zeros h, if_neg (by omega)]
  rw [zeroTile]
  split
  · exact helem
  case isFalse hg =>
    have := TLay.scales_le_size hg
    rw [memGet_memWrite_zeros (memWrite_wf _ _ h), if_neg (by omega), helem]

end Zeros

/-! ## The words -/

section Words

variable {s : State} {g a : Nat} {r : Word} (hrun : s.canRun .eMain g)

include hrun

theorem exec_tzero_beyond (h : s.task.tiles ≤ a) : exec (.tzero g a) s = .next (s.stopAt (flt .FM 7)) := by
  refine exec_access_stop rfl hrun ?_
  rw [State.nameTiles_beyond (List.mem_singleton_self a) h]
  rfl

variable (hready : s.tileReady a false r)

include hready

theorem exec_tzero (hfree : s.tilesFree [a]) (hsound : s.sound = true) (hrace : s.raceCore [] [(layOf r).touch s.me a] = .ok ()) :
    ∃ z, exec (.tzero g a) s = .next ((s.rewritten (zeroTile (layOf r) (tileAddr s.me a 0) s.mem) z).writeBack a) := by
  obtain ⟨z, hz⟩ := State.store_of_sound hsound (tileAddr s.me a 0) (List.replicate (layOf r).earea 0)
  obtain ⟨z', hz'⟩ := State.store_of_sound (s := s.rewritten (memWrite s.mem (tileAddr s.me a 0) (List.replicate (layOf r).earea 0)) z)
    hsound (tileAddr s.me a 0 + (layOf r).scaleAt) (List.replicate (layOf r).blocks 0)
  by_cases hg : (layOf r).geom = 0
  · refine ⟨z, exec_kept rfl hrun rfl ?_⟩
    simp only [State.nameTiles_ok hfree, hready.checkType, hready.dataType, hrace, hz, if_pos hg, zeroTile, ok_bind, pure, Except.pure]
  · refine ⟨z', exec_kept rfl hrun rfl ?_⟩
    simp only [State.nameTiles_ok hfree, hready.checkType, hready.dataType, hrace, hz, if_neg hg, hz', zeroTile, ok_bind]
    rfl

variable {d : Nat} (hfree : s.tilesFree [d, a])

include hfree

/-- A tile copied to itself is left alone. -/
theorem exec_tmov_self (hd : d = a) : exec (.tmov g d a) s = .next s := by
  refine exec_kept rfl hrun rfl ?_
  simp only [State.nameTiles_ok hfree, hready.checkType, hready.dataType, if_pos hd, ok_bind, pure, Except.pure]

theorem exec_tmov (hd : d ≠ a) (hsound : s.sound = true) (hrace : s.raceCore [(layOf r).touch s.me a] [(layOf r).touch s.me d] = .ok ()) :
    exec (.tmov g d a) s = .next (((s.store (tileAddr s.me d 0)
      (memRead s.mem (tileAddr s.me a 0) (layOf r).size)).writeBack a).post 1 (.tw d r)) := by
  refine exec_kept rfl hrun rfl ?_
  simp only [State.nameTiles_ok hfree, hready.checkType, hready.dataType, if_neg hd, hrace, State.readCheck_of_sound hsound,
    ok_bind, pure, Except.pure]

end Words

/-- Settles O36: the storage ends with the scales or after them, so that what TZERO and TMOV write lies in it. -/
theorem tileDataWords : Obligations.TileDataWords := by
  unfold Obligations.TileDataWords
  intro s g d a r hrun hmem hsound l from_ to_
  refine ⟨exec_tzero_beyond hrun, fun hfree hready => ⟨fun hrace => ?zero, exec_tmov_self hrun hready hfree, fun hd hrace => ?move⟩⟩
  case zero =>
    obtain ⟨z, hexec⟩ := exec_tzero hrun hready (hfree.mono (by simp)) hsound hrace
    exact ⟨_, hexec, rfl, fun k hk => memGet_zeroTile_element hmem l from_ hk, fun hg k hk => memGet_zeroTile_scale hmem l from_ hg hk,
      fun c hc => memGet_zeroTile_outside hmem l from_ hc⟩
  case move =>
    obtain ⟨hctx, -, hread, hframe⟩ := State.store_copied hsound hmem from_ to_ l.size
    exact ⟨_, exec_tmov hrun hready hfree hd hsound hrace, hctx, hread, hframe⟩

end Sys2Proof.Machine
end

section
/-! Words on type words, dimension variables and engine registers (12 R307 to R309, R325, R326). -/
namespace Sys2Proof.Machine

theorem ne_zero_of_twRank {w : Word} (h : twRank w ≠ 0) : w ≠ 0 := by
  rintro rfl
  exact h rfl

section TypeWords

variable {s : State} {g t a : Nat} (hrun : s.canRun .eMain g) (hfree : s.tilesFree [t])

include hrun hfree

theorem exec_tgett (d : Nat) : exec (.tgett g d t) s = .next (s.wx 1 d (s.ctx.twAt t)) := by
  refine exec_kept rfl hrun rfl ?_
  rw [State.nameTiles_ok hfree]
  rfl

theorem exec_tflag (clr set : Nat) (hfull : s.ctx.twAt t ≠ 0) (hvalid : typeFault true (s.ctx.twAt t) = none) {w : Word}
    (hw : (s.ctx.twAt t ||| BitVec.ofNat 64 (set * 2 ^ 41)) &&& ~~~(BitVec.ofNat 64 (clr * 2 ^ 41)) = w)
    (hfits : openExt (s.resolveType w) ≠ none ∨ (layOf (s.resolveType w)).size ≤ 32768) :
    exec (.tflag g t clr set) s = .next (s.post 1 (.tw t (s.resolveType w))) := by
  refine exec_kept rfl hrun rfl ?_
  simp only [State.nameTiles_ok hfree, checkType_ok hvalid, needFull_ok hfull, word, hw, needFits_ok hfits, ok_bind, pure,
    Except.pure]

variable (ha : s.readable a)

include ha

theorem exec_tsett_zero (h : s.xval a = 0) : exec (.tsett g t a) s = .next (s.post 1 (.tw t 0)) := by
  refine exec_kept rfl hrun rfl ?_
  simp only [State.nameTiles_ok hfree, State.rx_of_readable ha, h, ok_bind, pure, Except.pure]
  rfl

theorem exec_tsett (hrank : twRank (s.xval a) ≠ 0) (hvalid : typeFault true (s.xval a) = none)
    (hfits : openExt (s.xval a) ≠ none ∨ (layOf (s.xval a)).size ≤ 32768) :
    exec (.tsett g t a) s = .next (s.post 1 (.tw t (s.xval a))) := by
  refine exec_kept rfl hrun rfl ?_
  simp only [State.nameTiles_ok hfree, State.rx_of_readable ha, if_neg hrank, checkType_ok hvalid, needFits_ok hfits, ok_bind,
    pure, Except.pure]

theorem exec_tsett_stop {n : Nat} (hrank : twRank (s.xval a) ≠ 0) (hbad : typeFault true (s.xval a) = some n) :
    exec (.tsett g t a) s = .next (s.stopAt (flt .FM n)) := by
  refine exec_access_stop rfl hrun ?_
  simp only [State.nameTiles_ok hfree, State.rx_of_readable ha, if_neg hrank, checkType_stop (ne_zero_of_twRank hrank) hbad,
    ok_bind, error_bind]

end TypeWords

section Variables

variable {s : State} {g a : Nat} (hrun : s.canRun .eMain g) (ha : s.readable a)

theorem State.dimValue_ok (ha : s.readable a) (hlo : 1 ≤ (s.xval a).toNat) (hhi : (s.xval a).toNat ≤ 511) :
    s.dimValue a = .ok (s.xval a).toNat := by
  have hin : (decide (1 ≤ (s.xval a).toNat) && decide ((s.xval a).toNat ≤ 511)) = true := by
    rw [decide_eq_true hlo, decide_eq_true hhi]
    rfl
  simp only [State.dimValue, State.rx_of_readable ha, ok_bind, need_ok hin, pure, Except.pure]

theorem State.dimValue_stop (ha : s.readable a) (h : (s.xval a).toNat = 0 ∨ 511 < (s.xval a).toNat) :
    s.dimValue a = .error (flt .FM 19) := by
  have hout : (decide (1 ≤ (s.xval a).toNat) && decide ((s.xval a).toNat ≤ 511)) = false := by
    rw [Bool.and_eq_false_iff, decide_eq_false_iff_not, decide_eq_false_iff_not]
    omega
  rw [State.dimValue, State.rx_of_readable ha, ok_bind, need_stop hout]
  rfl

include hrun

/-- Neither word binds what is no extent. -/
theorem exec_bindings_stop {e : Stop} (h : s.dimValue a = .error e) (d : Nat) :
    exec (.drebind g d a) s = .next (s.stopAt e) ∧ exec (.dbind g d a) s = .next (s.stopAt e) := by
  constructor
  · refine exec_access_stop rfl hrun ?_
    rw [h]
    rfl
  · refine exec_access_stop rfl hrun ?_
    rw [h]
    rfl

variable {v : Nat} (hv : s.dimValue a = .ok v) {d : Nat}

include hv

theorem exec_drebind : exec (.drebind g d a) s = .next (s.post 1 (.d d (some v))) := by
  refine exec_kept rfl hrun rfl ?_
  rw [hv]
  rfl

theorem exec_dbind_free (h : s.ctx.dAt d = none) : exec (.dbind g d a) s = .next (s.bind d v) := by
  refine exec_kept rfl hrun rfl ?_
  simp only [hv, h, ok_bind, pure, Except.pure]

theorem exec_dbind_same (h : s.ctx.dAt d = some v) : exec (.dbind g d a) s = .next s := by
  refine exec_kept rfl hrun rfl ?_
  simp only [hv, h, need_ok (beq_self_eq_true v), ok_bind, pure, Except.pure]

theorem exec_dbind_other {n : Nat} (h : s.ctx.dAt d = some n) (hn : n ≠ v) :
    exec (.dbind g d a) s = .next (s.stopAt (shFault 4 0 (some d) none 0 0 0 0)) := by
  refine exec_access_stop rfl hrun ?_
  simp only [hv, h, need_stop (beq_eq_false_iff_ne.2 hn), ok_bind, error_bind]

end Variables

/-! ## Engine registers (12 R325, R326) -/

theorem exec_mxw {s : State} {g x a : Nat} (hrun : s.canRun .eMain g) (ha : s.readable a) :
    exec (.mxw g x a) s = .next (if x = 0 then s.post 1 (.mx 0 (s.xval a)) else s) := by
  refine exec_kept rfl hrun rfl ?_
  rw [State.rx_of_readable ha]
  rfl

theorem exec_mxr {s : State} {g : Nat} (hrun : s.canRun .eMain g) (d x : Nat) : exec (.mxr g d x) s = .next (s.wx 1 d (s.mxReg x)) :=
  exec_kept rfl hrun rfl rfl

theorem State.mxReg_beyond (s : State) {x : Nat} (h : 4 < x) : s.mxReg x = 0 := by
  unfold State.mxReg
  split
  case h_6 => rfl
  all_goals omega

theorem exec_cew {s : State} {g x a : Nat} (hrun : s.canRun .eBoth g) (ha : s.readable a) :
    exec (.cew g x a) s = .next (if x < 30 then s.post 1 (.ce x (s.xval a)) else s) := by
  refine exec_kept rfl hrun rfl ?_
  rw [State.rx_of_readable ha]
  rfl

/-- Settles O39, word by word. -/
theorem typeAndEngineRegisterWords : Obligations.TypeAndEngineRegisterWords := by
  unfold Obligations.TypeAndEngineRegisterWords
  refine ⟨?types, ?engines⟩
  case types =>
    intro s g t d a m clr set hrun ha v w
    refine ⟨fun hfree => ⟨exec_tgett hrun hfree d, exec_tsett_zero hrun hfree ha, exec_tsett hrun hfree ha,
      fun n => exec_tsett_stop hrun hfree ha, fun hfull hvalid hfits => exec_tflag hrun hfree clr set hfull hvalid rfl hfits⟩,
      fun hlo hhi => ?_, fun hout => exec_bindings_stop hrun (State.dimValue_stop ha hout) d, exec_kept rfl hrun rfl rfl,
      exec_kept rfl hrun rfl rfl⟩
    have hv := State.dimValue_ok ha hlo hhi
    exact ⟨exec_drebind hrun hv, exec_dbind_free hrun hv, exec_dbind_same hrun hv,
      fun n hd hn => by
        have hexec := exec_dbind_other hrun hv hd hn
        exact ⟨_, rfl, rfl, hexec⟩⟩
  case engines =>
    intro s g x d a imm
    refine ⟨fun hrun => ⟨exec_mxw hrun, ?_⟩, fun hrun => ⟨exec_cew hrun, exec_kept rfl hrun rfl rfl,
      exec_kept rfl hrun rfl rfl, exec_kept rfl hrun rfl rfl⟩⟩
    refine ⟨exec_mxr hrun d 0, exec_mxr hrun d 1, exec_mxr hrun d 2, exec_mxr hrun d 3, exec_mxr hrun d 4, fun hx => ?_⟩
    rw [exec_mxr hrun, State.mxReg_beyond s hx]

end Sys2Proof.Machine
end

section
/-! Reshape, transpose and cast in place (04 R97 to R101, R110; 12 R312 to R314). -/
namespace Sys2Proof.Machine

/-! ## The fields of a type word (04 R97, R98) -/

theorem bits_lt (w lo n : Nat) : bits w lo n < 2 ^ n := Nat.mod_lt _ (Nat.two_pow_pos n)

/-- The number of the word whose fields are in their ranges. -/
theorem toNat_mkType {rank fmt layout geom flags : Nat} {ext : List Nat} (hr : rank < 2 ^ 3) (hf : fmt < 2 ^ 5) (hl : layout < 2 ^ 4)
    (hg : geom < 2 ^ 4) (hfl : flags < 2 ^ 8) (he : ∀ k, ext.getD k 0 < 2 ^ 10) :
    (mkType rank fmt layout geom flags ext).toNat =
      rank * 2 ^ 61 + fmt * 2 ^ 56 + layout * 2 ^ 52 + geom * 2 ^ 48 + flags * 2 ^ 40 +
        (ext.getD 0 0 + ext.getD 1 0 * 2 ^ 10 + ext.getD 2 0 * 2 ^ 20 + ext.getD 3 0 * 2 ^ 30) := by
  have h0 := he 0
  have h1 := he 1
  have h2 := he 2
  have h3 := he 3
  rw [mkType, word, BitVec.toNat_ofNat, Nat.mod_eq_of_lt]
  omega

/-- The extents of a word, the unused ones too, as a new word takes them. -/
theorem getD_twExts_lt (x : Word) (k : Nat) : ((List.range 4).map (twExt x)).getD k 0 < 2 ^ 10 := by
  by_cases hk : k < 4
  · rw [List.getD_eq_getElem _ _ (by simpa using hk), List.getElem_map]
    exact bits_lt ..
  · rw [List.getD_eq_default _ _ (by simpa using hk)]
    exact Nat.two_pow_pos 10

section Fields

variable (x w : Word)

/-- The word with the rank and the extents of `x` and the other fields of `w` (12 R312). -/
def reshaped : Word := mkType (twRank x) (twFmt w) (twLayout w) (twGeom w) (twFlags w) ((List.range 4).map (twExt x))

theorem toNat_reshaped : (reshaped x w).toNat = twRank x * 2 ^ 61 + twFmt w * 2 ^ 56 + twLayout w * 2 ^ 52 + twGeom w * 2 ^ 48 +
    twFlags w * 2 ^ 40 + (twExt x 0 + twExt x 1 * 2 ^ 10 + twExt x 2 * 2 ^ 20 + twExt x 3 * 2 ^ 30) :=
  toNat_mkType (bits_lt ..) (bits_lt ..) (bits_lt ..) (bits_lt ..) (bits_lt ..) (getD_twExts_lt x)

theorem twRank_reshaped : twRank (reshaped x w) = twRank x := by
  have hlow : twFmt w < 2 ^ 5 ∧ twLayout w < 2 ^ 4 ∧ twGeom w < 2 ^ 4 ∧ twFlags w < 2 ^ 8 :=
    ⟨bits_lt .., bits_lt .., bits_lt .., bits_lt ..⟩
  have hext : twExt x 0 < 2 ^ 10 ∧ twExt x 1 < 2 ^ 10 ∧ twExt x 2 < 2 ^ 10 ∧ twExt x 3 < 2 ^ 10 :=
    ⟨bits_lt .., bits_lt .., bits_lt .., bits_lt ..⟩
  have hrank : twRank x < 2 ^ 3 := bits_lt ..
  rw [twRank, bits, toNat_reshaped]
  omega

theorem twExt_reshaped {k : Nat} (hk : k < 4) : twExt (reshaped x w) k = twExt x k := by
  have hext : twExt x 0 < 2 ^ 10 ∧ twExt x 1 < 2 ^ 10 ∧ twExt x 2 < 2 ^ 10 ∧ twExt x 3 < 2 ^ 10 :=
    ⟨bits_lt .., bits_lt .., bits_lt .., bits_lt ..⟩
  rw [twExt, bits, toNat_reshaped]
  interval_cases k
  all_goals omega

end Fields

/-! ## Validation (04 R101) -/

/-- The extents in use are well formed, the others 0 (04 R98). -/
def extsOk (w : Word) : Bool := (twExts w).all extOk && !(List.range 4).any fun k => twRank w ≤ k && twExt w k != 0

theorem extsOk_congr {w w' : Word} (hr : twRank w' = twRank w) (hle : twRank w ≤ 4) (he : ∀ k < 4, twExt w' k = twExt w k) :
    extsOk w' = extsOk w := by
  have hused : twExts w' = twExts w := by
    rw [twExts, twExts, hr]
    exact List.map_congr_left fun k hk => he k ((List.mem_range.1 hk).trans_le hle)
  have hunused : (List.range 4).any (fun k => twRank w' ≤ k && twExt w' k != 0) =
      (List.range 4).any fun k => twRank w ≤ k && twExt w k != 0 := by
    rw [Bool.eq_iff_iff, List.any_eq_true, List.any_eq_true]
    refine exists_congr fun k => and_congr_right fun hk => ?_
    rw [hr, he k (List.mem_range.1 hk)]
  rw [extsOk, extsOk, hused, hunused]

theorem rank_extents_of_valid {comp : Bool} {w : Word} (h : typeFault comp w = none) : twRank w ≤ 4 ∧ extsOk w = true := by
  simp only [typeFault] at h
  split at h
  · cases h
  next hrank =>
    iterate 4
      split at h
      · cases h
    split at h
    · cases h
    next hext =>
      rw [Bool.or_eq_true, not_or, Bool.not_eq_true, Bool.not_eq_true, Bool.not_eq_false'] at hext
      refine ⟨Nat.not_lt.1 hrank, ?_⟩
      rw [extsOk, hext.1, hext.2]
      rfl

/-- A word with nothing between its extents and its rank is validated by these alone (12 R312). -/
theorem typeFault_of_bare {x : Word} (hbare : bits x.toNat 40 21 = 0) (hrank : twRank x ≤ 4) (hext : extsOk x = true) :
    typeFault true x = none := by
  have hfmt : twFmt x = 0 := by
    rw [twFmt, bits]
    rw [bits] at hbare
    omega
  have hlayout : twLayout x = 0 := by
    rw [twLayout, bits]
    rw [bits] at hbare
    omega
  have hgeom : twGeom x = 0 := by
    rw [twGeom, bits]
    rw [bits] at hbare
    omega
  have hflags : twFlags x = 0 := by
    rw [twFlags, bits]
    rw [bits] at hbare
    omega
  obtain ⟨hused, hunused⟩ : (twExts x).all extOk = true ∧ ((List.range 4).any fun k => twRank x ≤ k && twExt x k != 0) = false := by
    simpa [extsOk] using hext
  simp only [typeFault, hfmt, hlayout, hgeom, hflags, hused, hunused, if_neg (Nat.not_lt.2 hrank)]
  rfl

/-- What TRESHP accepts under Xb. -/
theorem checkShape_ok {x : Word} (hbare : bits x.toNat 40 21 = 0) (hpos : twRank x ≠ 0) (hrank : twRank x ≤ 4) (hext : extsOk x = true) :
    checkShape x = .ok () := by
  rw [checkShape, need_ok (decide_eq_true hrank), need_ok (beq_iff_eq.2 hbare), need_ok (bne_iff_ne.2 hpos),
    checkType_ok (typeFault_of_bare hbare hrank hext)]
  rfl

/-! ## The words in place (04 R110) -/

theorem reshapeTypeOnly_of_plain {w : Word} (hlayout : twLayout w = 0) (hview : twView w = false) (hgeom : twGeom w = 0)
    (old new : List Nat) : reshapeTypeOnly w old new = true := by
  simp [reshapeTypeOnly, hlayout, hview, hgeom]

theorem reshapeTypeOnly_of_rows (w : Word) {old new : List Nat} (h : old.reverse.take 2 = new.reverse.take 2) :
    reshapeTypeOnly w old new = true := by
  simp [reshapeTypeOnly, h]

section InPlace

variable {s : State} {g d : Nat} (tag : Nat) (hrun : s.canRun .eMain g) (hfree : s.tilesFree [d])
  (hvalid : typeFault true (s.ctx.twAt d) = none)

include hfree in
theorem State.nameTiles_twice : s.nameTiles [d, d] = .ok () := State.nameTiles_ok (hfree.mono (by simp))

include hrun hfree hvalid

theorem exec_ttrans_inPlace (hrank : 2 ≤ twRank (s.ctx.twAt d)) {n : Word}
    (hn : s.resolveType (mkType (twRank (s.ctx.twAt d)) (twFmt (s.ctx.twAt d)) (twLayout (s.ctx.twAt d)) (swapGeom (twGeom (s.ctx.twAt d)))
      (twFlags (s.ctx.twAt d) ^^^ 8) (swapLast (twExts (s.ctx.twAt d)))) = n)
    (hfits : openExt n ≠ none ∨ (layOf n).size ≤ 32768) : exec (.ttrans g d d tag) s = .next (s.post 1 (.tw d n)) := by
  refine exec_kept rfl hrun rfl ?_
  simp only [State.nameTiles_twice hfree, beq_self_eq_true, checkType_ok hvalid, need_ok (decide_eq_true hrank), if_true, hn,
    needFits_ok hfits, ok_bind, pure, Except.pure]

variable (hfull : s.ctx.twAt d ≠ 0)

include hfull

theorem exec_tcast_inPlace {fmt : Nat} (hcast : castOk (s.ctx.twAt d) fmt = true) {n : Word}
    (hn : s.resolveType (mkType (twRank (s.ctx.twAt d)) fmt (twLayout (s.ctx.twAt d)) 0 (twFlags (s.ctx.twAt d))
      (twExts (s.ctx.twAt d))) = n)
    (hfits : openExt n ≠ none ∨ (layOf n).size ≤ 32768) : exec (.tcast g d d tag fmt) s = .next (s.post 1 (.tw d n)) := by
  refine exec_kept rfl hrun rfl ?_
  simp only [State.nameTiles_twice hfree, beq_self_eq_true, checkType_ok hvalid, needFull_ok hfull, need_ok hcast, if_true, hn,
    needFits_ok hfits, ok_bind, pure, Except.pure]

theorem exec_tcast_stop {fmt : Nat} (hcast : castOk (s.ctx.twAt d) fmt = false) :
    exec (.tcast g d d tag fmt) s = .next (s.stopAt (shFault 1 0 none none 1 0 (s.ctx.twAt d) 0)) := by
  refine exec_access_stop rfl hrun ?_
  simp only [State.nameTiles_twice hfree, beq_self_eq_true, checkType_ok hvalid, needFull_ok hfull, need_stop hcast, ok_bind, error_bind]

theorem exec_treshp_inPlace {b : Nat} (hb : s.readable b) (hshape : checkShape (s.xval b) = .ok ()) {w n : Word}
    (hw : s.resolveType (s.ctx.twAt d) = w) (hn : s.resolveType (reshaped (s.xval b) (s.ctx.twAt d)) = n) (hwbound : openExt w = none)
    (hnbound : openExt n = none) (hwfits : (layOf w).size ≤ 32768) (hnfits : (layOf n).size ≤ 32768) (hcount : twCount w = twCount n)
    (htype : reshapeTypeOnly w (twExts w) (twExts n) = true) : exec (.treshp g d d b tag) s = .next (s.post 1 (.tw d n)) := by
  have hbound : s.needBound (s.ctx.twAt d) 1 = .ok () := State.needBound_ok (by rw [hw, hwbound]) 1
  have hbound' : s.needBound (reshaped (s.xval b) (s.ctx.twAt d)) 0 = .ok () := State.needBound_ok (by rw [hn, hnbound]) 0
  rw [reshaped] at hn hbound'
  refine exec_kept rfl hrun rfl ?_
  simp only [State.nameTiles_twice hfree, State.rx_of_readable hb, hw, hn, hwbound, hnbound, htype, hshape, hcount, hbound, hbound',
    beq_self_eq_true, bne_self_eq_false, Option.isNone_none, Bool.and_self, Bool.not_true, Bool.and_false, Bool.or_self, Bool.false_and,
    Bool.not_false, Bool.true_or, Bool.or_true, checkType_ok hvalid, needFull_ok hfull, need_ok rfl, needFits_ok (.inr hwfits),
    needFits_ok (.inr hnfits), if_true, ok_bind, pure, Except.pure]

end InPlace

/-- Settles O38: in place no operation is forked; of the shape that TRESHP reads, what R101 asks is what it asks of the new type. -/
theorem tileFormsInPlace : Obligations.TileFormsInPlace := by
  unfold Obligations.TileFormsInPlace
  intro s g d b tag fmt hrun hfree w x hfull hvalid
  refine ⟨fun hrank hfits => exec_ttrans_inPlace tag hrun hfree hvalid hrank rfl hfits,
    fun hcast hfits => exec_tcast_inPlace tag hrun hfree hvalid hfull hcast rfl hfits,
    fun hcast => by
      have hexec := exec_tcast_stop tag hrun hfree hvalid hfull hcast
      exact ⟨_, rfl, rfl, hexec⟩, ?_⟩
  intro hb hbare hpos m w' n hm hwbound hnbound hwfits hnfits hcount htype
  obtain ⟨hrank, hext⟩ := rank_extents_of_valid (w := reshaped x w) hm
  rw [twRank_reshaped] at hrank
  rw [extsOk_congr (twRank_reshaped x w) hrank fun k hk => twExt_reshaped x w hk] at hext
  refine exec_treshp_inPlace tag hrun hfree hvalid hfull hb (checkShape_ok hbare hpos hrank hext) rfl rfl hwbound hnbound hwfits hnfits
    hcount ?_
  rcases htype with ⟨hlayout, hview, hgeom⟩ | hlast
  · exact reshapeTypeOnly_of_plain hlayout hview hgeom _ _
  · exact reshapeTypeOnly_of_rows w' hlast

end Sys2Proof.Machine
end

section
/-! A dimension variable that holds more than an extent field does (04 R97, R98, R105). DBIND, DREBIND and a task's descriptor bind 1 to 511,
but a state holds any number in a variable; put into the extent field of a type word, one of 1,024 or more carries into the fields above.
The word that a tile resolves to then has another rank than the word it presents, of which the typing rules ask (12 R307, R313, R320,
R321). -/
namespace Sys2Proof.Machine

/-! ## A word that stops forks nothing -/

theorem State.not_forked_stopAt (s : State) (e : Stop) (tag : Nat) (o : Op) : ¬ s.forked (s.stopAt e) tag o := by
  rintro ⟨hops, -⟩
  exact List.cons_ne_nil _ _ (List.self_eq_append_right.1 hops)

/-- No state that a word leaves as it stops is one in which it has forked an operation. -/
theorem State.not_forked_of_stop {s t : State} {i : Instr} {e : Stop} (hstop : exec i s = .next (s.stopAt e)) (ht : exec i s = .next t)
    (tag : Nat) (o : Op) : ¬ s.forked t tag o := by
  obtain rfl : s.stopAt e = t := by injection hstop.symm.trans ht
  exact s.not_forked_stopAt e tag o

section Ranks

variable {s : State} {g a tag : Nat} (hrun : s.canRun .eMain g)

include hrun

/-- TTRANS of a tile whose word has a rank below 2 (12 R313). -/
theorem exec_ttrans_stop {d : Nat} (hfree : s.tilesFree [d, a]) (hd : d ≠ a) (hvalid : typeFault false (s.ctx.twAt a) = none)
    (hrank : twRank (s.ctx.twAt a) < 2) :
    exec (.ttrans g d a tag) s = .next (s.stopAt (shFault 0 0 none none 1 0 (s.ctx.twAt a) 0)) := by
  refine exec_access_stop rfl hrun ?_
  simp only [State.nameTiles_ok hfree, beq_eq_false_iff_ne.2 hd, checkType_ok hvalid, need_stop (decide_eq_false (Nat.not_le.2 hrank)),
    ok_bind, error_bind]

variable (hfree : s.tilesFree [a]) (hvalid : typeFault true (s.ctx.twAt a) = none) (hrank : twRank (s.ctx.twAt a) ≠ 2)

include hfree hvalid hrank

/-- MLDS of a tile whose word has another rank than 2 (12 R320). -/
theorem exec_mlds_stop : exec (.mlds g a tag) s = .next (s.stopAt (shFault 0 0 none none 1 0 (s.ctx.twAt a) 0)) := by
  refine exec_access_stop rfl hrun ?_
  simp only [State.nameTiles_ok hfree, checkType_ok hvalid, State.checkMlds, need_stop (beq_eq_false_iff_ne.2 hrank), ok_bind, error_bind]

/-- MMULN from zero, of a tile whose word has another rank than 2, under a plane that is not PRUNED (12 R321). -/
theorem exec_mmuln_stop {c : Nat} (hplane : twPruned (s.coreAt s.ctx.core).arr.planTw = false) :
    exec (.mmuln g a 0 c tag) s = .next (s.stopAt (shFault 0 0 none none 1 0 (s.ctx.twAt a) 0)) := by
  refine exec_access_stop rfl hrun ?_
  have htypes : checkMulTypes (s.ctx.twAt a) 0 0 = .ok () := by
    rw [checkMulTypes, checkType_ok hvalid]
    rfl
  simp only [mulBody, if_neg Nat.zero_ne_one, Option.toList_none, List.append_nil, State.nameTiles_ok hfree, htypes, State.checkMul, hplane,
    Option.isSome_none, need_ok (beq_self_eq_true false), need_stop (beq_eq_false_iff_ne.2 hrank), ok_bind, error_bind]

end Ranks

/-! ## The state -/

/-- In the field of extent 0 it carries 1 into extent 1 and 1 into the rank, and leaves extent 0 at 1. -/
def carryingValue : Nat := 2 ^ 61 + 2 ^ 10 + 1

/-- The word of a tile of rank 1 in FP32, with D0 for its extent. -/
def vectorOfD0 : Word := mkType 1 9 0 0 0 [512]

/-- The word of a tile of 1 by 1 in FP32. -/
def oneByOne : Word := mkType 2 9 0 0 0 [1, 1]

/-- A bundle of context 32 on core 0, whose D0 holds `carryingValue` and whose tile 1 has the word `vectorOfD0`; the array has a plane of
1 by 1 planned. -/
def carrying : State :=
  { State.reset with
    me := 32
    bun := { Bun.closed with isOpen := true }
    ctxs := [(32, { Ctx.blank with
      tid := 1
      d := Ctx.blank.d.set 0 (some carryingValue)
      tw := Ctx.blank.tw.set 1 vectorOfD0 })]
    tasks := [(1, { Task.blank with tid := 1, tiles := 16, state := .running, cores := [0] })]
    cores := [(0, { CoreSt.empty with arr := { ArrayState.empty with planTw := oneByOne } })] }

theorem carrying_canRun : carrying.canRun .eMain 0 := ⟨rfl, rfl, by decide, by decide, fun _ => by decide⟩

theorem carrying_tilesFree : carrying.tilesFree [2, 1] := ⟨by decide, by decide⟩

/-- The word of rank 1 that tile 1 presents resolves to one of rank 2. -/
theorem carrying_resolves : carrying.resolveType (carrying.ctx.twAt 1) = oneByOne := by decide

theorem carrying_tileReady (comp : Bool) : carrying.tileReady 1 comp oneByOne where
  full := by decide
  valid := by cases comp <;> decide
  resolved := carrying_resolves
  bound := by decide
  fits := by decide

theorem carrying_tagRoom : carrying.tagRoom 5 1 := by
  unfold State.tagRoom
  decide

/-- Refutes O37: TTRANS asks rank 2 of the word that the source presents, the statement of the word it resolves to. -/
theorem not_tileFormsFork : ¬ Obligations.TileFormsFork := by
  unfold Obligations.TileFormsFork
  intro h
  have hrule : tileRule oneByOne 0 (.ttrans 0 2 1 5) := ⟨by decide, by decide⟩
  obtain ⟨t, hexec, hforked, -⟩ := h carrying (.ttrans 0 2 1 5) 0 oneByOne _ 0 5 2 1 0 .transpose none rfl hrule
    (fun _ _ _ _ _ heq => nomatch heq) carrying_canRun (carrying_tileReady false) carrying_tilesFree (by decide) (by decide) (by decide)
    (by decide) carrying_tagRoom (by decide) (.inl rfl)
  have hstop := exec_ttrans_stop (tag := 5) carrying_canRun carrying_tilesFree (by decide) (carrying_tileReady false).valid (by decide)
  exact State.not_forked_of_stop hstop hexec _ _ hforked

/-- Refutes O40: MLDS asks rank 2 of the word that the tile presents, the statement of the word it resolves to. -/
theorem not_matrixWords : ¬ Obligations.MatrixWords := by
  unfold Obligations.MatrixWords
  intro h
  obtain ⟨hmlds, -⟩ := h carrying 0 1 5 0 0 0 0 oneByOne carrying_canRun carrying_tagRoom (by decide)
  have hfree : carrying.tilesFree [1] := carrying_tilesFree.mono (by decide)
  obtain ⟨t, hexec, -, hforked, -⟩ := hmlds hfree (carrying_tileReady true) (by decide) (by decide) (by decide) (by decide) (by decide)
    (by decide)
  have hstop := exec_mlds_stop (tag := 5) carrying_canRun hfree (carrying_tileReady true).valid (by decide)
  exact State.not_forked_of_stop hstop hexec _ _ hforked

/-- The types satisfy R321 once resolved. -/
theorem carrying_mulRule : MulRule (carrying.coreAt carrying.ctx.core).arr (startOf 0) oneByOne 0 0 false 0 1 none := by
  constructor
  all_goals decide

/-- Refutes O41: MMULN asks rank 2 of the word that the activation presents, the statement of the word it resolves to. -/
theorem not_multiplyWords : ¬ Obligations.MultiplyWords := by
  unfold Obligations.MultiplyWords
  intro h
  have hfree : carrying.tilesFree [1] := carrying_tilesFree.mono (by decide)
  obtain ⟨t, hexec, -, hforked, -⟩ := h carrying (.mmuln 0 1 0 0 5) 0 1 0 0 5 none none oneByOne 0 0 rfl carrying_canRun
    carrying_tagRoom (by decide) (by decide) (by decide) hfree (carrying_tileReady true) (fun h => nomatch h) (fun _ => rfl)
    (fun _ h => nomatch h) (fun _ => rfl) carrying_mulRule (fun _ h => nomatch h) (by decide) (.inl rfl)
  have hstop := exec_mmuln_stop (tag := 5) (c := 0) carrying_canRun hfree (carrying_tileReady true).valid (by decide) (by decide)
  exact State.not_forked_of_stop hstop hexec _ _ hforked

end Sys2Proof.Machine
end

section
/-! What an issue that forks takes and leaves (06 R161; 12 R304, R305, R328, R329): the count of its tag, its draws, the bindings of its
types. -/
namespace Sys2Proof.Machine

/-- A check that passes leaves what follows it. -/
theorem bind_ok_of {α β : Type} {x : Except Stop α} {f : α → Except Stop β} {a : α} {r : Except Stop β} (hx : x = .ok a)
    (hf : f a = r) : (x >>= f) = r := by
  rw [hx]
  exact hf

/-! ## What a fork takes before its operation (12 R304): the count of its tag, its draws -/

/-- The state in which the tag counts `n` operations more. -/
def State.tagged (s : State) (tag n : Nat) : State :=
  s.putTask { s.task with tags := amSet s.task.tags (s.ctx.core * 64 + tag) (s.task.tagCount s.ctx.core tag + n) }

/-- The state in which channel E has given `d` draws. -/
def State.drewE (s : State) (d : Nat) : State := (s.tookNoise ((d + 1) / 2)).putCtx (s.drawnE d)

/-- `u` is `s` but for counts of tags, the position of channel E and the noise taken. -/
structure State.claimed (s u : State) : Prop where
  rest : u = { s with tasks := u.tasks, ctxs := u.ctxs, freeCtr := u.freeCtr }
  tasks : ∀ i, u.taskAt i = { s.taskAt i with tags := (u.taskAt i).tags }
  ctx : u.ctx = { s.ctx with rngpose := u.ctx.rngpose }

theorem State.raiseTag_ok {s : State} {tag n : Nat} (h : s.tagRoom tag n) : s.raiseTag tag n = .ok (s.tagged tag n) := by
  unfold State.tagRoom at h
  rw [State.raiseTag, need_ok (decide_eq_true h)]
  rfl

theorem State.drawE_live {s : State} {d : Nat} (h : s.drawsLive d) : s.drawE d = .ok (s.drewE d, s.drawsOfE d) := by
  have hwords : s.wordsE ((d + 1) / 2) = .ok (s.drewE d, (List.range ((d + 1) / 2)).map s.noiseAt) := by
    rcases h with rfl | ⟨hmode, hctl, hpos⟩
    · rfl
    · have hparity : s.needParity [0x030, 0x032] = .ok () := by simp [State.needParity, need, hctl, hpos]
      simp only [State.wordsE, hparity, State.noiseWords_live hmode]
      split
      all_goals rfl
  rw [State.drawE, hwords]
  rfl

theorem State.claimed.trans {s u v : State} (h : s.claimed u) (k : u.claimed v) : s.claimed v where
  rest := by rw [k.rest, h.rest]
  tasks i := by rw [k.tasks, h.tasks]
  ctx := by rw [k.ctx, h.ctx]

theorem State.claimed_tagged (s : State) (tag n : Nat) : s.claimed (s.tagged tag n) where
  rest := rfl
  tasks i := by
    by_cases hi : i = s.ctx.tid
    · subst hi
      rw [State.tagged, State.putTask, State.taskAt_setTask_self]
      rfl
    · rw [State.tagged, State.putTask, State.taskAt_setTask_of_ne _ _ hi]
  ctx := rfl

theorem State.claimed_drewE (s : State) (d : Nat) : s.claimed (s.drewE d) where
  rest := rfl
  tasks _ := rfl
  ctx := by
    rw [State.drewE, State.ctx_putCtx]
    rfl

/-- What a type word resolves to hangs on the bindings alone (04 R105). -/
theorem State.resolveType_congr {s u : State} (hpend : u.bun.pend = s.bun.pend) (hd : u.ctx.d = s.ctx.d) (w : Word) :
    u.resolveType w = s.resolveType w := by
  simp only [State.resolveType, State.resolveExt, Ctx.dAt, hpend, hd]

theorem State.latched_congr {s u : State} (hpend : u.bun.pend = s.bun.pend) (hd : u.ctx.d = s.ctx.d) (htw : u.ctx.tw = s.ctx.tw)
    (td : Option Nat) (w : Word) : u.latched td w = s.latched td w := by
  funext n
  rw [State.latched, State.latched, State.resolveType_congr hpend hd, Ctx.twAt, Ctx.twAt, htw]

/-- A tag counted and draws taken are a claim. -/
theorem State.claimed_drewE_tagged (s : State) (tag n d : Nat) : s.claimed ((s.tagged tag n).drewE d) :=
  (s.claimed_tagged tag n).trans (State.claimed_drewE _ d)

section Claimed

variable {s u : State} (h : s.claimed u)

include h

theorem State.claimed.ops : u.ops = s.ops := by rw [h.rest]

theorem State.claimed.me : u.me = s.me := by rw [h.rest]

theorem State.claimed.mem : u.mem = s.mem := by rw [h.rest]

theorem State.claimed.bun : u.bun = s.bun := by rw [h.rest]

theorem State.claimed.nextOp : u.nextOp = s.nextOp := by rw [h.rest]

theorem State.claimed.task : u.task = { s.task with tags := u.task.tags } := by
  have htid : u.ctx.tid = s.ctx.tid := by rw [h.ctx]
  rw [State.task, State.task, htid]
  exact h.tasks _

theorem State.claimed.placesTaken (core : Nat) : u.placesTaken core = s.placesTaken core := by
  rw [State.placesTaken, State.placesTaken, h.ops]

theorem State.claimed.marks (tid : Nat) : u.marks tid = s.marks tid := by
  have hp (i : Nat) : (u.taskAt i).p = (s.taskAt i).p := by rw [h.tasks]
  have hseq : (u.taskAt tid).seq = (s.taskAt tid).seq := by rw [h.tasks]
  have hsize : (u.taskAt tid).size = (s.taskAt tid).size := by rw [h.tasks]
  have hcluster : (u.taskAt tid).cluster = (s.taskAt tid).cluster := by rw [h.tasks]
  have hcores : (u.taskAt tid).cores = (s.taskAt tid).cores := by rw [h.tasks]
  have hlanded : (u.taskAt tid).landed = (s.taskAt tid).landed := by rw [h.tasks]
  simp only [State.marks, State.comingMarks, hp, hseq, hsize, hcluster, hcores, hlanded, h.ops]

theorem State.claimed.withOps (l : List Op) : ({ s with ops := l } : State).claimed { u with ops := l } where
  rest := congrArg (fun x : State => { x with ops := l }) h.rest
  tasks := h.tasks
  ctx := h.ctx

theorem State.claimed.marksSet (tid : Nat) : u.marksSet tid = s.marksSet tid := by
  rw [State.marksSet, State.marksSet, h.ops, h.bun]
  exact (h.withOps _).marks tid

theorem State.claimed.raceEngine (rd wr : List Touch) : u.raceEngine rd wr = s.raceEngine rd wr := by
  have htid : u.ctx.tid = s.ctx.tid := by rw [h.ctx]
  rw [State.raceEngine, State.raceEngine, htid, h.marksSet]

theorem State.claimed.resolveType (w : Word) : u.resolveType w = s.resolveType w :=
  State.resolveType_congr (by rw [h.bun]) (by rw [h.ctx]) w

theorem State.claimed.twAt (n : Nat) : u.ctx.twAt n = s.ctx.twAt n := by
  rw [h.ctx]
  rfl

theorem State.claimed.backTo (n : Nat) (c : Ctx) : u.backTo n c = s.backTo n c := by
  rw [State.backTo, State.backTo, h.resolveType, h.twAt]

end Claimed

/-! ## Bindings (04 R106, R111; 12 R328) -/

/-- `s` with other bindings pending in the bundle (04 R106). -/
def State.rebound (s : State) (p : AMap Nat) : State := { s with bun := { s.bun with pend := p } }

theorem bind_eq_ok {α β : Type} {x : Except Stop α} {f : α → Except Stop β} {b : β} (h : (x >>= f) = .ok b) :
    ∃ a, x = .ok a ∧ f a = .ok b := by
  cases x with
  | error e => cases h
  | ok a => exact ⟨a, rfl, h⟩

theorem State.unifyExt_rebound {s u : State} {k a b opa opb : Nat} {ta tb : Word} (h : s.unifyExt k a b opa opb ta tb = .ok u) :
    ∃ p, u = s.rebound p := by
  rw [State.unifyExt] at h
  split at h
  case h_1 =>
    split at h
    · cases h
      exact ⟨_, rfl⟩
    · cases h
  case h_2 => 
    cases h
    exact ⟨_, rfl⟩
  case h_3 => 
    cases h
    exact ⟨_, rfl⟩
  case h_4 =>
    split at h
    · cases h
      exact ⟨_, rfl⟩
    · cases h

theorem State.foldlM_rebound {f : State → Nat → Except Stop State} (hf : ∀ s k u, f s k = .ok u → ∃ p, u = s.rebound p)
    (l : List Nat) {s u : State} (h : l.foldlM f s = .ok u) : ∃ p, u = s.rebound p := by
  induction l generalizing s with
  | nil =>
    cases h
    exact ⟨_, rfl⟩
  | cons k ks ih =>
    rw [List.foldlM_cons] at h
    obtain ⟨v, hv, h⟩ := bind_eq_ok h
    obtain ⟨p, rfl⟩ := hf s k v hv
    obtain ⟨q, rfl⟩ := ih h
    exact ⟨q, rfl⟩

theorem State.unifyBox_rebound {s u : State} {dst cmp : Bool} {t fmt geom : Nat} {box : List Nat} {w : Word}
    (h : s.unifyBox dst t fmt geom box cmp = .ok (u, w)) : ∃ p, u = s.rebound p := by
  rw [State.unifyBox] at h
  obtain ⟨-, -, h⟩ := bind_eq_ok h
  split at h
  · split at h
    · cases h
    · cases h
      exact ⟨_, rfl⟩
  · obtain ⟨-, -, h⟩ := bind_eq_ok h
    obtain ⟨-, -, h⟩ := bind_eq_ok h
    obtain ⟨-, -, h⟩ := bind_eq_ok h
    obtain ⟨v, hv, h⟩ := bind_eq_ok h
    cases h
    refine State.foldlM_rebound (fun s k u hk => ?_) _ hv
    split at hk
    · cases hk
    · split at hk
      · exact State.unifyExt_rebound hk
      · exact State.unifyExt_rebound hk

theorem State.sourceType_rebound {s u : State} {m : CopyMode} {dst : Side} {box : List Nat} {ts : Option Nat} {w : Word}
    (h : s.sourceType m dst box ts = .ok (u, w)) : ∃ p, u = s.rebound p := by
  cases ts with
  | none =>
    cases h
    exact ⟨_, rfl⟩
  | some t =>
    cases dst with
    | win d => exact State.unifyBox_rebound h
    | chip reg => exact State.unifyBox_rebound h
    | tile n base t => exact State.unifyBox_rebound h

theorem State.targetType_rebound {s u : State} {m : CopyMode} {src : Side} {box : List Nat} {td : Option Nat} {w : Word}
    (h : s.targetType m src box td = .ok (u, w)) : ∃ p, u = s.rebound p := by
  cases td with
  | none =>
    cases h
    exact ⟨_, rfl⟩
  | some t =>
    rw [State.targetType] at h
    split at h
    · exact State.unifyBox_rebound h
    · exact State.unifyBox_rebound h

theorem CopyPasses.rebound {s s2 : State} {ce : List Word} {a b : Nat} {ts td : Option Nat} {src dst : Side} {twS twD : Word}
    {pl : CopyPlan} (h : CopyPasses s s2 ce a b ts td src dst twS twD pl) : ∃ p, s2 = s.rebound p := by
  obtain ⟨s1, hsource, htarget⟩ := h.types
  obtain ⟨p, rfl⟩ := State.sourceType_rebound hsource
  obtain ⟨q, rfl⟩ := State.targetType_rebound htarget
  exact ⟨q, rfl⟩

end Sys2Proof.Machine
end

section
/-! COPY as it issues (12 R327 to R330): after its checks it counts in its tag, draws, claims its follow-on, and forks. -/
namespace Sys2Proof.Machine

/-! ## The parts of a copy's issue -/

/-- The tiles of a follow-on that its copy does not load, as touches (12 R329). -/
def State.followTouches (s : State) (td : Option Nat) : Option Follow → List Touch
  | some f => (f.tiles.filter fun t => td != some t).map fun t => ⟨.tile s.me t, 0, 511, 0⟩
  | none => []

/-- The mark of a stretch that a copy writes. -/
def copyMark (m : CopyMode) (t : Touch) : Mark := { writeMark t with atomic := m.kind == 6 && (onChip [t]).isEmpty }

/-- The types of a copy's tiles as its issue writes them. -/
def State.copyTypes (s : State) (ts td : Option Nat) (twD : Word) : State :=
  let s := match ts with
    | some t => s.writeBack t
    | none => s
  match td with
    | some t => s.post 1 (.tw t twD)
    | none => s

/-- The state with a copy under way, its types written. -/
def State.withCopy (s : State) (tag : Nat) (ts td : Option Nat) (cmd : CopyCmd) (fol : Option Follow) (marks : List Mark) : State :=
  let s := s.copyTypes ts td cmd.twDst
  s.addOp (some tag) (.copy { cmd with follow := fol.map fun _ => s.nextOp + 1 }) marks

/-- The state with the copy's follow-on queued, if it has one. -/
def State.withFollow (s : State) (td : Option Nat) (twD : Word) (us : List Nat) : Option Follow → State
  | some f => s.forkFollow f (s.latched td twD) us
  | none => s

/-! ## The types a copy writes -/

theorem State.writeBack_rest (s : State) (n : Nat) : s.writeBack n = { s with ctxs := (s.writeBack n).ctxs } := by
  rw [State.writeBack]
  split
  · rfl
  · rfl

theorem State.ctx_writeBack (s : State) (n : Nat) : (s.writeBack n).ctx = s.backTo n s.ctx := by
  rw [State.writeBack, State.backTo]
  split
  · rfl
  · exact State.ctx_post s 1 _

theorem State.backTo_rest (s : State) (n : Nat) (c : Ctx) : s.backTo n c = { c with inflight := (s.backTo n c).inflight } := by
  rw [State.backTo]
  split
  · rfl
  · rfl

theorem State.copyTypes_rest (s : State) (ts td : Option Nat) (w : Word) :
    s.copyTypes ts td w = { s with ctxs := (s.copyTypes ts td w).ctxs } := by
  cases ts with
  | none => cases td <;> rfl
  | some t =>
    have hback := s.writeBack_rest t
    cases td with
    | none => exact hback
    | some d => exact congrArg (fun x : State => { x with ctxs := (s.copyTypes (some t) (some d) w).ctxs }) hback

theorem State.ctx_copyTypes (s : State) (ts td : Option Nat) (w : Word) : (s.copyTypes ts td w).ctx =
    td.toList.foldl (fun c t => c.post 1 (.tw t w)) (ts.toList.foldl (fun c t => s.backTo t c) s.ctx) := by
  have hsource : (s.copyTypes ts none w).ctx = ts.toList.foldl (fun c t => s.backTo t c) s.ctx := by
    cases ts with
    | none => rfl
    | some t =>
      have hback : s.copyTypes (some t) none w = s.writeBack t := rfl
      rw [hback, State.ctx_writeBack, Option.toList_some, List.foldl_cons, List.foldl_nil]
  cases td with
  | none => exact hsource
  | some d =>
    have hpost : s.copyTypes ts (some d) w = (s.copyTypes ts none w).post 1 (.tw d w) := rfl
    rw [hpost, State.ctx_post, hsource, Option.toList_some, List.foldl_cons, List.foldl_nil]

theorem State.ctx_copyTypes_rest (s : State) (ts td : Option Nat) (w : Word) :
    (s.copyTypes ts td w).ctx = { s.ctx with inflight := (s.copyTypes ts td w).ctx.inflight } := by
  have hsource : ∃ l, ts.toList.foldl (fun c t => s.backTo t c) s.ctx = { s.ctx with inflight := l } := by
    cases ts with
    | none => exact ⟨_, rfl⟩
    | some t =>
      rw [Option.toList_some, List.foldl_cons, List.foldl_nil]
      exact ⟨_, s.backTo_rest t s.ctx⟩
  obtain ⟨l, hl⟩ := hsource
  rw [State.ctx_copyTypes, hl]
  cases td with
  | none => rfl
  | some d => rfl

/-- `v` forks the operations that `s` does, and holds those under way in `s`. -/
structure State.forksAs (s v : State) : Prop where
  ops : v.ops = s.ops
  nextOp : v.nextOp = s.nextOp
  me : v.me = s.me
  bun : v.bun = s.bun
  tid : v.ctx.tid = s.ctx.tid
  core : v.ctx.core = s.ctx.core
  before : v.ctx.before = s.ctx.before
  behind : v.ctx.behind = s.ctx.behind
  past : v.task.before = s.task.before

theorem State.forksAs.trans {s u v : State} (h : s.forksAs u) (k : u.forksAs v) : s.forksAs v where
  ops := k.ops.trans h.ops
  nextOp := k.nextOp.trans h.nextOp
  me := k.me.trans h.me
  bun := k.bun.trans h.bun
  tid := k.tid.trans h.tid
  core := k.core.trans h.core
  before := k.before.trans h.before
  behind := k.behind.trans h.behind
  past := k.past.trans h.past

theorem State.forksAs.newOp {s v : State} (h : s.forksAs v) (tag : Nat) (k : OpKind) (marks : List Mark) :
    v.newOp tag k marks = s.newOp tag k marks := by
  simp only [State.newOp, State.undone, h.ops, h.nextOp, h.me, h.bun, h.tid, h.core, h.before, h.behind, h.past]

theorem State.claimed.forksAs {s u : State} (h : s.claimed u) : s.forksAs u where
  ops := h.ops
  nextOp := h.nextOp
  me := h.me
  bun := h.bun
  tid := by rw [h.ctx]
  core := by rw [h.ctx]
  before := by rw [h.ctx]
  behind := by rw [h.ctx]
  past := by rw [h.task]

theorem State.forksAs_copyTypes (s : State) (ts td : Option Nat) (w : Word) : s.forksAs (s.copyTypes ts td w) where
  ops := by rw [State.copyTypes_rest]
  nextOp := by rw [State.copyTypes_rest]
  me := by rw [State.copyTypes_rest]
  bun := by rw [State.copyTypes_rest]
  tid := by rw [State.ctx_copyTypes_rest]
  core := by rw [State.ctx_copyTypes_rest]
  before := by rw [State.ctx_copyTypes_rest]
  behind := by rw [State.ctx_copyTypes_rest]
  past := by
    have htid : (s.copyTypes ts td w).ctx.tid = s.ctx.tid := by rw [State.ctx_copyTypes_rest]
    rw [State.task, State.task, htid, State.copyTypes_rest]
    rfl

/-- The state with operation `o` under way. -/
def State.withOp (s : State) (o : Op) : State := { s with ops := s.ops ++ [o], nextOp := s.nextOp + 1 }

theorem State.addOp_eq_withOp (s : State) (tag : Nat) {k : OpKind} (h : k.onCounters = false) (marks : List Mark) :
    s.addOp (some tag) k marks = s.withOp (s.newOp tag k marks) := by
  rw [State.addOp, State.forkPast, h]
  rfl

/-- An operation that performs as it completes is not one of those whose performance another awaits. -/
theorem State.undone_withOp (s : State) {o : Op} (h : o.unperformed = false) (ids : List Nat) : (s.withOp o).undone ids = s.undone ids := by
  simp only [State.undone, State.withOp, List.any_append, List.any_cons, List.any_nil, h, Bool.and_false, Bool.or_false]

/-- The follow-on `f` of a copy under way, with the types its tiles are latched at (12 R329). -/
def State.followOp (s : State) (f : Follow) (tw : Nat → Word) (us : List Nat) : Op :=
  { s.newOp f.tag (.matrix (followCmd f.instr tw us) ⟨0, false, [], none, false⟩) 
      (f.tiles.map fun t => readMark ⟨.tile s.me t, 0, 511, 0⟩) with
    carried := true }

/-- An operation, carried if it is the last before identity `n`. -/
def Op.carry (n : Nat) (o : Op) : Op := if o.id + 1 = n then { o with carried := true } else o

/-- Operations have ascending identities, so the follow-on alone is marked as carried. -/
theorem State.forkFollow_eq_withOp {s : State} (h : ∀ o ∈ s.ops, o.id < s.nextOp) (f : Follow) (tw : Nat → Word) (us : List Nat) :
    s.forkFollow f tw us = s.withOp (s.followOp f tw us) := by
  have hkeep : s.ops.map (Op.carry (s.nextOp + 1)) = s.ops :=
    (List.map_congr_left fun o ho => if_neg fun heq => Nat.ne_of_lt (h o ho) (Nat.succ.inj heq)).trans s.ops.map_id
  have hcarry (o : Op) : { s.withOp o with ops := (s.withOp o).ops.map (Op.carry (s.withOp o).nextOp) } =
      s.withOp (o.carry (s.nextOp + 1)) := by
    simp only [State.withOp, List.map_append, List.map_singleton, hkeep]
  rw [State.forkFollow, State.addOp_eq_withOp s f.tag rfl]
  refine (hcarry _).trans (congrArg s.withOp (if_pos ?_))
  rfl

/-- What a copy does that has passed its checks: tag, draws, its follow-on's claim, races, place, fork. -/
def State.forkCopy (s : State) (core tag : Nat) (ts td : Option Nat) (cmd : CopyCmd) (pl : CopyPlan) (m : CopyMode) (fol : Option Follow) :
    Except Stop State := do
  let (tr, tw) := s.copyTouches s.me pl
  let follow := s.followTouches td fol
  let s ← s.raiseTag tag 1
  let (s, us) ← s.drawE (if m.kind = 2 ∧ m.rnd = 1 then pl.conversions else 0)
  let (s, fus) ← s.claimFollow (s.latched td cmd.twDst) fol
  s.raceEngine (onChip tr ++ follow) (onChip tw)
  need (s.placesTaken core < copyPlacesOf core) (.block (.copyPlaces core))
  return (s.withCopy tag ts td { cmd with draws := us } fol (tr.map readMark ++ tw.map (copyMark m))).withFollow td cmd.twDst fus fol

/-! ## The fork of a copy (12 R304, R329) -/

theorem State.tagRoom.one {s : State} {tag : Nat} (h : s.tagRoom tag 2) : s.tagRoom tag 1 := by
  unfold State.tagRoom at h ⊢
  omega

/-- With room for two in a tag there is room for one when another one counts one more, be it the same. -/
theorem State.tagRoom_tagged {s : State} {tag other : Nat} (h : s.tagRoom tag 2) : (s.tagged other 1).tagRoom tag 1 := by
  unfold State.tagRoom at h ⊢
  have hctx : (s.tagged other 1).ctx = s.ctx := rfl
  rw [hctx, State.tagged, State.task_putTask]
  rw [Task.tagCount] at h ⊢
  dsimp only
  by_cases hsame : tag = other
  · subst hsame
    rw [amGet_amSet_self, Option.getD_some, Task.tagCount]
    omega
  · have hkey : s.ctx.core * 64 + tag ≠ s.ctx.core * 64 + other := fun heq => hsame (Nat.add_left_cancel heq)
    rw [amGet_amSet_of_ne _ _ hkey]
    omega

theorem State.tagRoom_drewE {s : State} {d tag n : Nat} (h : s.tagRoom tag n) : (s.drewE d).tagRoom tag n := by
  have hcore : (s.drewE d).ctx.core = s.ctx.core := by rw [(s.claimed_drewE d).ctx]
  have htask : (s.drewE d).task = s.task := by
    have htid : (s.drewE d).ctx.tid = s.ctx.tid := by rw [(s.claimed_drewE d).ctx]
    rw [State.task, htid]
    rfl
  rwa [State.tagRoom, htask, hcore]

/-- The follow-on of a copy that draws nothing counts in its tag. -/
theorem State.claimFollow_undrawn {s : State} {f : Follow} (hroom : s.tagRoom f.tag 1) (h : followRnd f.instr ≠ 1) (tw : Nat → Word) :
    s.claimFollow tw (some f) = .ok ((s.tagged f.tag 1).drewE 0, []) := by
  rw [State.claimFollow, State.raiseTag_ok hroom, ok_bind, State.followDraws, if_neg h]
  exact State.drawE_live (.inl rfl)

theorem State.withCopy_eq {s u : State} (hu : s.claimed u) (tag : Nat) (ts td : Option Nat) (cmd : CopyCmd) (fol : Option Follow)
    (marks : List Mark) : u.withCopy tag ts td cmd fol marks = (u.copyTypes ts td cmd.twDst).withOp
      (s.newOp tag (.copy { cmd with follow := fol.map fun _ => s.nextOp + 1 }) marks) := by
  have hforks := hu.forksAs.trans (u.forksAs_copyTypes ts td cmd.twDst)
  rw [State.withCopy, State.addOp_eq_withOp _ _ rfl, hforks.newOp, hforks.nextOp]

/-- A copy's claim, its types and operation `o` are its fork of `o`. -/
theorem State.forked_copy (s : State) (tag n : Nat) (ts td : Option Nat) (w : Word) (o : Op) :
    s.forked ((((s.tagged tag 1).drewE n).copyTypes ts td w).withOp o) tag o := by
  have hu : s.claimed ((s.tagged tag 1).drewE n) := s.claimed_drewE_tagged tag 1 n
  have hv := hu.forksAs.trans (State.forksAs_copyTypes _ ts td w)
  refine ⟨?_, ?_, ?_, hv.me, ?_⟩
  · rw [State.withOp, hv.ops]
  · rw [State.withOp, hv.nextOp]
  · rw [State.copyTypes_rest]
    exact hu.mem
  · rw [State.copyTypes_rest]
    rfl

theorem State.ctx_copyTypes_claimed {s u : State} (hu : s.claimed u) (ts td : Option Nat) (w : Word) : (u.copyTypes ts td w).ctx =
    td.toList.foldl (fun c t => c.post 1 (.tw t w)) (ts.toList.foldl (fun c t => s.backTo t c) u.ctx) := by
  have hback : (fun (c : Ctx) t => u.backTo t c) = fun c t => s.backTo t c := by
    funext c t
    exact hu.backTo t c
  rw [State.ctx_copyTypes, hback]

theorem State.ctx_copied (s : State) (tag n : Nat) (ts td : Option Nat) (w : Word) (o : Op) :
    ((((s.tagged tag 1).drewE n).copyTypes ts td w).withOp o).ctx =
      td.toList.foldl (fun c t => c.post 1 (.tw t w)) (ts.toList.foldl (fun c t => s.backTo t c) (s.drawnE n)) := by
  have hu : s.claimed ((s.tagged tag 1).drewE n) := s.claimed_drewE_tagged tag 1 n
  have hctx : ((s.tagged tag 1).drewE n).ctx = s.drawnE n := State.ctx_putCtx _ _
  have hwith : ((((s.tagged tag 1).drewE n).copyTypes ts td w).withOp o).ctx = (((s.tagged tag 1).drewE n).copyTypes ts td w).ctx := rfl
  rw [hwith, State.ctx_copyTypes_claimed hu, hctx]

section Fork

variable {s : State} {core tag n : Nat} {ts td : Option Nat} {cmd : CopyCmd} {pl : CopyPlan} {m : CopyMode}
  {tr tw : List Touch} (htouch : s.copyTouches s.me pl = (tr, tw)) (hroom : s.tagRoom tag 1)
  (hn : n = if m.kind = 2 ∧ m.rnd = 1 then pl.conversions else 0) (hlive : s.drawsLive n)

include htouch hroom hn hlive

theorem State.forkCopy_claims {fol : Option Follow} {u : State} {fus : List Nat}
    (hclaim : ((s.tagged tag 1).drewE n).claimFollow (((s.tagged tag 1).drewE n).latched td cmd.twDst) fol = .ok (u, fus))
    (hu : s.claimed u) (hrace : s.raceEngine (onChip tr ++ s.followTouches td fol) (onChip tw) = .ok ()) :
    s.forkCopy core tag ts td cmd pl m fol = (do
      need (s.placesTaken core < copyPlacesOf core) (.block (.copyPlaces core))
      return (u.withCopy tag ts td { cmd with draws := s.drawsOfE n } fol (tr.map readMark ++ tw.map (copyMark m))).withFollow
        td cmd.twDst fus fol) := by
  rw [State.forkCopy, ← hn, htouch]
  refine bind_ok_of (State.raiseTag_ok hroom) ?_
  refine bind_ok_of (State.drawE_live (s := s.tagged tag 1) hlive) ?_
  refine bind_ok_of hclaim ?_
  refine bind_ok_of ((hu.raceEngine _ _).trans hrace) ?_
  rw [hu.placesTaken]
  rfl

/-- A copy without a follow-on, with a place in the engine. -/
theorem State.forkCopy_alone (hrace : s.raceEngine (onChip tr) (onChip tw) = .ok ()) (hplace : s.placesTaken core < copyPlacesOf core) :
    s.forkCopy core tag ts td cmd pl m none = .ok ((((s.tagged tag 1).drewE n).copyTypes ts td cmd.twDst).withOp
      (s.newOp tag (.copy { cmd with draws := s.drawsOfE n, follow := none }) (tr.map readMark ++ tw.map (copyMark m)))) := by
  have hu : s.claimed ((s.tagged tag 1).drewE n) := s.claimed_drewE_tagged tag 1 n
  rw [State.forkCopy_claims htouch hroom hn hlive (fol := none) rfl hu (by rwa [State.followTouches, List.append_nil]),
    need_ok (decide_eq_true hplace), State.withCopy_eq hu]
  rfl

/-- A copy without a follow-on, its engine full. -/
theorem State.forkCopy_crowded (hrace : s.raceEngine (onChip tr) (onChip tw) = .ok ()) (hplace : copyPlacesOf core ≤ s.placesTaken core) :
    s.forkCopy core tag ts td cmd pl m none = .error (.block (.copyPlaces core)) := by
  have hu : s.claimed ((s.tagged tag 1).drewE n) := s.claimed_drewE_tagged tag 1 n
  rw [State.forkCopy_claims htouch hroom hn hlive (fol := none) rfl hu (by rwa [State.followTouches, List.append_nil]),
    need_stop (decide_eq_false (Nat.not_lt.2 hplace))]
  rfl

end Fork

/-- The follow-on queued behind its copy `o` is the one that `s` would queue, with the identity after (12 R329). -/
theorem State.followOp_copied {s u : State} (hu : s.claimed u) (ts td : Option Nat) (w : Word) {o : Op} (ho : o.unperformed = false)
    (f : Follow) (us : List Nat) : let x := (u.copyTypes ts td w).withOp o
    x.followOp f (x.latched td w) us = { s.followOp f (s.latched td w) us with id := s.nextOp + 1 } := by
  have hv := hu.forksAs.trans (u.forksAs_copyTypes ts td w)
  have hctx : (u.copyTypes ts td w).ctx = { s.ctx with rngpose := u.ctx.rngpose, inflight := (u.copyTypes ts td w).ctx.inflight } := by
    rw [State.ctx_copyTypes_rest, hu.ctx]
  have hlatched : (u.copyTypes ts td w).latched td w = s.latched td w :=
    State.latched_congr (by rw [hv.bun]) (by rw [hctx]) (by rw [hctx]) td w
  have hwith : ((u.copyTypes ts td w).withOp o).latched td w = (u.copyTypes ts td w).latched td w := State.latched_congr rfl rfl rfl td w
  have hid : ((u.copyTypes ts td w).withOp o).nextOp = s.nextOp + 1 := by rw [State.withOp, hv.nextOp]
  have hme : ((u.copyTypes ts td w).withOp o).me = s.me := hv.me
  have hbun : ((u.copyTypes ts td w).withOp o).bun = s.bun := hv.bun
  have hat : ((u.copyTypes ts td w).withOp o).ctx = (u.copyTypes ts td w).ctx := rfl
  have hpast : ((u.copyTypes ts td w).withOp o).task.before = s.task.before := hv.past
  have hundone (ids : List Nat) : (u.copyTypes ts td w).undone ids = s.undone ids := by rw [State.undone, State.undone, hv.ops]
  dsimp only
  rw [hwith, hlatched]
  simp only [State.followOp, State.newOp, State.undone_withOp _ ho, hid, hme, hbun, hat, hpast, hundone, hv.tid, hv.core, hv.before,
    hv.behind]

/-- A copy with a follow-on that draws nothing, with a place in the engine. -/
theorem State.forkCopy_followed {s : State} {core tag n : Nat} {ts td : Option Nat} {cmd : CopyCmd} {pl : CopyPlan} {m : CopyMode}
    {tr tw : List Touch} {f : Follow} (htouch : s.copyTouches s.me pl = (tr, tw)) (hroom : s.tagRoom tag 2) (hfollow : s.tagRoom f.tag 2)
    (hn : n = if m.kind = 2 ∧ m.rnd = 1 then pl.conversions else 0) (hlive : s.drawsLive n) (hrnd : followRnd f.instr ≠ 1)
    (hids : ∀ o ∈ s.ops, o.id < s.nextOp) (hrace : s.raceEngine (onChip tr ++ s.followTouches td (some f)) (onChip tw) = .ok ())
    (hplace : s.placesTaken core < copyPlacesOf core) :
    ∃ t : State, s.forkCopy core tag ts td cmd pl m (some f) = .ok t ∧ t.mem = s.mem ∧ t.nextOp = s.nextOp + 2 ∧
      t.ops = s.ops ++ [s.newOp tag (.copy { cmd with draws := s.drawsOfE n, follow := some (s.nextOp + 1) })
          (tr.map readMark ++ tw.map (copyMark m)),
        { s.followOp f (s.latched td cmd.twDst) [] with id := s.nextOp + 1 }] := by
  have hclaimed : s.claimed ((s.tagged tag 1).drewE n) := s.claimed_drewE_tagged tag 1 n
  have hu : s.claimed ((((s.tagged tag 1).drewE n).tagged f.tag 1).drewE 0) :=
    hclaimed.trans (State.claimed_drewE_tagged _ f.tag 1 0)
  have hclaim := State.claimFollow_undrawn (State.tagRoom_drewE (d := n) (State.tagRoom_tagged (other := tag) hfollow)) hrnd
    (((s.tagged tag 1).drewE n).latched td cmd.twDst)
  generalize (((s.tagged tag 1).drewE n).tagged f.tag 1).drewE 0 = u at hu hclaim
  have hv := hu.forksAs.trans (u.forksAs_copyTypes ts td cmd.twDst)
  have hxids (o : Op) (ho : o.id = s.nextOp) : ∀ q ∈ ((u.copyTypes ts td cmd.twDst).withOp o).ops,
      q.id < ((u.copyTypes ts td cmd.twDst).withOp o).nextOp := by
    intro q hq
    rw [State.withOp, hv.ops, List.mem_append, List.mem_singleton] at hq
    rw [State.withOp, hv.nextOp]
    rcases hq with hq | rfl
    · exact Nat.lt_succ_of_lt (hids q hq)
    · exact ho ▸ Nat.lt_succ_self _
  rw [State.forkCopy_claims htouch hroom.one hn hlive hclaim hu hrace, need_ok (decide_eq_true hplace), State.withCopy_eq hu,
    State.withFollow, State.forkFollow_eq_withOp (hxids _ rfl), State.followOp_copied hu ts td cmd.twDst rfl]
  refine ⟨_, rfl, ?_, ?_, ?_⟩
  · rw [State.withOp, State.withOp, State.copyTypes_rest]
    exact hu.mem
  · rw [State.withOp, State.withOp, hv.nextOp]
  · rw [State.withOp, State.withOp, hv.ops, List.append_assoc]
    rfl

/-! ## The checks of a copy (12 R328) -/

theorem checkType_side {f : Nat → Word} {n : Option Nat} (h : ∀ t ∈ n, f t = 0 ∨ typeFault true (f t) = none) :
    checkType true ((n.map f).getD 0) = .ok () := by
  cases n with
  | none => rfl
  | some t =>
    rcases h t rfl with h0 | hvalid
    · show checkType true (f t) = _
      rw [h0]
      rfl
    · exact checkType_ok hvalid

theorem State.copyPlan_mode {s : State} {p tid cid core : Nat} {c : CopyCmd} {pl : CopyPlan} (h : s.copyPlan p tid cid core c = some pl) :
    pl.m = copyMode (c.ce.getD 0 0) := by
  rw [State.copyPlan] at h
  split at h
  · cases h
    rfl
  · cases h

theorem copyMark_eq (m : CopyMode) {t : Touch} {c : Bool} (hc : (onChip [t]).isEmpty = !c) :
    (if (decide (m.kind = 6) && !c) = true then { writeMark t with atomic := true } else writeMark t) = copyMark m t := by
  rw [copyMark, hc]
  split
  case isTrue h6 =>
    obtain ⟨hkind, hoff⟩ := Bool.and_eq_true_iff.1 h6
    rw [of_decide_eq_true hkind, hoff]
    rfl
  case isFalse h6 =>
    have hplain : (m.kind == 6 && !c) = false := Bool.eq_false_iff.2 h6
    rw [hplain]
    rfl

section Passes

variable {s s2 : State} {ce : List Word} {a b : Nat} {ts td : Option Nat} {src dst : Side} {twS twD : Word} {pl : CopyPlan}
  (h : CopyPasses s s2 ce a b ts td src dst twS twD pl)

include h

theorem CopyPasses.ctx : s2.ctx = s.ctx := by
  obtain ⟨p, rfl⟩ := h.rebound
  rfl

theorem CopyPasses.me : s2.me = s.me := by
  obtain ⟨p, rfl⟩ := h.rebound
  rfl

theorem CopyPasses.sourceTile : (if (!decide (384 ≤ s.ctx.core) && decide (sideKind (ce.getD 1 0) = 3)) = true then
    some (sideTile (ce.getD 1 0)) else none) = ts := by
  rw [h.tiles.1]
  simp

theorem CopyPasses.targetTile : (if (!decide (384 ≤ s.ctx.core) && decide (sideKind (ce.getD 2 0) = 3)) = true then
    some (sideTile (ce.getD 2 0)) else none) = td := by
  rw [h.tiles.2]
  simp

theorem CopyPasses.checkType_source : checkType true ((ts.map s.ctx.twAt).getD 0) = .ok () :=
  checkType_side fun t ht => h.valid t (List.mem_append_left _ (Option.mem_toList.2 ht))

theorem CopyPasses.checkType_target : checkType true ((td.map s.ctx.twAt).getD 0) = .ok () :=
  checkType_side fun t ht => h.valid t (List.mem_append_right _ (Option.mem_toList.2 ht))

theorem CopyPasses.companions : (!s.companionBad s.task.p src (ce.getD 3 0) 0 && !s.companionBad s.task.p dst (ce.getD 3 0) 16) = true := by
  rw [h.scales.1, h.scales.2]
  rfl

theorem CopyPasses.disjoint : ((copyMode (ce.getD 0 0)).kind == 0 || !pl.overlaps) = true := by
  rcases h.apart with hkind | hover
  · rw [← State.copyPlan_mode h.plan, hkind]
    rfl
  · rw [hover, Bool.not_false, Bool.or_true]

/-- A copy whose checks have passed does what `State.forkCopy` says. The proof goes through the issue check by check; `unify`, `latch`,
`fits` and `plan` are what follows the source's type, the target's, and the sizes of both. -/
theorem CopyPasses.copyBody_eq {tag : Nat} (ha : s.readable a) (hb : s.readable b) : copyBody tag a b s =
    s2.forkCopy s.ctx.core tag ts td ⟨ce, s.xval a, s.xval b, twS, twD, [], none, 0⟩ pl (copyMode (ce.getD 0 0))
      (if (copyMode (ce.getD 0 0)).follow = true then followOf (ce.getD 29 0) else none) := by
  obtain ⟨r, hr⟩ : ∃ r, s2.forkCopy s.ctx.core tag ts td ⟨ce, s.xval a, s.xval b, twS, twD, [], none, 0⟩ pl
    (copyMode (ce.getD 0 0)) (if (copyMode (ce.getD 0 0)).follow = true then followOf (ce.getD 29 0) else none) = r := ⟨_, rfl⟩
  obtain ⟨s1, hsource, htarget⟩ := h.types
  have hctx : s1.ctx = s.ctx := by
    obtain ⟨p, rfl⟩ := State.sourceType_rebound hsource
    rfl
  rw [hr, copyBody]
  refine bind_ok_of (State.rx_of_readable ha) (bind_ok_of (State.rx_of_readable hb) ?_)
  rw [← h.regs, h.sourceTile, h.targetTile]
  refine bind_ok_of (State.nameTiles_ok h.free) (bind_ok_of h.checkType_source (bind_ok_of h.checkType_target ?_))
  extract_lets p box geomOf inside chip fol wmark bx
  rw [show s.sideOf p s.ctx.tid s.me s.ctx.core (ce.getD 1 0) ((ts.map s.ctx.twAt).getD 0) = some src from h.source,
    show s.sideOf p s.ctx.tid s.me s.ctx.core (ce.getD 2 0) ((td.map s.ctx.twAt).getD 0) = some dst from h.target]
  refine bind_ok_of (need_ok h.companions _) (bind_ok_of h.faults ?_)
  extract_lets unify
  suffices hunify : unify (s1, twS) = r by
    clear_value unify
    clear hr
    cases ts with
    | none =>
      cases hsource
      exact hunify
    | some t =>
      cases dst with
      | win d => exact bind_ok_of hsource hunify
      | chip reg => exact bind_ok_of hsource hunify
      | tile n base t => exact bind_ok_of hsource hunify
  dsimp -zeta only [unify]
  extract_lets latch
  suffices hlatch : latch (s2, twD) = r by
    clear_value latch
    clear hr
    cases td with
    | none =>
      cases htarget
      exact hlatch
    | some t =>
      have hgeom : geomOf src = sideGeom src := by cases src <;> rfl
      have hcast : (decide ((copyMode (ce.getD 0 0)).kind = 2) && decide (twRank (s.ctx.twAt t) = 0)) = true ↔
          (copyMode (ce.getD 0 0)).kind = 2 ∧ twRank (s.ctx.twAt t) = 0 := by simp
      rw [State.targetType, hctx] at htarget
      dsimp only
      rw [Option.map_some, Option.getD_some, hgeom]
      split
      case isTrue hc =>
        rw [if_pos (hcast.1 hc)] at htarget
        exact bind_ok_of htarget hlatch
      case isFalse hc =>
        rw [if_neg (hcast.not.1 hc)] at htarget
        exact bind_ok_of htarget hlatch
  dsimp -zeta only [latch]
  extract_lets cmd folTiles plan fits
  suffices hfits : fits () = r by
    clear_value fits
    clear hr
    cases td with
    | none => exact hfits
    | some t => exact bind_ok_of (needFits_ok (.inr (h.sizes.2 t rfl)) 0) hfits
  dsimp -zeta only [fits]
  suffices hplan : plan () = r by
    clear_value plan
    clear hr
    cases ts with
    | none => exact hplan
    | some t => exact bind_ok_of (needFits_ok (.inr (h.sizes.1 t rfl)) 1) hplan
  dsimp -zeta only [plan]
  rw [h.me, show s2.copyPlan p s.ctx.tid s.me s.ctx.core cmd = some pl from h.plan]
  have hinside (x : Side) (ps : List (CopyPlace × Nat))
      (hx : ∀ reg lo hi, x = .chip reg → chipSpan ps = some (lo, hi) → 0 ≤ lo ∧ hi ≤ reg.size) : inside x ps = true := by
    dsimp only [inside]
    split
    next hspan =>
      obtain ⟨hlo, hhi⟩ := hx _ _ _ rfl hspan
      rw [decide_eq_true hlo, decide_eq_true hhi]
      rfl
    next => rfl
  refine bind_ok_of (need_ok (Bool.and_eq_true_iff.2 ⟨hinside _ _ fun reg lo hi hx hspan => h.inside reg lo hi (.inl ⟨hx, hspan⟩),
    hinside _ _ fun reg lo hi hx hspan => h.inside reg lo hi (.inr ⟨hx, hspan⟩)⟩) _) ?_
  rw [h.leases]
  refine bind_ok_of (need_ok h.disjoint _) ?_
  have hchip : ∀ l, List.filter chip l = onChip l := fun _ => rfl
  have hmark : wmark = copyMark (copyMode (ce.getD 0 0)) := by
    funext t
    refine copyMark_eq _ ?_
    rw [← hchip]
    cases hc : chip t <;> simp [hc]
  have hfol : folTiles = s2.followTouches td fol := by
    dsimp only [folTiles]
    cases fol <;> rfl
  have hdraws : (if (decide ((copyMode (ce.getD 0 0)).kind = 2) && decide ((copyMode (ce.getD 0 0)).rnd = 1)) = true then
      pl.conversions else 0) = if (copyMode (ce.getD 0 0)).kind = 2 ∧ (copyMode (ce.getD 0 0)).rnd = 1 then pl.conversions else 0 := by
    simp only [Bool.and_eq_true, decide_eq_true_eq]
  rw [← hr, State.forkCopy, h.me, hchip, hchip, hmark, hfol, hdraws]
  clear_value chip wmark folTiles
  rfl

end Passes

theorem State.followOp_rebound (s : State) (p : AMap Nat) (f : Follow) (td : Option Nat) (w : Word) (n : Nat) :
    { (s.rebound p).followOp f ((s.rebound p).latched td w) [] with id := n } =
      (⟨n, s.ctx.tid, s.me, s.ctx.core, some f.tag, s.bun.addr.toNat, .matrix (followCmd f.instr (fun k => if td = some k then w
          else (s.rebound p).resolveType ((s.rebound p).ctx.twAt k)) []) ⟨0, false, [], none, false⟩, false, true,
        f.tiles.map (fun k => readMark ⟨.tile s.me k, 0, 511, 0⟩), union (s.undone s.task.before) (s.undone s.ctx.before),
        s.undone s.ctx.behind⟩ : Op) := rfl

/-- Settles O42: with its checks passed the issue is `State.forkCopy`, and that claims and forks. -/
theorem copyIssues : Obligations.CopyIssues := by
  unfold Obligations.CopyIssues
  intro s s2 g tag a b ce ts td src dst twS twD pl hrun ha hb hpass m
  obtain ⟨p, hp⟩ := hpass.rebound
  rcases htouch : s2.copyTouches s.me pl with ⟨tr, tw⟩
  rw [← hpass.me] at htouch
  obtain ⟨n, hn⟩ : ∃ n, n = if m.kind = 2 ∧ m.rnd = 1 then pl.conversions else 0 := ⟨_, rfl⟩
  dsimp only
  rw [← hn]
  intro hlive
  refine ⟨fun hfollow hrace => ⟨fun hroom hplace => ?_, fun hroom hplace => ?_⟩,
    fun f hfollow hf hrnd hids hrace hroom hftag hplace => ?_⟩
  · have hbody := hpass.copyBody_eq (tag := tag) ha hb
    rw [if_neg (Bool.eq_false_iff.1 hfollow), State.forkCopy_alone htouch hroom hn hlive hrace hplace] at hbody
    exact ⟨_, exec_kept rfl hrun rfl hbody, State.forked_copy s2 tag n ts td twD _, State.ctx_copied s2 tag n ts td twD _⟩
  · have hbody := hpass.copyBody_eq (tag := tag) ha hb
    rw [if_neg (Bool.eq_false_iff.1 hfollow), State.forkCopy_crowded htouch hroom hn hlive hrace hplace] at hbody
    exact exec_access_stop rfl hrun hbody
  · have hbody := hpass.copyBody_eq (tag := tag) ha hb
    rw [if_pos hfollow, hf] at hbody
    rw [← hpass.me] at hrace
    have hids2 : ∀ o ∈ s2.ops, o.id < s2.nextOp := by rw [hp]; exact hids
    obtain ⟨t, ht, hmem, hnext, hops⟩ := State.forkCopy_followed (core := s.ctx.core) (ts := ts) (td := td)
      (cmd := ⟨ce, s.xval a, s.xval b, twS, twD, [], none, 0⟩) htouch hroom hftag hn hlive hrnd hids2 hrace hplace
    rw [ht] at hbody
    refine ⟨t, exec_kept rfl hrun rfl hbody, ?_, ?_, ?_⟩
    · rw [hmem, hp]
      rfl
    · rw [hnext, hp]
      rfl
    · rw [hops, hp, State.followOp_rebound]
      rfl

end Sys2Proof.Machine
end
